-- ==== Sys2Proof/Word.lean ====
section
/-! DEFINITION. The words of the part: bytes, slices, lines, part time, byte masks, device sets. -/

namespace Sys2Proof

/-- One byte. -/
abbrev Byte := BitVec 8

/-- A slice: the 4 bytes of a line that one device stores (00, Terms). -/
abbrev Slice := BitVec 32

/-- The 64 data bytes of a line (00, Sizes and addresses); byte `i` is bits `8 i + 7 .. 8 i`, so that a
little-endian field of a control-window record (10, section 10.6) is a run of bits. -/
abbrev Line := BitVec 512

/-- Part time: a count of microseconds modulo 2^48 (00, Time). -/
abbrev PartTime := BitVec 48

/-- A running count of 32 bits: the journal's W and M (R175). -/
abbrev Count32 := BitVec 32

/-- The byte mask of a masked write: bit `i` names byte `i` of the line (00, Terms). -/
abbrev ByteMask := BitVec 64

/-- A set of the 20 devices of a rank: bit `d` stands for device `d` (R61, and section 10.6). -/
abbrev DeviceSet := BitVec 20

end Sys2Proof
end

