-- ==== Sys2Proof/Config.lean ====
section
/-! DEFINITION. What the part fixes: its sizes, and the free values the manual leaves open. -/

namespace Sys2Proof.Config

/-- Host lines of one rank (00, Sizes and addresses). -/
def hostLinesPerRank : Nat := 33554432

/-- Physical lines of one rank, spare rows included (R2). -/
def physLinesPerRank : Nat := 33570816

/-- Host rows of one rank; the physical row of spare row index 0 (R2). -/
def hostRows : Nat := 262144

/-- Lines of a row (R1). -/
def columns : Nat := 128

/-- Lines of the control window (R56). -/
def windowLines : Nat := 16384

/-- The coded positions of the slice code (R5). -/
def positions : Nat := 19

/-- The devices of a rank (R5). -/
def devicesPerRank : Nat := 20

/-- Microseconds in a second (00, Time). -/
def second : Nat := 1000000

/-- The longest span of a quiet window, 4 h (R84). -/
def longestWindow : Nat := 14400000000

/-- Where a saturating status counter stops (R180), and the pass counts too (R93). -/
def counterMax : Nat := 4294967295

/-- FREE VALUE (log 5). The check slice of a check position, "computed over all 16 data positions" (R5); the
manual does not give the computation. -/
opaque checkSlice : Line → Nat → Slice

/-- FREE VALUE (log 5). The check pattern of poison encoding, three slices (R13). -/
opaque poisonPattern : BitVec 96

/-- FREE VALUE (log 18). The revision byte of the identity line (R181). -/
opaque revision : Byte

/-- FREE VALUE (log 18). The pass number that follows 4,294,967,295 (R93 gives the range, R99 the step by one). -/
opaque passNumberAfterLast : Nat

/-- FREE VALUE (log 18). The slot byte of an export's retirement record that has no slot (R129, section 10.6). -/
opaque exportSlotOfNone : Byte

/-- FREE VALUE (log 18). The cursor byte of an export's retirement record that still waits (section 10.6). -/
opaque exportCursorOfWaiting : Byte

/-- FREE VALUE (log 18). The part time beside an absent last uncorrectable line (section 10.6). -/
opaque lastUncorrectableTimeOfNone : PartTime

end Sys2Proof.Config
end

