-- ==== Sys2Proof/Syntax.lean ====
section
/-! DEFINITION. The commands: one constructor for each row of spec/opcode_table.json. -/

namespace Sys2Proof

/-- The kinds of server access (03, opening table). -/
inductive AccessKind where
  | read
  | fullLineWrite
  | maskedWrite
  deriving DecidableEq, Repr

/-- What a device holds otherwise than was last written to it: `pattern` is the difference in that device's
slice of the line being read. It is how the outside world's DRAM faults reach the array (log 4). -/
structure SliceError where
  device  : Nat
  pattern : Slice
  deriving DecidableEq, Repr

/-- The commands of the block: the steps of the part, "each whole and indivisible" (95). -/
inductive Instr where
  -- resets and start-up
  | powerOnReset (rankStraps : BitVec 2) (baseStraps : BitVec 13)
  | arrayInitLineWrite (rank : Nat)
  | arrayInitDone
  | warmReset
  | restartSlotScanRead
  | restartWindowReread
  | restartMarkRead
  | restartEnd
  -- server port and demand path
  | accessAboveLTotal (kind : AccessKind) (address : Nat)
  | accessNotReady (kind : AccessKind) (address : Nat)
  | serverReadPresent (address : Nat)
  | serverReadGrant (port : Nat) (errors : List SliceError)
  | serverReadDecodeEnd (port : Nat)
  | writeBackGrant (port : Nat)
  | fullLineWritePresent (address : Nat) (data : Line)
  | fullLineWriteGrant (port : Nat)
  | maskedWritePresent (address : Nat) (data : Line) (mask : ByteMask)
  | mergeReadGrant (port : Nat) (errors : List SliceError)
  | mergeDecodeEnd (port : Nat)
  | maskedWriteHalfGrant (port : Nat)
  | maskedWriteEntryGrant (port : Nat)
  -- hand-offs to the Order Unit
  | slotPost
  | slotFree
  | windowArm
  | windowCancel
  | windowEmpty
  | windowStateNotActedOn
  | readMarkWrite
  | causeAcknowledge
  | otherWindowWrite
  -- times of the Window Schedule
  | windowStart (record : Nat)
  | windowEnd (record : Nat)
  -- control-window traffic
  | cwWriterGrant
  | cwWriterAdmission
  | ownReadGrant (errors : List SliceError)
  | ownReadDecodeEnd
  -- takes
  | takeStart
  | takeUnusableLine
  | takeNotPosted
  | takeUnknownKind
  | takeLackOfRoom
  | scrubRange
  | probeLine
  | retireRowMigrate
  | retireRowRestore
  | markDeviceRebuild
  | markDeviceEraseOnly
  | markDeviceRestore
  | setPolicy
  | quiesce
  | resume
  | exportTables
  | exportLineEntry
  -- decay, pacing and patrol
  | decayTick
  | paceIntervalStart
  | periodicPaceReview
  | passLate
  | patrolReadGrant (errors : List SliceError)
  | patrolDecodeEnd
  | patrolWriteGrant
  -- targeted scrub
  | scrubVisitReadGrant (errors : List SliceError)
  | scrubVisitDecodeEnd
  | scrubVisitWriteGrant
  | probeReadGrant (errors : List SliceError)
  | probeDecodeEnd
  -- migration and rebuild
  | copyReadGrant (errors : List SliceError)
  | copyDecodeEnd
  | copyWriteGrant
  | rebuildReadGrant (errors : List SliceError)
  | rebuildDecodeEnd
  | rebuildWriteGrant
  -- journal, notice and status
  | stagingDeparture
  | holdoffExpiry
  | statusTimerExpiry
  | statusWrite
  deriving DecidableEq, Repr

end Sys2Proof
end

