-- ==== Sys2Proof/WellFormed.lean ====
section
/-! DEFINITION. The static checks on a command's operands. A command that fails one names nothing the part has. -/

namespace Sys2Proof

/-- The part has rank ports 0 to 3 (00, Pins). -/
def portExists (port : Nat) : Bool := decide (port < 4)

/-- The schedule has records 0 to 31 (R82). -/
def recordExists (record : Nat) : Bool := decide (record < 32)

/-- The errors of one read name devices 0 to 19, no device twice, and each differs from what was written. -/
def errorsSound (errors : List SliceError) : Bool :=
  errors.all (fun e => decide (e.device < Config.devicesPerRank) && decide (e.pattern ≠ 0)) &&
    decide (errors.map SliceError.device).Nodup

/-- A command is well formed when its operands name ports, records and devices the part has. -/
def Instr.wellFormed : Instr → Bool
  | .arrayInitLineWrite rank => portExists rank
  | .serverReadGrant port errors => portExists port && errorsSound errors
  | .mergeReadGrant port errors => portExists port && errorsSound errors
  | .serverReadDecodeEnd port => portExists port
  | .writeBackGrant port => portExists port
  | .fullLineWriteGrant port => portExists port
  | .mergeDecodeEnd port => portExists port
  | .maskedWriteHalfGrant port => portExists port
  | .maskedWriteEntryGrant port => portExists port
  | .windowStart record => recordExists record
  | .windowEnd record => recordExists record
  | .ownReadGrant errors => errorsSound errors
  | .patrolReadGrant errors => errorsSound errors
  | .scrubVisitReadGrant errors => errorsSound errors
  | .probeReadGrant errors => errorsSound errors
  | .copyReadGrant errors => errorsSound errors
  | .rebuildReadGrant errors => errorsSound errors
  | .powerOnReset _ _ | .arrayInitDone | .warmReset | .restartSlotScanRead | .restartWindowReread
  | .restartMarkRead | .restartEnd | .accessAboveLTotal _ _ | .accessNotReady _ _ | .serverReadPresent _
  | .fullLineWritePresent _ _ | .maskedWritePresent _ _ _ | .slotPost | .slotFree | .windowArm | .windowCancel
  | .windowEmpty | .windowStateNotActedOn | .readMarkWrite | .causeAcknowledge | .otherWindowWrite
  | .cwWriterGrant | .cwWriterAdmission | .ownReadDecodeEnd | .takeStart | .takeUnusableLine | .takeNotPosted
  | .takeUnknownKind | .takeLackOfRoom | .scrubRange | .probeLine | .retireRowMigrate | .retireRowRestore
  | .markDeviceRebuild | .markDeviceEraseOnly | .markDeviceRestore | .setPolicy | .quiesce | .resume
  | .exportTables | .exportLineEntry | .decayTick | .paceIntervalStart | .periodicPaceReview | .passLate
  | .patrolDecodeEnd | .patrolWriteGrant | .scrubVisitDecodeEnd | .scrubVisitWriteGrant | .probeDecodeEnd
  | .copyDecodeEnd | .copyWriteGrant | .rebuildDecodeEnd | .rebuildWriteGrant | .stagingDeparture
  | .holdoffExpiry | .statusTimerExpiry | .statusWrite => true

end Sys2Proof
end

