-- ==== Sys2Proof/Decode.lean ====
section
/-! DEFINITION. Commands from words. No row of spec/opcode_table.json gives bits, so no word spells a command. -/

namespace Sys2Proof

/-- The command an opcode-table word spells: none, since the table gives bits for no row. -/
def decodeTableWord (_nbits _w : Nat) : Option Instr := none

end Sys2Proof
end

