-- ==== Sys2Proof/Machine/State.lean ====
section
/-! DEFINITION. The state of the part as plain data, block by block, and the state after power-on reset. -/

namespace Sys2Proof.Machine

/-! ## Reasons a step can stop -/

/-- Why the part would stop with a fault. The manual names no condition that stops the part, and no meaning of
this model raises a fault: damage and loss are outcomes the part reports (R42 and the other report rules). -/
inductive Fault where
  deriving DecidableEq, Repr

/-- Why the model would give a command no meaning. -/
inductive Refusal where
  /-- Raised only by an arm of `exec` whose command has no meaning yet; there is none. Safe. -/
  | notModelled (mnemonic : String)
  deriving DecidableEq, Repr

/-! ## The array -/

/-- The addressed RAM behind the part, as (address, byte) pairs; `Memory.wf` gives its canonical form. -/
abbrev Memory := List Host.Cell

/-- What the encoder writes to a line: data with valid code, or poison encoding (R5, R13). -/
structure Content where
  data   : Line
  poison : Bool
  deriving DecidableEq, Repr

/-- One decode in flight: what it was given at the read grant (R8, R25), and where the line was read. -/
structure Decode where
  rank     : Nat
  row      : Nat
  column   : Nat
  /-- The host line the physical line served at the read grant; absent when it served none (R14). -/
  host     : Option Nat
  /-- The content the encoder had written; `damaged` is the damaged set D against it (section 1.4). -/
  content  : Content
  damaged  : List Nat
  /-- The marked position given to the decoder (R7). -/
  marked   : Option Nat
  budget   : Nat
  suspects : List Nat
  /-- The device each position was read from (R7). -/
  carriers : List Nat
  deriving DecidableEq, Repr

/-- The six classes of a decode (R8, section 1.4). -/
inductive LineClass where
  | clean
  | erased
  | corrected
  | deepCorrected
  | uncorrectable
  | poisoned
  deriving DecidableEq, Repr

/-- A decode result (R12). -/
structure DecodeResult where
  cls       : LineClass
  data      : Option Line
  positions : List Nat
  devices   : List Nat
  tried     : Nat
  erasure   : Bool
  deriving DecidableEq, Repr

/-! ## Array Port: open-line records (R14) -/

/-- Where a background line operation stands: its decode runs, or its write waits for a grant with this content. -/
inductive OpStage where
  | decoding (d : Decode)
  | writing (c : Content)
  deriving DecidableEq, Repr

/-- The open-line record of one background engine while it is not NONE (R14). `isOpen` is cleared when a write
closes the record, which then keeps its fields (R15). -/
structure OpenLine where
  isOpen   : Bool
  rank     : Nat
  row      : Nat
  column   : Nat
  host     : Option Nat
  stage    : OpStage
  /-- The content another write has left on the open line, which this operation's write carries in place of its
  own (R98, R137, R154). -/
  override : Option Content
  /-- The order slot a targeted operation belongs to (R117). -/
  slot     : Option Nat
  deriving DecidableEq, Repr

/-- The per-interval counts of line operations started, and the B in force for the interval (R18). -/
structure IntervalCounts where
  migration : Nat
  rebuild   : Nat
  targeted  : Nat
  limit     : Nat
  deriving DecidableEq, Repr

/-! ## Demand Path -/

/-- A server access to a host line, as the server port accepted it (R37). -/
inductive ServerAccess where
  | read (host : Nat)
  | fullLineWrite (host : Nat) (data : Line)
  | maskedWrite (host : Nat) (data : Line) (mask : ByteMask)
  deriving DecidableEq, Repr

/-- The decode and the part time of the end of a merge whose write is absorbed: what its write half reports (R49, R50). -/
structure MergeLoss where
  decode : Decode
  ended  : PartTime
  deriving DecidableEq, Repr

/-- The server access presented on a rank port and not yet through with its grants (R37, R46, R47, R51).
`orphan` marks a pair whose merge read was granted before a warm reset (R21, R59); `loss` is what the write half of an
absorbed write reports (R49, R50). -/
inductive PortAccess where
  | idle
  | readWaits (host : Nat)
  | fullWaits (host : Nat) (data : Line)
  | mergeWaits (host : Nat) (data : Line) (mask : ByteMask)
  | entryWaits (host : Nat) (data : Line) (mask : ByteMask)
  | merging (host : Nat) (data : Line) (mask : ByteMask) (decode : Decode) (orphan : Bool)
  | halfWaits (host : Nat) (content : Content) (orphan : Bool) (loss : Option MergeLoss)
  deriving DecidableEq, Repr

/-- A reply of the server port (R38). -/
inductive Reply where
  | data (host : Nat) (line : Line)
  | poisoned (host : Nat)
  | ack (host : Nat)
  deriving DecidableEq, Repr

/-- The record of a server read from its read grant until its decode ends (R43). `behind` holds the answers of
later reads of the port that were served from the write-back queue: reads are answered in order (R38). -/
structure ServerRead where
  port   : Nat
  host   : Nat
  stale  : Bool
  decode : Decode
  behind : List Reply
  deriving DecidableEq, Repr

/-- An entry of the write-back queue; `data` is absent for POISON (R52). -/
structure WriteBack where
  host : Nat
  data : Option Line
  deriving DecidableEq, Repr

/-- A control-window line as written, handed to the Order Unit (R57). The host mark line carries two fields
(R177), each acted on once. -/
structure HandOff where
  offset    : Nat
  line      : Line
  markDone  : Bool
  ackDone   : Bool
  deriving DecidableEq, Repr

/-! ## Line Fault Table -/

/-- The retire state of an entry (R61). -/
inductive RetireState where
  | none
  | advised
  | pending
  deriving DecidableEq, Repr

/-- An entry of the Line Fault Table (R61). -/
structure FaultEntry where
  rank      : Nat
  row       : Nat
  score     : Nat
  events    : Nat
  devices   : DeviceSet
  firstSeen : PartTime
  lastSeen  : PartTime
  retire    : RetireState
  deriving DecidableEq, Repr

/-! ## Window Schedule -/

/-- The states of a window mirror entry (R82). -/
inductive WindowState where
  | empty
  | armed
  | active
  | past
  deriving DecidableEq, Repr

/-- A window mirror entry; `scope` bit 0 PATROL, 1 MIGRATION, 2 REBUILD, 3 TARGETED (R82, section 10.6). -/
structure WindowEntry where
  state : WindowState
  scope : BitVec 4
  start : PartTime
  stop  : PartTime
  tag   : BitVec 16
  deriving DecidableEq, Repr

/-! ## Patrol Engine and Pacer -/

/-- Patrol's memory from one visit to the next (R93); R is computed from the cursor, E is `passEnd`. -/
structure Patrol where
  passNumber         : Nat
  cursor             : Nat
  passStart          : PartTime
  passEnd            : PartTime
  corrected          : Nat
  deepCorrected      : Nat
  uncorrectable      : Nat
  rate               : Nat
  credit             : Nat
  owed               : Nat
  late               : Bool
  atRisk             : Bool
  deriving DecidableEq, Repr

/-! ## Targeted Scrub Engine -/

/-- The seven result counts of a SCRUB RANGE (R120). -/
structure ScrubCounts where
  visited       : Nat
  erased        : Nat
  poisoned      : Nat
  corrected     : Nat
  deepCorrected : Nat
  uncorrectable : Nat
  writesDropped : Nat
  deriving DecidableEq, Repr

/-- The two kinds of targeted order (R115). -/
inductive TargetedKind where
  | scrubRange
  | probeLine
  deriving DecidableEq, Repr

/-- An entry of the targeted queue (R115); `clamped` is its reason, CLAMPED or NONE. -/
structure TargetedOrder where
  slot      : Nat
  kind      : TargetedKind
  firstLine : Nat
  endLine   : Nat
  cursor    : Nat
  budget    : Nat
  urgent    : Bool
  clamped   : Bool
  counts    : ScrubCounts
  deriving DecidableEq, Repr

/-! ## Remap Table and Migration Engine -/

/-- The states of a spare row (R127). -/
inductive SpareState where
  | free
  | inUse
  | discarded
  deriving DecidableEq, Repr

/-- Where a retirement came from (R128). -/
inductive Origin where
  | order
  | auto
  | restore
  deriving DecidableEq, Repr

/-- The states of a remap entry (R128). -/
inductive RemapState where
  | migrating
  | active
  deriving DecidableEq, Repr

/-- A remap entry (R128). -/
structure RemapEntry where
  rank    : Nat
  row     : Nat
  spare   : Nat
  earlier : Option Nat
  state   : RemapState
  cursor  : Nat
  origin  : Origin
  deriving DecidableEq, Repr

/-- An entry of the migration queue (R129). -/
structure Retirement where
  rank   : Nat
  row    : Nat
  origin : Origin
  slot   : Option Nat
  deriving DecidableEq, Repr

/-- The migration in progress with its five counts (R132). -/
structure Migration where
  rank          : Nat
  row           : Nat
  origin        : Origin
  slot          : Option Nat
  corrected     : Nat
  deepCorrected : Nat
  uncorrectable : Nat
  poisoned      : Nat
  copiesDropped : Nat
  deriving DecidableEq, Repr

/-! ## Device Map and Rebuild Engine -/

/-- The states of a device (R145). -/
inductive DeviceState where
  | active
  | spare
  | marked
  | replaced
  deriving DecidableEq, Repr

/-- The device states, position map and rebuild record of one rank (R145); `posMap` names the device that
carries each of the 19 coded positions. -/
structure RankDevices where
  states        : Vector DeviceState 20
  posMap        : Vector Nat 19
  cursor        : Nat
  inFlight      : Bool
  startTime     : PartTime
  corrected     : Nat
  uncorrectable : Nat
  poisoned      : Nat
  writesDropped : Nat
  deriving DecidableEq, Repr

/-! ## Order Unit -/

/-- The states of a slot mirror (R162, R165, R167). -/
inductive SlotState where
  | free
  | posted
  | taken
  | done
  deriving DecidableEq, Repr

/-- The mirror of one order slot: state, the kind and mode of its last hand-off, and, once held TAKEN, the line
as it was taken (10, opening). -/
structure SlotMirror where
  state : SlotState
  kind  : Nat
  mode  : Nat
  taken : Line
  deriving DecidableEq, Repr

/-- For whom the part reads a control-window line (R161). -/
inductive Reader where
  | take (slot : Nat)
  | scan (slot : Nat)
  | window (record : Nat)
  | mark
  deriving DecidableEq, Repr

/-- Where an own read stands; an ended read gives the line, or no content (R161). -/
inductive OwnStage where
  | requested
  | decoding (d : Decode) (stale : Bool)
  | ended (line : Option Line)
  deriving DecidableEq, Repr

/-- An own read of a control-window line (R161). `readTime` is the part time of its grant. -/
structure OwnRead where
  reader   : Reader
  stage    : OwnStage
  readTime : PartTime
  deriving DecidableEq, Repr

/-- The policy record in force (section 10.6). -/
structure Policy where
  patrolEnable     : Nat
  opsPerInterval   : Nat
  markThreshold    : Nat
  autoRetire       : Nat
  autoMark         : Nat
  demandBudget     : Nat
  backgroundBudget : Nat
  writeBackEnable  : Nat
  coalesceCount    : Nat
  minRate          : Nat
  decayPeriod      : Nat
  retireThreshold  : Nat
  patrolPeriod     : Nat
  holdoff          : Nat
  statusInterval   : Nat
  deriving DecidableEq, Repr

/-- The policy record after power-on reset (R172, section 10.6). -/
def Policy.default : Policy :=
  { patrolEnable := 1, opsPerInterval := 16, markThreshold := 8, autoRetire := 1, autoMark := 1,
    demandBudget := 0, backgroundBudget := 4, writeBackEnable := 1, coalesceCount := 8, minRate := 1,
    decayPeriod := 3600, retireThreshold := 64, patrolPeriod := 86400, holdoff := 1000, statusInterval := 1000 }

/-- The export in progress: its slot, the lines of its snapshot not yet in the writer, and the two entry counts
of its outcome (R171). -/
structure ExportJob where
  slot         : Nat
  lines        : List (Nat × Line)
  faultEntries : Nat
  remapEntries : Nat
  deriving DecidableEq, Repr

/-! ## Control-window writer -/

/-- A line write in the writer. A window record takes its content from the mirror at the grant (R85, R174). -/
inductive WriterItem where
  | line (offset : Nat) (content : Line)
  | windowRecord (record : Nat)
  deriving DecidableEq, Repr

/-- What waits for places in the writer (R174). -/
inductive Waiter where
  | item (w : WriterItem)
  | slotDone (slot : Nat) (content : Line)
  | journal
  | exportLine
  | status
  | identity
  deriving DecidableEq, Repr

/-! ## Journal and Notice Unit -/

/-- The sources of a record (section 10.6). -/
inductive Source where
  | none
  | demand
  | merge
  | patrol
  | targeted
  | probe
  | migration
  | rebuild
  deriving DecidableEq, Repr

/-- The modes of a marking (R148, R150). -/
inductive MarkMode where
  | rebuild
  | eraseOnly
  | restore
  deriving DecidableEq, Repr

/-- The kinds of record with the data each carries (section 10.6). -/
inductive RecordKind where
  | corrected
  | deepCorrected
  | uncorrectable
  | poisonAbsorb
  | rowRetired (spare : Nat) (origin : Origin) (oldRow : Nat)
      (corrected deepCorrected uncorrectable poisoned copiesDropped : Nat)
  | retireAdvised (score : Nat) (condition : Nat)
  | deviceMarked (position : Nat) (mode : MarkMode) (origin : Origin) (started : Bool) (noSpare : Bool) (tally : Nat)
  | deviceSuspect (tally : Nat)
  | rebuildDone (position : Nat) (startTime : PartTime) (corrected uncorrectable poisoned writesDropped : Nat)
  | passDone (passNumber : Nat) (passStart : PartTime) (late : Bool) (corrected deepCorrected uncorrectable : Nat)
  | passLate (passNumber : Nat) (passEnd : PartTime) (cursor remaining : Nat)
  | slotGuard (slot : Nat) (stateField : Nat)
  deriving DecidableEq, Repr

/-- A record handed to the Journal; `time` is the part time of the event that made it (R175). -/
structure JournalRecord where
  time    : PartTime
  kind    : RecordKind
  source  : Source
  host    : Option Nat
  rank    : Nat
  row     : Nat
  erasure : Bool
  devices : List Nat
  tried   : Nat
  deriving DecidableEq, Repr

/-- The notice causes (R179). -/
inductive Cause where
  | order
  | journal
  | uncorrectable
  | room
  deriving DecidableEq, Repr

/-- The pending cause set (R179). -/
structure CauseSet where
  order         : Bool
  journal       : Bool
  uncorrectable : Bool
  room          : Bool
  deriving DecidableEq, Repr

/-- The seven status counters (R180). -/
structure Counters where
  corrected         : Nat
  deepCorrected     : Nat
  uncorrectable     : Nat
  erasedReads       : Nat
  writeBacksSkipped : Nat
  untrackedEvents   : Nat
  journalHeld       : Nat
  deriving DecidableEq, Repr

/-- The reset causes (R181). -/
inductive ResetCause where
  | powerOn
  | warm
  deriving DecidableEq, Repr

/-- The Journal and Notice Unit (R175 to R180): W is `published`, M is `mark`. -/
structure Journal where
  published   : Count32
  mark        : Count32
  staging     : List JournalRecord
  coalesce    : Nat
  holdoff     : Option PartTime
  roomArmed   : Bool
  causes      : CauseSet
  statusTimer : Option PartTime
  deriving DecidableEq, Repr

/-! ## The whole part -/

/-- The steps of the warm-reset restart, each with the read it waits for (R173). -/
inductive RestartStep where
  | slotScan (slot : Nat)
  | windowReread (record : Nat)
  | markRead
  | identity
  deriving DecidableEq, Repr

/-- What the part is doing as a whole. The server port is READY exactly in `running` (R36); `halted` is the
state after an initialisation whose window base lies at or above L_total (R20). -/
inductive Phase where
  | initialising
  | running
  | restarting (step : RestartStep)
  | halted
  deriving DecidableEq, Repr

/-- The state of the part. INVENTORY.md lists each field with the rule that names it. -/
structure State where
  pending        : List Instr
  time           : PartTime
  ranks          : Nat
  base           : Nat
  phase          : Phase
  initCursor     : Vector Nat 4
  resetCause     : ResetCause
  cells          : Memory
  written        : Memory
  poisoned       : Memory
  patrolOp       : Option OpenLine
  targetedOp     : Option OpenLine
  migrationOp    : Option OpenLine
  rebuildOp      : Option OpenLine
  counts         : IntervalCounts
  ports          : Vector PortAccess 4
  arrivals       : Vector (List ServerAccess) 4
  reads          : List ServerRead
  writeBacks     : List WriteBack
  replies        : List Reply
  handOff        : Option HandOff
  table          : List FaultEntry
  suspects       : Vector DeviceSet 4
  decayTick      : PartTime
  windows        : Vector WindowEntry 32
  patrol         : Patrol
  nextInterval   : Option PartTime
  reviewed       : Bool
  targeted       : List TargetedOrder
  spares         : Vector (Vector SpareState 128) 4
  remaps         : List RemapEntry
  migrationQueue : List Retirement
  migration      : Option Migration
  retained       : List Nat
  devices        : Vector RankDevices 4
  lastRebuilt    : Nat
  rebuildChoice  : Option Nat
  slots          : Vector SlotMirror 256
  takeCursor     : Nat
  ownRead        : Option OwnRead
  quiesced       : Bool
  quiesceSlot    : Option Nat
  policy         : Policy
  exportJob      : Option ExportJob
  exportNumber   : Nat
  writer         : List WriterItem
  waiters        : List Waiter
  journal        : Journal
  counters       : Counters
  lastUncorrectable : Option (Nat × PartTime)
  deriving DecidableEq, Repr

/-- An empty window mirror entry (R82). -/
def WindowEntry.emptyEntry : WindowEntry := { state := .empty, scope := 0, start := 0, stop := 0, tag := 0 }

/-- The mirror of a slot after power-on reset (R172). -/
def SlotMirror.freeMirror : SlotMirror := { state := .free, kind := 0, mode := 0, taken := 0 }

/-- The device map of a rank after power-on reset (R145). -/
def RankDevices.powerOn : RankDevices :=
  { states := ⟨(List.replicate 19 DeviceState.active ++ [DeviceState.spare]).toArray, rfl⟩,
    posMap := ⟨(List.range 19).toArray, rfl⟩,
    cursor := 0, inFlight := false, startTime := 0, corrected := 0, uncorrectable := 0, poisoned := 0,
    writesDropped := 0 }

/-- Patrol after power-on reset (R93). -/
def Patrol.powerOn : Patrol :=
  { passNumber := 1, cursor := 0, passStart := 0, passEnd := 0, corrected := 0, deepCorrected := 0,
    uncorrectable := 0, rate := 1, credit := 0, owed := 0, late := false, atRisk := false }

/-- No notice cause pending (R182). -/
def CauseSet.none : CauseSet := { order := false, journal := false, uncorrectable := false, room := false }

/-- The Journal and Notice Unit after power-on reset (R182). -/
def Journal.powerOn : Journal :=
  { published := 0, mark := 0, staging := [], coalesce := 0, holdoff := none, roomArmed := true,
    causes := CauseSet.none, statusTimer := none }

/-- The seven counters after power-on reset (R182). -/
def Counters.zero : Counters :=
  { corrected := 0, deepCorrected := 0, uncorrectable := 0, erasedReads := 0, writeBacksSkipped := 0,
    untrackedEvents := 0, journalHeld := 0 }

/-- The part after a power-on reset that sampled `ranks` populated ranks and the window base `base` (R20, R21,
R35, R60, R80, R82, R93, R115, R144, R145, R172, R174, R182), with array initialisation about to begin. -/
def State.powerOn (ranks base : Nat) : State :=
  { pending := [], time := 0, ranks := ranks, base := base, phase := .initialising,
    initCursor := Vector.replicate 4 0, resetCause := .powerOn,
    cells := [], written := [], poisoned := [],
    patrolOp := none, targetedOp := none, migrationOp := none, rebuildOp := none,
    counts := { migration := 0, rebuild := 0, targeted := 0, limit := Policy.default.opsPerInterval },
    ports := Vector.replicate 4 .idle, arrivals := Vector.replicate 4 [], reads := [], writeBacks := [],
    replies := [], handOff := none,
    table := [], suspects := Vector.replicate 4 0,
    decayTick := BitVec.ofNat 48 (Policy.default.decayPeriod * Config.second),
    windows := Vector.replicate 32 WindowEntry.emptyEntry,
    patrol := Patrol.powerOn, nextInterval := none, reviewed := false, targeted := [],
    spares := Vector.replicate 4 (Vector.replicate 128 .free), remaps := [], migrationQueue := [],
    migration := none, retained := [],
    devices := Vector.replicate 4 RankDevices.powerOn, lastRebuilt := 3, rebuildChoice := none,
    slots := Vector.replicate 256 SlotMirror.freeMirror, takeCursor := 0, ownRead := none,
    quiesced := false, quiesceSlot := none, policy := Policy.default, exportJob := none, exportNumber := 0,
    writer := [], waiters := [], journal := Journal.powerOn, counters := Counters.zero,
    lastUncorrectable := none }

/-- The machine right after power-on reset, with four ranks populated and the window at line 0 (log 7). -/
def State.reset : State := State.powerOn 4 0

end Sys2Proof.Machine
end

