-- ==== Sys2Proof/Machine/Ops.lean ====
section
/-! DEFINITION. The named operations over time, vectors, memory and the address map. -/

namespace Sys2Proof.Machine

/-! ## Part time (00, Time) -/

/-- `a` is later than `b`: it lies less than 2^47 us after it, distances taken modulo 2^48 (00, Time; log 14). -/
def laterThan (a b : PartTime) : Bool := decide (a ≠ b) && decide ((a - b).toNat < 140737488355328)

/-- Part time `now` has reached `t`: `t` is not later than `now`. -/
def hasReached (now t : PartTime) : Bool := !laterThan t now

/-- The duration from `a` to the part time `b`, as their distance modulo 2^48 (00, Time). -/
def durationFromTo (a b : PartTime) : Nat := (b - a).toNat

/-- The part time `us` microseconds after `t`. -/
def timeAfter (t : PartTime) (us : Nat) : PartTime := t + BitVec.ofNat 48 us

/-- The next part time after `t` at which a pace interval begins: the next whole multiple of 1000 us as the count
reads it, or 0 where the count wraps first (00, Time; R107, R112; log 23). -/
def nextPaceBoundary (t : PartTime) : PartTime :=
  if (t.toNat / 1000 + 1) * 1000 < 281474976710656 then BitVec.ofNat 48 ((t.toNat / 1000 + 1) * 1000) else 0

/-- A pace interval that begins at `t` is a 1,000th interval (R104). -/
def isThousandth (t : PartTime) : Bool := decide (t.toNat % 1000000 = 0)

/-! ## Vectors by index -/

/-- The element at an index, or a default outside the vector. -/
def nth {α : Type} {n : Nat} (v : Vector α n) (i : Nat) (d : α) : α := (v[i]?).getD d

/-- Write an element; an index outside the vector writes nothing. -/
def put {α : Type} {n : Nat} (v : Vector α n) (i : Nat) (x : α) : Vector α n := v.setIfInBounds i x

/-! ## Device sets (R61) -/

/-- Device `d` is in the set. -/
def inSet (set : DeviceSet) (d : Nat) : Bool := set.getLsbD d

/-- The set with device `d` added. -/
def addToSet (set : DeviceSet) (d : Nat) : DeviceSet := set ||| (1#20 <<< d)

/-- The set with device `d` removed. -/
def dropFromSet (set : DeviceSet) (d : Nat) : DeviceSet := set &&& ~~~(1#20 <<< d)

/-! ## Memory -/

/-- What an unlisted byte reads as: 0, the content array initialisation gives (R20; before it, log 6). -/
def Memory.unlisted : Byte := 0

/-- Read one byte. -/
def Memory.read (m : Memory) (a : Nat) : Byte :=
  match m with
  | [] => Memory.unlisted
  | (k, v) :: rest => if k = a then v else Memory.read rest a

/-- Write one byte, keeping the canonical form: addresses strictly rising, no byte listed at its unlisted value. -/
def Memory.write (m : Memory) (a : Nat) (b : Byte) : Memory :=
  match m with
  | [] => if b = Memory.unlisted then [] else [(a, b)]
  | (k, v) :: rest =>
    if a < k then (if b = Memory.unlisted then (k, v) :: rest else (a, b) :: (k, v) :: rest)
    else if k = a then (if b = Memory.unlisted then rest else (a, b) :: rest)
    else (k, v) :: Memory.write rest a b

/-- The canonical form: addresses strictly rising, no byte listed at its unlisted value. -/
def Memory.wf (m : Memory) : Bool :=
  decide (m.Pairwise (fun x y => x.1 < y.1)) && m.all (fun x => decide (x.2 ≠ Memory.unlisted))

/-- `n` bytes from `a` up, the byte at the lowest address the least significant. -/
def Memory.readBytes (m : Memory) (a n : Nat) : Nat :=
  match n with
  | 0 => 0
  | k + 1 => (Memory.read m a).toNat + 256 * Memory.readBytes m (a + 1) k

/-- Write the low `n` bytes of `v` from `a` up, the least significant byte at the lowest address. -/
def Memory.writeBytes (m : Memory) (a n v : Nat) : Memory :=
  match n with
  | 0 => m
  | k + 1 => Memory.writeBytes (Memory.write m a (BitVec.ofNat 8 v)) (a + 1) k (v / 256)

/-! ## The address map (R1, R2) -/

/-- The number of host lines of the channel (00, Sizes and addresses). -/
def State.lTotal (s : State) : Nat := s.ranks * Config.hostLinesPerRank

/-- The rank of a host line (R1). -/
def rankOf (host : Nat) : Nat := host / Config.hostLinesPerRank

/-- The host row of a host line (R1). -/
def rowOf (host : Nat) : Nat := host % Config.hostLinesPerRank / Config.columns

/-- The column of a host line (R1). -/
def columnOf (host : Nat) : Nat := host % Config.columns

/-- The host line of a rank, host row and column: the inverse of the map of R1. -/
def hostLineOf (rank row column : Nat) : Nat := rank * Config.hostLinesPerRank + row * Config.columns + column

/-- The physical line index (R2). -/
def physIndex (row column : Nat) : Nat := row * Config.columns + column

/-- The physical row of a spare row index (R2). -/
def spareRow (index : Nat) : Nat := Config.hostRows + index

/-- A host line lies in the control window (R56). -/
def State.inWindow (s : State) (host : Nat) : Bool :=
  decide (s.base ≤ host) && decide (host < s.base + Config.windowLines)

/-- The offset of a host line within the control window (R56). -/
def State.windowOffset (s : State) (host : Nat) : Nat := host - s.base

/-- The rank whose port carries all control-window traffic (R160). -/
def State.windowRank (s : State) : Nat := rankOf s.base

/-- The server port is READY (R36). -/
def State.ready (s : State) : Bool := decide (s.phase = .running)

/-- A warm-reset restart is in progress (R173). -/
def State.restarting (s : State) : Bool :=
  match s.phase with
  | .restarting _ => true
  | .initialising | .running | .halted => false

/-! ## Rows of the per-rank tables -/

/-- The device map of a rank (R145). -/
def State.rankDevices (s : State) (rank : Nat) : RankDevices := nth s.devices rank RankDevices.powerOn

/-- Replace the device map of a rank. -/
def State.setRankDevices (s : State) (rank : Nat) (d : RankDevices) : State :=
  { s with devices := put s.devices rank d }

/-- The state of a spare row (R127); no row outside the four ranks or past index 127 is FREE. -/
def State.spareState (s : State) (rank index : Nat) : SpareState :=
  nth (nth s.spares rank (Vector.replicate 128 .discarded)) index .discarded

/-- Change the state of a spare row. -/
def State.setSpareState (s : State) (rank index : Nat) (x : SpareState) : State :=
  { s with spares := put s.spares rank (put (nth s.spares rank (Vector.replicate 128 .discarded)) index x) }

/-- The server access of a rank port (R37). -/
def State.access (s : State) (port : Nat) : PortAccess := nth s.ports port .idle

/-- Replace the server access of a rank port. -/
def State.setAccess (s : State) (port : Nat) (a : PortAccess) : State := { s with ports := put s.ports port a }

/-- The accepted accesses of a rank port that wait for their presentation, oldest first (R37). -/
def State.arrivalsAt (s : State) (port : Nat) : List ServerAccess := nth s.arrivals port []

/-- Replace the accepted accesses of a rank port that wait for their presentation. -/
def State.setArrivals (s : State) (port : Nat) (l : List ServerAccess) : State :=
  { s with arrivals := put s.arrivals port l }

/-- The mirror of a slot. -/
def State.slot (s : State) (i : Nat) : SlotMirror := nth s.slots i SlotMirror.freeMirror

/-- Replace the mirror of a slot. -/
def State.setSlot (s : State) (i : Nat) (m : SlotMirror) : State := { s with slots := put s.slots i m }

/-- The mirror entry of a window record (R82). -/
def State.window (s : State) (i : Nat) : WindowEntry := nth s.windows i WindowEntry.emptyEntry

/-- Replace a window mirror entry. -/
def State.setWindow (s : State) (i : Nat) (w : WindowEntry) : State := { s with windows := put s.windows i w }

/-- Give a reply on the server port (R38). -/
def State.reply (s : State) (r : Reply) : State := { s with replies := s.replies ++ [r] }

/-- Lines remaining in the pass (R93). -/
def State.linesRemaining (s : State) : Nat := s.lTotal - s.patrol.cursor

/-- The first index below `n` at which `p` holds. -/
def firstBelow (n : Nat) (p : Nat → Bool) : Option Nat := (List.range n).find? p

/-- How many indices below `n` have `p`. -/
def countBelow (n : Nat) (p : Nat → Bool) : Nat := (List.range n).countP p

end Sys2Proof.Machine
end

