-- ==== Sys2Proof/Machine/Operands.lean ====
section
/-! DEFINITION. The operands that commands carry in lines: the record layouts of section 10.6 and the byte mask. -/

namespace Sys2Proof.Machine

/-! ## Fields of a line (little-endian, section 10.6) -/

/-- The value of the `n` bytes of a line from byte `off` up. -/
def lineField (l : Line) (off n : Nat) : Nat := (l >>> (8 * off)).toNat % 2 ^ (8 * n)

/-- A field to be written: its first byte, its length in bytes, its value. -/
structure FieldValue where
  off   : Nat
  bytes : Nat
  value : Nat
  deriving DecidableEq, Repr

/-- One field, placed in an otherwise zero line; a value too long for the field keeps its low bytes. -/
def placeField (f : FieldValue) : Line := BitVec.ofNat 512 (f.value % 2 ^ (8 * f.bytes)) <<< (8 * f.off)

/-- A line that holds these fields and is zero elsewhere ("bytes not named in a table are written zero"). -/
def lineOfFields (fs : List FieldValue) : Line := fs.foldl (fun l f => l ||| placeField f) 0

/-- A byte field. -/
def byteField (off value : Nat) : FieldValue := ⟨off, 1, value⟩

/-- A part time, 6 bytes (section 10.6). -/
def timeField (off : Nat) (t : PartTime) : FieldValue := ⟨off, 6, t.toNat⟩

/-- A 0/1 field. -/
def boolValue (b : Bool) : Nat := if b then 1 else 0

/-- A device or spare row field: 255 means absent (section 10.6). -/
def byteOrAbsent (x : Option Nat) : Nat := x.getD 255

/-- A host line field: 4,294,967,295 means absent (section 10.6). -/
def hostOrAbsent (x : Option Nat) : Nat := x.getD 4294967295

/-- A line with bytes `off` to `off + n - 1` kept and all other bytes zero. -/
def keepBytes (l : Line) (off n : Nat) : Line := placeField ⟨off, n, lineField l off n⟩

/-! ## Byte masks (R46, R47) -/

/-- The bits of a line that a byte mask names. -/
def maskBits (mask : ByteMask) : Line :=
  (List.range 64).foldl (fun l i => if mask.getLsbD i then l ||| placeField ⟨i, 1, 255⟩ else l) 0

/-- The merged line: the old data with each byte the mask names replaced by the server's byte (R47). -/
def mergeLine (old new : Line) (mask : ByteMask) : Line := (old &&& ~~~ maskBits mask) ||| (new &&& maskBits mask)

/-! ## Order slots -/

/-- Order slots stand at offsets 64 to 319 (R160). -/
def slotOffset (slot : Nat) : Nat := 64 + slot

/-- The slot at a window offset. -/
def slotOfOffset (offset : Nat) : Option Nat := if 64 ≤ offset ∧ offset < 320 then some (offset - 64) else none

/-- The record at a window offset: records 0 to 31 stand at offsets 16 to 47 (R160). -/
def recordOfOffset (offset : Nat) : Option Nat := if 16 ≤ offset ∧ offset < 48 then some (offset - 16) else none

/-- The state field of a slot line: 0 FREE, 1 POSTED, 2 TAKEN, 3 DONE. -/
def slotStateField (l : Line) : Nat := lineField l 0 1

/-- The kind field of a slot line. -/
def slotKind (l : Line) : Nat := lineField l 1 1

/-- The mode of an order: byte 17 of a RETIRE ROW, byte 18 of a MARK DEVICE, none for the other kinds. -/
def slotMode (l : Line) : Nat :=
  if slotKind l = 3 then lineField l 17 1 else if slotKind l = 4 then lineField l 18 1 else 0

/-- The kind field names an order kind (section 10.6). -/
def isOrderKind (kind : Nat) : Bool := decide (1 ≤ kind) && decide (kind ≤ 8)

/-- The outcomes of an order (section 10.5). -/
inductive OrderOutcome where
  | ok
  | okDegraded
  | refused
  | abandoned
  deriving DecidableEq, Repr

/-- The code of an outcome (section 10.6). -/
def OrderOutcome.code : OrderOutcome → Nat
  | .ok => 1
  | .okDegraded => 2
  | .refused => 3
  | .abandoned => 4

/-- The reasons of an outcome (section 10.5). -/
inductive OrderReason where
  | none
  | clamped
  | badKind
  | badLine
  | badRank
  | badRow
  | badDevice
  | already
  | noSpare
  | markExists
  | notInUse
  | retained
  deriving DecidableEq, Repr

/-- The code of a reason (section 10.6). -/
def OrderReason.code : OrderReason → Nat
  | .none => 0
  | .clamped => 1
  | .badKind => 2
  | .badLine => 3
  | .badRank => 4
  | .badRow => 5
  | .badDevice => 6
  | .already => 7
  | .noSpare => 8
  | .markExists => 9
  | .notInUse => 10
  | .retained => 11

/-- A slot line written TAKEN: the kind and parameters as read, the part time of the take, all else zero (R165;
log 17). -/
def takenLine (l : Line) (now : PartTime) : Line :=
  lineOfFields [byteField 0 2, timeField 8 now] ||| keepBytes l 1 1 ||| keepBytes l 16 16

/-- A slot line written DONE: the kind and parameters of its line, the outcome, the reason, the part time of the
outcome, and the results of its kind (R167; log 17). -/
def doneLine (l : Line) (now : PartTime) (o : OrderOutcome) (r : OrderReason) (results : List FieldValue) : Line :=
  lineOfFields ([byteField 0 3, byteField 2 o.code, byteField 3 r.code, timeField 8 now] ++ results) |||
    keepBytes l 1 1 ||| keepBytes l 16 16

/-! ## The policy record (slot bytes 16 to 47) -/

/-- Bring a value into its range (R168). -/
def clampTo (lo hi v : Nat) : Nat := if v < lo then lo else if hi < v then hi else v

/-- The policy record of a SET POLICY line, before clamping (section 10.6). -/
def policyOfLine (l : Line) : Policy :=
  { patrolEnable := lineField l 16 1, opsPerInterval := lineField l 17 1, markThreshold := lineField l 18 1,
    autoRetire := lineField l 19 1, autoMark := lineField l 20 1, demandBudget := lineField l 21 1,
    backgroundBudget := lineField l 22 1, writeBackEnable := lineField l 23 1, coalesceCount := lineField l 24 1,
    minRate := lineField l 26 2, decayPeriod := lineField l 28 2, retireThreshold := lineField l 30 2,
    patrolPeriod := lineField l 32 4, holdoff := lineField l 36 2, statusInterval := lineField l 38 2 }

/-- Each value of a policy record brought into its range (R168, section 10.6). -/
def clampPolicy (p : Policy) : Policy :=
  { patrolEnable := clampTo 0 1 p.patrolEnable, opsPerInterval := clampTo 1 64 p.opsPerInterval,
    markThreshold := clampTo 2 64 p.markThreshold, autoRetire := clampTo 0 1 p.autoRetire,
    autoMark := clampTo 0 1 p.autoMark, demandBudget := clampTo 0 2 p.demandBudget,
    backgroundBudget := clampTo 0 8 p.backgroundBudget, writeBackEnable := clampTo 0 1 p.writeBackEnable,
    coalesceCount := clampTo 1 64 p.coalesceCount, minRate := clampTo 1 16384 p.minRate,
    decayPeriod := clampTo 1 65535 p.decayPeriod, retireThreshold := clampTo 8 1023 p.retireThreshold,
    patrolPeriod := clampTo 60 604800 p.patrolPeriod, holdoff := clampTo 10 65535 p.holdoff,
    statusInterval := clampTo 100 65535 p.statusInterval }

/-- The policy bytes of a slot line (section 10.6). -/
def policyFields (p : Policy) : List FieldValue :=
  [byteField 16 p.patrolEnable, byteField 17 p.opsPerInterval, byteField 18 p.markThreshold,
   byteField 19 p.autoRetire, byteField 20 p.autoMark, byteField 21 p.demandBudget,
   byteField 22 p.backgroundBudget, byteField 23 p.writeBackEnable, byteField 24 p.coalesceCount,
   ⟨26, 2, p.minRate⟩, ⟨28, 2, p.decayPeriod⟩, ⟨30, 2, p.retireThreshold⟩, ⟨32, 4, p.patrolPeriod⟩,
   ⟨36, 2, p.holdoff⟩, ⟨38, 2, p.statusInterval⟩]

/-- The DONE line of a SET POLICY: its policy bytes are the record as it was put in force (R168). -/
def policyDoneLine (now : PartTime) (r : OrderReason) (p : Policy) : Line :=
  lineOfFields ([byteField 0 3, byteField 1 5, byteField 2 OrderOutcome.ok.code, byteField 3 r.code,
    timeField 8 now] ++ policyFields p)

/-! ## Window records (offsets 16 to 47) -/

/-- The state field of a window record: 0 EMPTY, 1 ARMED, 2 ACTIVE, 3 PAST, 4 CANCEL. -/
def windowStateField (l : Line) : Nat := lineField l 0 1

/-- The fields of a window record as a mirror entry in a given state; scope bits that name no class are ignored
(R84). -/
def windowOfLine (l : Line) (st : WindowState) : WindowEntry :=
  { state := st, scope := BitVec.ofNat 4 (lineField l 1 1), tag := BitVec.ofNat 16 (lineField l 2 2),
    start := BitVec.ofNat 48 (lineField l 8 6), stop := BitVec.ofNat 48 (lineField l 16 6) }

/-- The code of a window state (section 10.6). -/
def WindowState.code : WindowState → Nat
  | .empty => 0
  | .armed => 1
  | .active => 2
  | .past => 3

/-- The record line the part writes for a mirror entry (R85). -/
def windowLine (w : WindowEntry) : Line :=
  match w.state with
  | .empty => 0
  | .armed | .active | .past =>
    lineOfFields [byteField 0 w.state.code, byteField 1 w.scope.toNat, ⟨2, 2, w.tag.toNat⟩, timeField 8 w.start,
      timeField 16 w.stop]

/-! ## The host mark line (offset 2) -/

/-- The read mark of the host mark line. -/
def markField (l : Line) : Count32 := BitVec.ofNat 32 (lineField l 0 4)

/-- The acknowledge set names a cause: bits 0 ORDER, 1 JOURNAL, 2 UNCORRECTABLE, 3 ROOM. -/
def ackField (l : Line) : CauseSet :=
  { order := (l.getLsbD 32), journal := (l.getLsbD 33), uncorrectable := (l.getLsbD 34), room := (l.getLsbD 35) }

/-! ## Journal entries (offsets 1024 to 2047) -/

/-- The kind code of a record (section 10.6). -/
def RecordKind.code : RecordKind → Nat
  | .corrected => 1
  | .deepCorrected => 2
  | .uncorrectable => 3
  | .poisonAbsorb => 4
  | .rowRetired _ _ _ _ _ _ _ _ => 5
  | .retireAdvised _ _ => 6
  | .deviceMarked _ _ _ _ _ _ => 7
  | .deviceSuspect _ => 8
  | .rebuildDone _ _ _ _ _ _ => 9
  | .passDone _ _ _ _ _ _ => 10
  | .passLate _ _ _ _ => 11
  | .slotGuard _ _ => 12

/-- The corrected kinds; every other kind is a priority kind (R175). -/
def RecordKind.isCorrectedKind : RecordKind → Bool
  | .corrected | .deepCorrected => true
  | .uncorrectable | .poisonAbsorb | .rowRetired _ _ _ _ _ _ _ _ | .retireAdvised _ _ | .deviceMarked _ _ _ _ _ _
  | .deviceSuspect _ | .rebuildDone _ _ _ _ _ _ | .passDone _ _ _ _ _ _ | .passLate _ _ _ _ | .slotGuard _ _ => false

/-- The code of an origin: 0 ORDER, 1 AUTO, 2 RESTORE. -/
def Origin.code : Origin → Nat
  | .order => 0
  | .auto => 1
  | .restore => 2

/-- The code of a marking's mode: 0 REBUILD, 1 ERASE_ONLY, 2 RESTORE. -/
def MarkMode.code : MarkMode → Nat
  | .rebuild => 0
  | .eraseOnly => 1
  | .restore => 2

/-- The code of a source (section 10.6). -/
def Source.code : Source → Nat
  | .none => 0
  | .demand => 1
  | .merge => 2
  | .patrol => 3
  | .targeted => 4
  | .probe => 5
  | .migration => 6
  | .rebuild => 7

/-- The kind data of a record, bytes 32 to 63 (section 10.6). -/
def RecordKind.fields : RecordKind → List FieldValue
  | .corrected | .deepCorrected | .uncorrectable | .poisonAbsorb => []
  | .rowRetired spare origin oldRow c d u p x =>
    [byteField 32 spare, byteField 33 origin.code, ⟨36, 4, oldRow⟩, byteField 40 c, byteField 41 d, byteField 42 u,
     byteField 43 p, byteField 44 x]
  | .retireAdvised score condition => [⟨32, 2, score⟩, byteField 34 condition]
  | .deviceMarked position mode origin started noSpare tally =>
    [byteField 32 position, byteField 33 mode.code, byteField 34 origin.code, byteField 35 (boolValue started),
     byteField 36 (if noSpare then OrderReason.noSpare.code else OrderReason.none.code), ⟨38, 2, tally⟩]
  | .deviceSuspect tally => [⟨32, 2, tally⟩]
  | .rebuildDone position startTime c u p w =>
    [byteField 32 position, timeField 40 startTime, ⟨48, 4, c⟩, ⟨52, 4, u⟩, ⟨56, 4, p⟩, ⟨60, 4, w⟩]
  | .passDone passNumber passStart late c d u =>
    [⟨32, 4, passNumber⟩, timeField 36 passStart, byteField 42 (boolValue late), ⟨44, 4, c⟩, ⟨48, 4, d⟩, ⟨52, 4, u⟩]
  | .passLate passNumber passEnd cursor remaining =>
    [⟨32, 4, passNumber⟩, timeField 36 passEnd, ⟨44, 4, cursor⟩, ⟨48, 4, remaining⟩]
  | .slotGuard slot stateField => [byteField 32 slot, byteField 33 stateField]

/-- The journal line of a record published with a sequence (R175, section 10.6). -/
def journalLine (r : JournalRecord) (sequence : Count32) : Line :=
  lineOfFields ([⟨0, 4, sequence.toNat⟩, timeField 4 r.time, byteField 10 r.kind.code, byteField 11 r.source.code,
    ⟨12, 4, hostOrAbsent r.host⟩, byteField 16 r.rank, byteField 17 (boolValue r.erasure),
    byteField 20 (byteOrAbsent (r.devices[0]?)), byteField 21 (byteOrAbsent (r.devices[1]?)),
    byteField 22 r.tried, ⟨24, 4, r.row⟩] ++ r.kind.fields)

/-- The window offset of the journal line with a sequence (R175). -/
def journalOffset (sequence : Count32) : Nat := 1024 + sequence.toNat % 1024

/-- The class code of a probe result (section 10.6). -/
def LineClass.code : LineClass → Nat
  | .clean => 0
  | .erased => 1
  | .corrected => 2
  | .deepCorrected => 3
  | .uncorrectable => 4
  | .poisoned => 5

end Sys2Proof.Machine
end

