-- ==== Sys2Proof/Machine/Flags.lean ====
section
/-! DEFINITION. The flags of the part: pending causes and the notice line, saturating counters, holds, journal room. -/

namespace Sys2Proof.Machine

/-! ## The pending cause set (R179) -/

/-- A cause is in the set. -/
def CauseSet.has (c : CauseSet) : Cause → Bool
  | .order => c.order
  | .journal => c.journal
  | .uncorrectable => c.uncorrectable
  | .room => c.room

/-- The set with a cause added. -/
def CauseSet.add (c : CauseSet) : Cause → CauseSet
  | .order => { c with order := true }
  | .journal => { c with journal := true }
  | .uncorrectable => { c with uncorrectable := true }
  | .room => { c with room := true }

/-- The set without the causes of another. -/
def CauseSet.minus (c d : CauseSet) : CauseSet :=
  { order := c.order && !d.order, journal := c.journal && !d.journal,
    uncorrectable := c.uncorrectable && !d.uncorrectable, room := c.room && !d.room }

/-- Some cause is pending. -/
def CauseSet.nonempty (c : CauseSet) : Bool := c.order || c.journal || c.uncorrectable || c.room

/-- The set as a byte: bit 0 ORDER, 1 JOURNAL, 2 UNCORRECTABLE, 3 ROOM (section 10.6). -/
def CauseSet.toByte (c : CauseSet) : Nat :=
  boolValue c.order + 2 * boolValue c.journal + 4 * boolValue c.uncorrectable + 8 * boolValue c.room

/-- The notice line: asserted exactly when the pending cause set is not empty (R179). -/
def State.noticeLine (s : State) : Bool := s.journal.causes.nonempty

/-- Ask for a status write; one already waiting carries it (R180). -/
def State.askStatus (s : State) : State :=
  if s.waiters.contains .status then s else { s with waiters := s.waiters ++ [.status] }

/-- Put a new pending cause set in place; a change asks for a status write (R179). -/
def State.setCauses (s : State) (c : CauseSet) : State :=
  if c = s.journal.causes then s else State.askStatus { s with journal := { s.journal with causes := c } }

/-- Raise a cause (R179). -/
def State.raiseCause (s : State) (c : Cause) : State := s.setCauses (s.journal.causes.add c)

/-- Acknowledge the causes of a set (R177). -/
def State.acknowledge (s : State) (c : CauseSet) : State := s.setCauses (s.journal.causes.minus c)

/-! ## Counters -/

/-- One more, stopping at a limit. -/
def saturate (limit n : Nat) : Nat := if limit ≤ n then limit else n + 1

/-- One more on a status counter, which stops at 2^32 - 1 (R180). -/
def bump (n : Nat) : Nat := saturate Config.counterMax n

/-- Raise "corrected". -/
def State.countCorrected (s : State) : State :=
  { s with counters := { s.counters with corrected := bump s.counters.corrected } }

/-- Raise "deep-corrected". -/
def State.countDeepCorrected (s : State) : State :=
  { s with counters := { s.counters with deepCorrected := bump s.counters.deepCorrected } }

/-- Raise "uncorrectable". -/
def State.countUncorrectable (s : State) : State :=
  { s with counters := { s.counters with uncorrectable := bump s.counters.uncorrectable } }

/-- Raise "erased reads". -/
def State.countErased (s : State) : State :=
  { s with counters := { s.counters with erasedReads := bump s.counters.erasedReads } }

/-- Raise "write-backs skipped". -/
def State.countSkipped (s : State) : State :=
  { s with counters := { s.counters with writeBacksSkipped := bump s.counters.writeBacksSkipped } }

/-- Raise "untracked events". -/
def State.countUntracked (s : State) : State :=
  { s with counters := { s.counters with untrackedEvents := bump s.counters.untrackedEvents } }

/-- Raise "journal held". -/
def State.countHeld (s : State) : State :=
  { s with counters := { s.counters with journalHeld := bump s.counters.journalHeld } }

/-! ## Holds (R19, R87, R169) -/

/-- The classes of background work a window can hold, by their scope bit (section 10.6). -/
inductive WorkClass where
  | patrol
  | migration
  | rebuild
  | targeted
  deriving DecidableEq, Repr

/-- The scope bit of a class. -/
def WorkClass.bit : WorkClass → Nat
  | .patrol => 0
  | .migration => 1
  | .rebuild => 2
  | .targeted => 3

/-- A class is held while any ACTIVE mirror entry's scope contains it (R87). -/
def State.heldByWindow (s : State) (c : WorkClass) : Bool :=
  s.windows.toList.any fun w => decide (w.state = .active) && w.scope.getLsbD c.bit

/-- A class is held by a window or by quiesce (R19). -/
def State.held (s : State) (c : WorkClass) : Bool := s.heldByWindow c || s.quiesced

/-! ## Journal room (R175) -/

/-- The free places of the journal: 1024 - (W - M). -/
def State.journalFree (s : State) : Nat := 1024 - (s.journal.published - s.journal.mark).toNat

/-- The room condition of a kind: free > 32 for a corrected kind, free > 0 for a priority kind (R175). -/
def State.roomFor (s : State) (k : RecordKind) : Bool :=
  if k.isCorrectedKind then decide (32 < s.journalFree) else decide (0 < s.journalFree)

end Sys2Proof.Machine
end

