-- ==== Sys2Proof/Machine/Array.lean ====
section
/-! DEFINITION. The Array Port: resolver, placement, encoder, line writes and reads, and the closing of open lines. -/

namespace Sys2Proof.Machine

/-! ## The resolver (R3) -/

/-- The remap entry of a host row. -/
def State.findRemap (s : State) (rank row : Nat) : Option RemapEntry :=
  s.remaps.find? fun e => decide (e.rank = rank ∧ e.row = row)

/-- The old physical row of a remap entry (R128). -/
def RemapEntry.oldRow (e : RemapEntry) : Nat :=
  match e.earlier with
  | some i => spareRow i
  | none => e.row

/-- The physical row that serves a column of a host row (R3). -/
def State.servingRow (s : State) (rank row column : Nat) : Nat :=
  match s.findRemap rank row with
  | none => row
  | some e =>
    match e.state with
    | .active => spareRow e.spare
    | .migrating => if column < e.cursor then spareRow e.spare else e.oldRow

/-- The host line a physical line serves, if it serves one (R14). -/
def State.servedHost (s : State) (rank physRow column : Nat) : Option Nat :=
  (if physRow < Config.hostRows then some physRow
   else (s.remaps.find? fun e =>
     decide (e.rank = rank ∧ (spareRow e.spare = physRow ∨ e.earlier.map spareRow = some physRow))).map RemapEntry.row).bind
  fun row => if s.servingRow rank row column = physRow then some (hostLineOf rank row column) else none

/-! ## Placement (R6, R7) -/

/-- The device that carries a position in the map. -/
def RankDevices.carrier (r : RankDevices) (position : Nat) : Nat := nth r.posMap position 0

/-- The state of a device. -/
def RankDevices.stateOf (r : RankDevices) (device : Nat) : DeviceState := nth r.states device .replaced

/-- The rank's MARKED device (R145). -/
def RankDevices.markedDevice (r : RankDevices) : Option Nat :=
  firstBelow Config.devicesPerRank fun d => decide (r.stateOf d = .marked)

/-- The position a device carries in the map. -/
def RankDevices.positionOf (r : RankDevices) (device : Nat) : Option Nat :=
  firstBelow Config.positions fun p => decide (r.carrier p = device)

/-- The marked position of the rank: the position its MARKED device carries (R145). -/
def RankDevices.markedPosition (r : RankDevices) : Option Nat := r.markedDevice.bind r.positionOf

/-- A rebuild has replaced the marked position of this physical line (R7, third row of the table). -/
def RankDevices.rebuilt (r : RankDevices) (index : Nat) : Bool := r.inFlight && decide (index < r.cursor)

/-- The device each position of a line is read from (R7). -/
def RankDevices.readFrom (r : RankDevices) (index : Nat) : List Nat :=
  (List.range Config.positions).map fun p =>
    if r.rebuilt index && decide (r.markedPosition = some p) then 19 else r.carrier p

/-- The marked position given to the decoder for a line (R7). -/
def RankDevices.markedFor (r : RankDevices) (index : Nat) : Option Nat :=
  if r.rebuilt index then none else r.markedPosition

/-- The (position, device) pairs a line write puts slices on (R6). -/
def RankDevices.writeTo (r : RankDevices) (index : Nat) : List (Nat × Nat) :=
  (List.range Config.positions).flatMap fun p =>
    if decide (r.markedPosition = some p) && r.inFlight then
      (if index < r.cursor then [(p, 19)] else [(p, r.carrier p), (p, 19)])
    else [(p, r.carrier p)]

/-! ## The encoder (R5, R13) -/

/-- Data with valid code. -/
def validContent (data : Line) : Content := { data := data, poison := false }

/-- Poison encoding: zero data and the marker set (R13). -/
def poisonContent : Content := { data := 0, poison := true }

/-- The three check slices of poison encoding: "distinct", so not those of valid zero data, which are zero (R13,
R150). -/
def poisonBits : BitVec 96 := if Config.poisonPattern = 0 then BitVec.allOnes 96 else Config.poisonPattern

/-- The slice a position carries (R5). Data bytes 4p to 4p + 3 are carried by position p; zero data with valid code
has every slice zero (R150). -/
def encodeSlice (c : Content) (position : Nat) : Slice :=
  if position < 16 then c.data.extractLsb' (32 * position) 32
  else if c.poison then poisonBits.extractLsb' (32 * (position - 16)) 32
  else if c.data = 0 then 0
  else Config.checkSlice c.data position

/-! ## Line storage -/

/-- The number of a physical line among all ranks. -/
def lineKey (rank index : Nat) : Nat := rank * Config.physLinesPerRank + index

/-- The address of the slice a device holds of a physical line. -/
def sliceAddress (rank index device : Nat) : Nat := (lineKey rank index * Config.devicesPerRank + device) * 4

/-- The slice a device holds of a physical line. -/
def State.storedSlice (s : State) (rank index device : Nat) : Slice :=
  BitVec.ofNat 32 (Memory.readBytes s.cells (sliceAddress rank index device) 4)

/-- Put a slice on a device. -/
def State.storeSlice (s : State) (rank index device : Nat) (v : Slice) : State :=
  { s with cells := Memory.writeBytes s.cells (sliceAddress rank index device) 4 v.toNat }

/-- The content the encoder last wrote to a physical line. -/
def State.contentAt (s : State) (rank index : Nat) : Content :=
  { data := BitVec.ofNat 512 (Memory.readBytes s.written (lineKey rank index * 64) 64),
    poison := decide (Memory.read s.poisoned (lineKey rank index) ≠ 0) }

/-- Keep the content the encoder writes to a physical line, and its poison marker (R5). -/
def State.recordContent (s : State) (rank index : Nat) (c : Content) : State :=
  { s with written := Memory.writeBytes s.written (lineKey rank index * 64) 64 c.data.toNat,
           poisoned := Memory.write s.poisoned (lineKey rank index) (if c.poison then 1 else 0) }

/-- Put the slices of a content on these devices. -/
def State.placeSlices (s : State) (rank index : Nat) (c : Content) (targets : List (Nat × Nat)) : State :=
  targets.foldl (fun s t => s.storeSlice rank index t.2 (encodeSlice c t.1)) s

/-- A line write, placed as R6 states at this grant. -/
def State.writeLine (s : State) (rank row column : Nat) (c : Content) : State :=
  (s.recordContent rank (physIndex row column) c).placeSlices rank (physIndex row column) c
    ((s.rankDevices rank).writeTo (physIndex row column))

/-- The faults of the devices reach the slices of a line (log 4); a device the rank does not have is no device. -/
def State.applyErrors (s : State) (rank row column : Nat) (errors : List SliceError) : State :=
  (errors.filter fun e => decide (e.device < Config.devicesPerRank)).foldl
    (fun s e => s.storeSlice rank (physIndex row column) e.device
      (s.storedSlice rank (physIndex row column) e.device ^^^ e.pattern)) s

/-- The damaged set of a line as read: the positions whose slice as read differs from the slice the encoder wrote
(section 1.4). -/
def State.damagedSet (s : State) (rank row column : Nat) : List Nat :=
  (List.range Config.positions).filter fun p =>
    decide (s.storedSlice rank (physIndex row column)
        ((((s.rankDevices rank).readFrom (physIndex row column))[p]?).getD 0) ≠
      encodeSlice (s.contentAt rank (physIndex row column)) p)

/-! ## Open lines (R15) -/

/-- Close a record if it is OPEN and matches; a closed record keeps its fields. -/
def closeIf (p : OpenLine → Bool) (o : Option OpenLine) : Option OpenLine :=
  o.map fun r => if r.isOpen && p r then { r with isOpen := false } else r

/-- Close every OPEN record of the four engines that matches. -/
def State.closeOpen (s : State) (p : OpenLine → Bool) : State :=
  { s with patrolOp := closeIf p s.patrolOp, targetedOp := closeIf p s.targetedOp,
           migrationOp := closeIf p s.migrationOp, rebuildOp := closeIf p s.rebuildOp }

/-- A record is open on this physical line. -/
def OpenLine.isOn (r : OpenLine) (rank row column : Nat) : Bool :=
  decide (r.rank = rank ∧ r.row = row ∧ r.column = column)

/-- A record names this host line. -/
def OpenLine.names (r : OpenLine) (host : Nat) : Bool := decide (r.host = some host)

/-- Close every OPEN record of the engines other than migration on a physical line: the effect of a migration copy
write, and of the spare-line half of R136 (R15). -/
def State.closeOthersOn (s : State) (rank row column : Nat) : State :=
  { s with patrolOp := closeIf (fun r => r.isOn rank row column) s.patrolOp,
           targetedOp := closeIf (fun r => r.isOn rank row column) s.targetedOp,
           rebuildOp := closeIf (fun r => r.isOn rank row column) s.rebuildOp }

/-- Leave a content on a record that is OPEN on a physical line (R98, R137, R154). A CLOSED one takes none: R137 gives the
carry only while the migration record is OPEN. So a write-back granted at the copy column after a write of R136 has
closed it reaches the old line alone, and the spare line serves the server's content, a poison write-back's loss not
reaching it, though the end of R137 has such a line poison-encoded (DESIGN CHOICE, unsafe: log 45). -/
def leaveOn (rank row column : Nat) (c : Content) (o : Option OpenLine) : Option OpenLine :=
  o.map fun r => if r.isOpen && r.isOn rank row column then { r with override := some c } else r

/-- A write-back granted to a physical line: every engine with an OPEN record there carries its content. -/
def State.leaveOnAll (s : State) (rank row column : Nat) (c : Content) : State :=
  { s with patrolOp := leaveOn rank row column c s.patrolOp, targetedOp := leaveOn rank row column c s.targetedOp,
           migrationOp := leaveOn rank row column c s.migrationOp, rebuildOp := leaveOn rank row column c s.rebuildOp }

/-- All four open-line records are NONE (R169). -/
def State.noOpenLine (s : State) : Bool :=
  s.patrolOp.isNone && s.targetedOp.isNone && s.migrationOp.isNone && s.rebuildOp.isNone

/-! ## The effect of a host write (R44, R45, R47, R51, R136) -/

/-- The host line of the migration's copy column, while there is one (R133, R136). -/
def State.copyHost (s : State) : Option Nat := s.migrationOp.bind OpenLine.host

/-- Mark the reads in flight of a host line stale, own reads included (R43, R161). -/
def State.markStale (s : State) (host : Nat) : State :=
  { s with
    reads := s.reads.map fun r => if r.host = host then { r with stale := true } else r,
    ownRead := s.ownRead.map fun o =>
      match o.stage with
      | .decoding d stale => { o with stage := .decoding d (stale || decide (d.host = some host)) }
      | .requested | .ended _ => o }

/-- Remove the write-back queue's entry for a host line. -/
def State.dropWriteBack (s : State) (host : Nat) : State :=
  { s with writeBacks := s.writeBacks.filter fun e => decide (e.host ≠ host) }

/-- The line writes of a write granted to a host line: the line that serves it, and, at the copy column of a
migration, the spare line too (R44, R136). -/
def State.hostLineWrites (s : State) (host : Nat) (c : Content) : State :=
  let s1 := s.writeLine (rankOf host) (s.servingRow (rankOf host) (rowOf host) (columnOf host)) (columnOf host) c
  if s.copyHost = some host then
    match s.findRemap (rankOf host) (rowOf host) with
    | none => s1
    | some e =>
      (s1.writeLine (rankOf host) (spareRow e.spare) (columnOf host) c).closeOthersOn (rankOf host)
        (spareRow e.spare) (columnOf host)
  else s1

/-- A server write or writer write granted to a host line: the line is written, the OPEN records that name the host
line are closed, its write-back entry leaves, its reads in flight become stale (R44, R45, R15). -/
def State.hostWrite (s : State) (host : Nat) (c : Content) : State :=
  ((((s.hostLineWrites host c).closeOpen fun r => r.names host).dropWriteBack host).markStale host)

end Sys2Proof.Machine
end

