-- ==== Sys2Proof/Machine/Decoder.lean ====
section
/-! DEFINITION. The Slice Decoder: suspect lists, the start of a decode, and its class and result. -/

namespace Sys2Proof.Machine

/-! ## Device tallies and the suspect list (R25 to R29, R72) -/

/-- The tally of a device: the table's entries of the rank whose device set contains it (R72). -/
def State.tally (s : State) (rank device : Nat) : Nat :=
  s.table.countP fun e => decide (e.rank = rank) && inSet e.devices device

/-- Devices in descending order of tally, equal tallies in ascending order of number (R27, R75). -/
def State.devicesByTally (s : State) (rank : Nat) : List Nat :=
  List.insertionSort
    (fun a b => s.tally rank b < s.tally rank a ∨ (s.tally rank a = s.tally rank b ∧ a ≤ b))
    (List.range Config.devicesPerRank)

/-- The devices of the row's own entry, in ascending order (R26); none without a host line or an entry. -/
def State.ownDevices (s : State) (rank : Nat) (host : Option Nat) : List Nat :=
  match host with
  | none => []
  | some h =>
    match s.table.find? fun e => decide (e.rank = rank ∧ e.row = rowOf h) with
    | none => []
    | some e => (List.range Config.devicesPerRank).filter (inSet e.devices)

/-- The two parts of the list, as devices (R26, R27). -/
def State.suspectDevices (s : State) (rank : Nat) (host : Option Nat) : List Nat :=
  s.ownDevices rank host ++
    (s.devicesByTally rank).filter fun d =>
      decide (1 ≤ s.tally rank d) && !(s.ownDevices rank host).contains d

/-- The position a device carries in the placement of the read, unless it is MARKED or REPLACED (R28). -/
def RankDevices.suspectPosition (r : RankDevices) (carriers : List Nat) (device : Nat) : Option Nat :=
  if r.stateOf device = .marked ∨ r.stateOf device = .replaced then none
  else firstBelow Config.positions fun p => decide (carriers[p]? = some device)

/-- The suspect list of a decode; it is built only for a budget above 0 (R25), and cut to it (R29). -/
def State.suspectList (s : State) (rank index : Nat) (host : Option Nat) (budget : Nat) : List Nat :=
  ((s.suspectDevices rank host).filterMap
    ((s.rankDevices rank).suspectPosition ((s.rankDevices rank).readFrom index))).take budget

/-! ## The start of a decode (R7, R8, R25) -/

/-- The decode that starts at the read of a physical line, as the array and the tables stand at its grant. -/
def State.decodeOf (s : State) (rank row column : Nat) (host : Option Nat) (budget : Nat) : Decode :=
  { rank := rank, row := row, column := column, host := host,
    content := s.contentAt rank (physIndex row column), damaged := s.damagedSet rank row column,
    marked := (s.rankDevices rank).markedFor (physIndex row column), budget := budget,
    suspects := s.suspectList rank (physIndex row column) host budget,
    carriers := (s.rankDevices rank).readFrom (physIndex row column) }

/-- The decode of a host-addressed read, resolved at its grant (R3, R4). -/
def State.decodeHost (s : State) (host budget : Nat) : Decode :=
  s.decodeOf (rankOf host) (s.servingRow (rankOf host) (rowOf host) (columnOf host)) (columnOf host) (some host) budget

/-- The faults of the devices reach the slices of the physical line that serves a host line (log 4). -/
def State.applyErrorsHost (s : State) (host : Nat) (errors : List SliceError) : State :=
  s.applyErrors (rankOf host) (s.servingRow (rankOf host) (rowOf host) (columnOf host)) (columnOf host) errors

/-! ## The class of a decode (R9 to R12, R22 to R24, R32) -/

/-- The device of a position in the placement of the read (R12). -/
def Decode.deviceAt (d : Decode) (position : Nat) : Nat := (d.carriers[position]?).getD 0

/-- A result that names positions and carries data. -/
def Decode.recovered (d : Decode) (c : LineClass) (positions : List Nat) (tried : Nat) : DecodeResult :=
  { cls := c, data := some d.content.data, positions := positions, devices := positions.map d.deviceAt,
    tried := tried, erasure := d.marked.isSome }

/-- A result with no data and no device. -/
def Decode.lost (d : Decode) (c : LineClass) (tried : Nat) : DecodeResult :=
  { cls := c, data := none, positions := [], devices := [], tried := tried, erasure := d.marked.isSome }

/-- The index in S of the first hypothesis that succeeds: a damaged position, D holding exactly two (R23, R24). -/
def Decode.firstSuccess (d : Decode) : Option Nat :=
  if d.damaged.length = 2 then
    firstBelow d.suspects.length fun i => (d.suspects[i]?).any fun x => d.damaged.contains x
  else none

/-- The hypothesis search over S (R24, R32). -/
def Decode.search (d : Decode) : DecodeResult :=
  match d.firstSuccess with
  | none => d.lost .uncorrectable d.suspects.length
  | some i =>
    d.recovered .deepCorrected
      ((d.suspects[i]?).getD 0 :: d.damaged.filter fun p => decide (p ≠ (d.suspects[i]?).getD 0)) (i + 1)

/-- A line without poison and without a marked position (R9). -/
def Decode.classifyPlain (d : Decode) : DecodeResult :=
  match d.damaged with
  | [] => d.recovered .clean [] 0
  | [p] => d.recovered .corrected [p] 0
  | _ :: _ :: _ => d.search

/-- A line without poison that has a marked position (R10). -/
def Decode.classifyMarked (d : Decode) (m : Nat) : DecodeResult :=
  match d.damaged.filter fun p => decide (p ≠ m) with
  | [] => if d.damaged = [] then d.recovered .clean [] 0 else d.recovered .erased [] 0
  | [p] => d.recovered .corrected [p] 0
  | _ :: _ :: _ => d.lost .uncorrectable 0

/-- A line whose poison marker is set (R11). -/
def Decode.classifyPoison (d : Decode) : DecodeResult :=
  if d.damaged.length ≤ 1 then d.lost .poisoned 0 else d.lost .uncorrectable 0

/-- The result of a decode (R8, R12). -/
def Decode.classify (d : Decode) : DecodeResult :=
  if d.content.poison then d.classifyPoison
  else
    match d.marked with
    | none => d.classifyPlain
    | some m => d.classifyMarked m

/-- The lines handed to a reader: data for CLEAN, ERASED, CORRECTED and DEEP_CORRECTED (R12). -/
def LineClass.hasData : LineClass → Bool
  | .clean | .erased | .corrected | .deepCorrected => true
  | .uncorrectable | .poisoned => false

/-- The content an engine carries on from a result: the data with valid code, or poison encoding (R13). -/
def DecodeResult.content (r : DecodeResult) : Content :=
  match r.data with
  | some l => validContent l
  | none => poisonContent

/-- The weight of a scored event (R62). -/
def LineClass.weight : LineClass → Nat
  | .corrected => 4
  | .deepCorrected => 16
  | .uncorrectable => 64
  | .clean | .erased | .poisoned => 0

/-- The row a record names: the host row, or the physical row when the host line is absent (section 10.6). -/
def Decode.reportRow (d : Decode) : Nat :=
  match d.host with
  | some h => rowOf h
  | none => d.row

end Sys2Proof.Machine
end

