-- ==== Sys2Proof/Machine/Writer.lean ====
section
/-! DEFINITION. The control-window writer: places, waiting blocks, and the entry of line writes. -/

namespace Sys2Proof.Machine

/-- The line writes the writer holds at most (R174). -/
def writerCapacity : Nat := 32

/-- The places a waiting block needs (R174, R180). -/
def Waiter.places : Waiter → Nat
  | .status => 2
  | .item _ | .slotDone _ _ | .journal | .exportLine | .identity => 1

/-- The blocks whose entry is a step of its own in the table: the status write, an export line, the identity line
of a restart, a Journal line from staging. -/
def Waiter.hasOwnStep : Waiter → Bool
  | .status | .exportLine | .identity | .journal => true
  | .item _ | .slotDone _ _ => false

/-- The places all waiting blocks need together. -/
def State.placesAwaited (s : State) : Nat := (s.waiters.map Waiter.places).sum

/-- A request made now finds room: nobody waits for want of a place, and a place is left beside those of the
blocks whose entry step has not yet come (R174, log 13). -/
def State.writerHasPlace (s : State) : Bool :=
  s.waiters.all Waiter.hasOwnStep && decide (s.writer.length + s.placesAwaited + 1 ≤ writerCapacity)

/-- The oldest waiting block is this one, and its places are free (R174). -/
def State.mayEnter (s : State) (w : Waiter) : Bool :=
  decide (s.waiters.head? = some w) && decide (s.writer.length + w.places ≤ writerCapacity)

/-- A block begins to wait. -/
def State.await (s : State) (w : Waiter) : State := { s with waiters := s.waiters ++ [w] }

/-- A block that waited once waits no longer. -/
def State.stopAwaiting (s : State) (w : Waiter) : State := { s with waiters := s.waiters.erase w }

/-- A line write enters the writer at its tail (R174). -/
def State.enterWriter (s : State) (w : WriterItem) : State := { s with writer := s.writer ++ [w] }

/-- A slot's DONE write enters: the mirror becomes DONE and the cause ORDER is raised (R167, R179). -/
def State.enterDone (s : State) (slot : Nat) (content : Line) : State :=
  ((s.enterWriter (.line (slotOffset slot) content)).setSlot slot
    { s.slot slot with state := .done }).raiseCause .order

/-- Ask the writer for a place for a line write; without room it waits (R174). -/
def State.requestItem (s : State) (w : WriterItem) : State :=
  if s.writerHasPlace then s.enterWriter w else s.await (.item w)

/-- Ask the writer for a place for a slot's DONE write (R167, R174). -/
def State.requestDone (s : State) (slot : Nat) (content : Line) : State :=
  if s.writerHasPlace then s.enterDone slot content else s.await (.slotDone slot content)

/-- A write of this window record already waits for its grant or for a place; it takes its content at the grant
(R85). -/
def State.recordWriteWaits (s : State) (record : Nat) : Bool :=
  s.writer.contains (.windowRecord record) || s.waiters.contains (.item (.windowRecord record))

/-- Ask for a write of a window record; one that already waits carries the change (R85). -/
def State.requestRecord (s : State) (record : Nat) : State :=
  if s.recordWriteWaits record then s else s.requestItem (.windowRecord record)

/-- The window offset of a line write (R174). -/
def WriterItem.offset : WriterItem → Nat
  | .line offset _ => offset
  | .windowRecord record => 16 + record

/-- The content of a line write at its grant (R85, R174). -/
def State.itemContent (s : State) : WriterItem → Line
  | .line _ content => content
  | .windowRecord record => windowLine (s.window record)

/-- The DONE write of a slot from its line, with the outcome at the present part time (R167). -/
def State.finishSlot (s : State) (slot : Nat) (line : Line) (o : OrderOutcome) (r : OrderReason)
    (results : List FieldValue) : State :=
  s.requestDone slot (doneLine line s.time o r results)

/-- The outcome of an order whose slot was held TAKEN: written on its taken content (R167). -/
def State.finishTaken (s : State) (slot : Nat) (o : OrderOutcome) (r : OrderReason) (results : List FieldValue) :
    State :=
  s.finishSlot slot (s.slot slot).taken o r results

end Sys2Proof.Machine
end

