-- ==== Sys2Proof/Machine/Journal.lean ====
section
/-! DEFINITION. The journal: publication, staging, the read mark, and the JOURNAL and ROOM causes. -/

namespace Sys2Proof.Machine

/-! ## Coalescing and holdoff (R178) -/

/-- Raise JOURNAL: the count becomes 0 and the timer stops (R178). -/
def State.raiseJournal (s : State) : State :=
  State.raiseCause { s with journal := { s.journal with coalesce := 0, holdoff := none } } .journal

/-- A publication raises the coalescing count by one; the first after a raise starts the timer (R178). -/
def State.countPublication (s : State) : State :=
  { s with journal := { s.journal with
      coalesce := s.journal.coalesce + 1,
      holdoff := if s.journal.coalesce = 0 then some (timeAfter s.time s.policy.holdoff) else s.journal.holdoff } }

/-- JOURNAL is raised when the count has reached the coalesce count in force (R178). -/
def State.checkCoalesce (s : State) : State :=
  if s.policy.coalesceCount ≤ s.journal.coalesce then s.raiseJournal else s

/-- A publication took free from 33 to 32: ROOM is raised if the flag is set, and the flag is cleared (R178). -/
def State.checkRoomRaise (s : State) (freeBefore : Nat) : State :=
  if freeBefore = 33 ∧ s.journal.roomArmed = true then
    State.raiseCause { s with journal := { s.journal with roomArmed := false } } .room
  else s

/-! ## Publication and staging (R175, R176) -/

/-- Publish a record: its line enters the writer with sequence W, and W rises by one (R175, R178). -/
def State.publish (s : State) (r : JournalRecord) : State :=
  let s1 := s.enterWriter (.line (journalOffset s.journal.published) (journalLine r s.journal.published))
  let s2 := { s1 with journal := { s1.journal with published := s1.journal.published + 1 } }
  (s2.countPublication.checkCoalesce).checkRoomRaise s.journalFree

/-- The Journal waits for a place while the head of staging could be published, and only then (R174, R176). It begins to
wait anew, behind the others, for each head, and it loses its turn while its head cannot be published (DESIGN CHOICE,
log 40). -/
def State.syncJournal (s : State) : State :=
  match s.journal.staging with
  | [] => s.stopAwaiting .journal
  | r :: _ =>
    if s.roomFor r.kind then (if s.waiters.contains .journal then s else s.await .journal)
    else s.stopAwaiting .journal

/-- The records staging holds at most (R176). -/
def stagingCapacity : Nat := 16

/-- A record joins the tail of staging; one that finds it full is held (R176). -/
def State.stage (s : State) (r : JournalRecord) : State :=
  if s.journal.staging.length < stagingCapacity then
    State.syncJournal { s with journal := { s.journal with staging := s.journal.staging ++ [r] } }
  else s.countHeld

/-- A record handed to the Journal (R175). -/
def State.handRecord (s : State) (r : JournalRecord) : State :=
  if s.journal.staging ≠ [] then s.stage r
  else if s.writerHasPlace && s.roomFor r.kind then s.publish r
  else if r.kind.isCorrectedKind && decide (s.journalFree ≤ 32) then s.countHeld
  else s.stage r

/-- The head of staging departs: a corrected kind without room is withheld; else it is published, when the oldest
waiting block is the Journal and a place is free (R174, R176). A status write that the publication asks for began to wait
before the next record did (DESIGN CHOICE, log 38). -/
def State.stagingDeparts (s : State) : State :=
  match s.journal.staging with
  | [] => s
  | r :: rest =>
    if r.kind.isCorrectedKind && decide (s.journalFree ≤ 32) then
      State.syncJournal (State.countHeld { s with journal := { s.journal with staging := rest } })
    else if s.mayEnter .journal && s.roomFor r.kind then
      State.syncJournal
        ((State.stopAwaiting { s with journal := { s.journal with staging := rest } } .journal).publish r)
    else s

/-- A record that comes from no decode, at the present part time (R175; fields it does not carry, log 17). -/
def State.handPlain (s : State) (k : RecordKind) (host : Option Nat) (rank row : Nat) (devices : List Nat) : State :=
  s.handRecord { time := s.time, kind := k, source := .none, host := host, rank := rank, row := row,
                 erasure := false, devices := devices, tried := 0 }

/-! ## The read mark (R177, R182) -/

/-- M after a mark of value `x` is handed over (R177). -/
def settledMark (w m x : Count32) : Count32 :=
  if x = m then m
  else if (m - x).toNat ≤ 1024 then m
  else if (x - m).toNat ≤ (w - m).toNat then x
  else w

/-- Put a new read mark in place; a forward move that takes free above 32 sets the ROOM flag, and a change of free
can release the head of staging (R177, R178). -/
def State.moveMark (s : State) (x : Count32) : State :=
  let s1 := { s with journal := { s.journal with mark := settledMark s.journal.published s.journal.mark x } }
  let s2 :=
    if s1.journal.mark ≠ s.journal.mark ∧ 32 < s1.journalFree then
      { s1 with journal := { s1.journal with roomArmed := true } }
    else s1
  s2.syncJournal

/-- M after the mark read of a warm-reset restart (R182). -/
def restartMark (w x : Count32) : Count32 :=
  if (w - x).toNat ≤ 1024 then x
  else if (x - w).toNat ≤ 2147483648 then w
  else w - 1024

end Sys2Proof.Machine
end

