-- ==== Sys2Proof/Machine/Faults.lean ====
section
/-! DEFINITION. The Line Fault Table with its two neighbours: scored events, retirement requests and starts, marking. -/

namespace Sys2Proof.Machine

/-! ## Spare rows and the migration queue (R127, R129, R132) -/

/-- The FREE spare rows of a rank. -/
def State.freeSpares (s : State) (rank : Nat) : Nat :=
  countBelow 128 fun i => decide (s.spareState rank i = .free)

/-- The FREE spare row of lowest index in a rank (R127). -/
def State.lowestFree (s : State) (rank : Nat) : Option Nat :=
  firstBelow 128 fun i => decide (s.spareState rank i = .free)

/-- The waiting count of a rank (R129). -/
def State.waitingCount (s : State) (rank : Nat) : Nat :=
  s.migrationQueue.countP fun q => decide (q.rank = rank)

/-- The retirements the migration queue holds at most (R129). -/
def migrationCapacity : Nat := 8

/-- A retirement of this row waits in the queue. -/
def State.rowQueued (s : State) (rank row : Nat) : Bool :=
  s.migrationQueue.any fun q => decide (q.rank = rank ∧ q.row = row)

/-- The row has a remap entry in state MIGRATING. -/
def State.rowMigrating (s : State) (rank row : Nat) : Bool :=
  s.remaps.any fun e => decide (e.rank = rank ∧ e.row = row ∧ e.state = .migrating)

/-- Change the remap entry of a row. -/
def State.changeRemap (s : State) (rank row : Nat) (f : RemapEntry → RemapEntry) : State :=
  { s with remaps := s.remaps.map fun e => if e.rank = rank ∧ e.row = row then f e else e }

/-- The remap entry of a row at the start of its migration onto a spare row: created, or changed from its ACTIVE
entry (R132, step 3). -/
def State.startRemap (s : State) (q : Retirement) (spare : Nat) : State :=
  match s.findRemap q.rank q.row with
  | none =>
    { s with remaps := s.remaps ++ [{ rank := q.rank, row := q.row, spare := spare, earlier := none,
                                      state := .migrating, cursor := 0, origin := q.origin }] }
  | some e =>
    s.changeRemap q.rank q.row fun x =>
      { x with spare := spare, earlier := some e.spare, state := .migrating, cursor := 0, origin := q.origin }

/-- With no migration in progress, the oldest retirement starts, as one act (R132). -/
def State.startMigration (s : State) : State :=
  match s.migration, s.migrationQueue with
  | none, q :: rest =>
    match s.lowestFree q.rank with
    | none => s
    | some i =>
      State.startRemap
        (State.setSpareState
          { s with migrationQueue := rest,
                   migration := some { rank := q.rank, row := q.row, origin := q.origin, slot := q.slot,
                                       corrected := 0, deepCorrected := 0, uncorrectable := 0, poisoned := 0,
                                       copiesDropped := 0 } }
          q.rank i .inUse) q i
  | _, _ => s

/-- A retirement joins the migration queue, and starts at once when none is in progress (R130 to R132). -/
def State.admitRetirement (s : State) (q : Retirement) : State :=
  State.startMigration { s with migrationQueue := s.migrationQueue ++ [q] }

/-! ## Entries (R61 to R65) -/

/-- The entry has this key. -/
def FaultEntry.keyed (e : FaultEntry) (rank row : Nat) : Bool := decide (e.rank = rank ∧ e.row = row)

/-- The entry of a key. -/
def State.findEntry (s : State) (rank row : Nat) : Option FaultEntry := s.table.find? fun e => e.keyed rank row

/-- Replace the entry of a key by a function of it. -/
def State.changeEntry (s : State) (rank row : Nat) (f : FaultEntry → FaultEntry) : State :=
  { s with table := s.table.map fun e => if e.keyed rank row then f e else e }

/-- Put a retire state on the entry of a key, if there is one. -/
def State.setRetire (s : State) (rank row : Nat) (x : RetireState) : State :=
  s.changeEntry rank row fun e => { e with retire := x }

/-- Entries in the order of an export: by rank, then by row (R61, R79). -/
def FaultEntry.before (a b : FaultEntry) : Bool :=
  decide (a.rank < b.rank) || (decide (a.rank = b.rank) && decide (a.row < b.row))

/-- Put an entry into the table in its place. -/
def insertEntry (e : FaultEntry) : List FaultEntry → List FaultEntry
  | [] => [e]
  | x :: rest => if e.before x then e :: x :: rest else x :: insertEntry e rest

/-- The entries the table holds at most (R61). -/
def tableCapacity : Nat := 1024

/-- Where a score saturates (R61). -/
def scoreMax : Nat := 1023

/-- Where an events count saturates (R61). -/
def eventsMax : Nat := 65535

/-- The later of two part times (R63). -/
def laterOf (a b : PartTime) : PartTime := if laterThan a b then a else b

/-- The devices of an event that join a set: never one that is MARKED or REPLACED (R63). -/
def State.joiningDevices (s : State) (rank : Nat) (devices : List Nat) : List Nat :=
  devices.filter fun d =>
    decide ((s.rankDevices rank).stateOf d ≠ .marked) && decide ((s.rankDevices rank).stateOf d ≠ .replaced)

/-- A set with devices added. -/
def addAll (set : DeviceSet) (devices : List Nat) : DeviceSet := devices.foldl addToSet set

/-- An entry after an event (R63). -/
def FaultEntry.taken (e : FaultEntry) (weight : Nat) (devices : List Nat) (t : PartTime) : FaultEntry :=
  { e with score := min scoreMax (e.score + weight), events := min eventsMax (e.events + 1),
           devices := addAll e.devices devices, lastSeen := laterOf e.lastSeen t }

/-- The entry an event creates; PENDING for a row with a retirement waiting or migrating (R64, R70). -/
def State.newEntry (s : State) (rank row weight : Nat) (devices : List Nat) (t : PartTime) : FaultEntry :=
  { rank := rank, row := row, score := weight, events := 1, devices := addAll 0 devices, firstSeen := t,
    lastSeen := t, retire := if s.rowQueued rank row || s.rowMigrating rank row then .pending else .none }

/-- Which of two NONE entries is the victim: lower score, then earlier last seen, then lower rank and row (R65). -/
def FaultEntry.weaker (a b : FaultEntry) : Bool :=
  decide (a.score < b.score) ||
    (decide (a.score = b.score) &&
      (laterThan b.lastSeen a.lastSeen || (decide (a.lastSeen = b.lastSeen) && a.before b)))

/-- The victim among the entries whose retire state is NONE (R65). -/
def victimOf (table : List FaultEntry) : Option FaultEntry :=
  table.foldl
    (fun best e =>
      if e.retire = .none then
        match best with
        | none => some e
        | some b => if e.weaker b then some e else some b
      else best)
    none

/-! ## Suspect flags (R73, R74) -/

/-- The suspect flag of a device. -/
def State.isSuspect (s : State) (rank device : Nat) : Bool := inSet (nth s.suspects rank 0) device

/-- Put a rank's suspect flags in place. -/
def State.setSuspects (s : State) (rank : Nat) (f : DeviceSet) : State :=
  { s with suspects := put s.suspects rank f }

/-- Clear the flags of a rank's devices whose tally is below the mark threshold in force (R74). -/
def State.clearSuspects (s : State) (rank : Nat) : State :=
  s.setSuspects rank
    ((List.range Config.devicesPerRank).foldl
      (fun f d => if s.tally rank d < s.policy.markThreshold then dropFromSet f d else f) (nth s.suspects rank 0))

/-- Clear the flags of every rank as R74 states. -/
def State.clearAllSuspects (s : State) : State := (List.range s.ranks).foldl State.clearSuspects s

/-- Remove the entry of a key and recompute the rank's tallies (R65, R71). -/
def State.removeEntry (s : State) (rank row : Nat) : State :=
  State.clearSuspects { s with table := s.table.filter fun e => !e.keyed rank row } rank

/-- A device becomes suspect: flag set and DEVICE_SUSPECT journaled, once while the flag stands (R73, R74). -/
def State.makeSuspect (s : State) (rank device : Nat) : State :=
  if s.isSuspect rank device then s
  else
    (s.setSuspects rank (addToSet (nth s.suspects rank 0) device)).handPlain
      (.deviceSuspect (s.tally rank device)) none rank 0 [device]

/-! ## Marking a device (R76, R148) -/

/-- Entries of the rank after a marking: those of set exactly {d} are gone, others lose d (R76). -/
def strippedTable (table : List FaultEntry) (rank device : Nat) : List FaultEntry :=
  (table.filter fun e => !(decide (e.rank = rank) && decide (e.devices = addToSet 0 device))).map fun e =>
    if e.rank = rank then { e with devices := dropFromSet e.devices device } else e

/-- The table is told of a marking (R76). -/
def State.stripDevice (s : State) (rank device : Nat) : State :=
  State.clearSuspects { s with table := strippedTable s.table rank device } rank

/-- A marking in this mode starts a rebuild: mode REBUILD, device 19 SPARE (R148). -/
def RankDevices.startsRebuild (r : RankDevices) (mode : MarkMode) : Bool :=
  decide (mode = .rebuild) && decide (r.stateOf 19 = .spare)

/-- A marking in mode REBUILD is degraded to erase-only (R148, R151). -/
def RankDevices.degrades (r : RankDevices) (mode : MarkMode) : Bool :=
  decide (mode = .rebuild) && decide (r.stateOf 19 ≠ .spare)

/-- The rank after steps 1 and 2 of R148. -/
def RankDevices.marking (r : RankDevices) (device : Nat) (mode : MarkMode) (now : PartTime) : RankDevices :=
  if r.startsRebuild mode then
    { r with states := put r.states device .marked, cursor := 0, inFlight := true, startTime := now, corrected := 0,
             uncorrectable := 0, poisoned := 0, writesDropped := 0 }
  else { r with states := put r.states device .marked }

/-- A marking in mode REBUILD or ERASE_ONLY, as one act: device state, rebuild, fault table, journal (R148). -/
def State.markDevice (s : State) (rank device : Nat) (mode : MarkMode) (origin : Origin) : State :=
  State.handPlain
    (State.stripDevice (s.setRankDevices rank ((s.rankDevices rank).marking device mode s.time)) rank device)
    (.deviceMarked (((s.rankDevices rank).positionOf device).getD 0) mode origin
      ((s.rankDevices rank).startsRebuild mode) ((s.rankDevices rank).degrades mode) (s.tally rank device))
    none rank 0 [device]

/-! ## The examination of devices (R73, R75) -/

/-- Deal with a device by R73. `afterRebuild` treats a set flag as clear, but makes no second DEVICE_SUSPECT
(R75). -/
def State.examineDevice (s : State) (rank device : Nat) (afterRebuild : Bool) : State :=
  if s.tally rank device < s.policy.markThreshold then s
  else if s.isSuspect rank device && !afterRebuild then s
  else
    match (s.rankDevices rank).stateOf device with
    | .marked | .replaced => s
    | .spare => s.makeSuspect rank device
    | .active =>
      if s.policy.autoMark = 1 ∧ (s.rankDevices rank).markedDevice = none then s.markDevice rank device .rebuild .auto
      else s.makeSuspect rank device

/-- Examine devices of a rank in descending order of tally, ties to the lower number (R75). -/
def State.examineDevices (s : State) (rank : Nat) (which : Nat → Bool) (afterRebuild : Bool) : State :=
  ((s.devicesByTally rank).filter which).foldl (fun s d => s.examineDevice rank d afterRebuild) s

/-! ## The retire threshold (R68, R69, R131) -/

/-- The first of the three conditions of R68 that fails: 1 auto-retire off, 2 no spare row, 3 queue full. -/
def State.retireObstacle (s : State) (rank : Nat) : Option Nat :=
  if s.policy.autoRetire ≠ 1 then some 1
  else if s.freeSpares rank ≤ s.waitingCount rank then some 2
  else if migrationCapacity ≤ s.migrationQueue.length then some 3
  else none

/-- The internal retirement is admitted, and the entry is PENDING (R68, R131). -/
def State.retireInternally (s : State) (rank row : Nat) : State :=
  (s.setRetire rank row .pending).admitRetirement { rank := rank, row := row, origin := .auto, slot := none }

/-- Step 4 of R77: the entry's retire state is examined (R68, R69, R70). -/
def State.examineRetire (s : State) (rank row : Nat) : State :=
  match s.findEntry rank row with
  | none => s
  | some e =>
    match e.retire with
    | .pending => s
    | .advised => if s.retireObstacle rank = none then s.retireInternally rank row else s
    | .none =>
      if e.score < s.policy.retireThreshold then s
      else
        match s.retireObstacle rank with
        | none => s.retireInternally rank row
        | some c => (s.setRetire rank row .advised).handPlain (.retireAdvised e.score c) none rank row []

/-! ## One scored event, taken whole (R77) -/

/-- Steps 3 to 5 of R77, once the entry stands: `risen` are the devices the entry has gained. -/
def State.afterEvent (s : State) (rank row : Nat) (risen : List Nat) : State :=
  (s.examineRetire rank row).examineDevices rank (fun d => risen.contains d) false

/-- A new entry is created, and the event goes on (R64). -/
def State.createEntry (s : State) (rank row weight : Nat) (devices : List Nat) (t : PartTime) : State :=
  State.afterEvent { s with table := insertEntry (s.newEntry rank row weight devices t) s.table } rank row devices

/-- One scored event (R63 to R65, R77). -/
def State.scoredEvent (s : State) (rank row weight : Nat) (named : List Nat) (t : PartTime) : State :=
  let devices := s.joiningDevices rank named
  match s.findEntry rank row with
  | some e =>
    (s.changeEntry rank row fun x => x.taken weight devices t).afterEvent rank row
      (devices.filter fun d => !inSet e.devices d)
  | none =>
    if s.table.length < tableCapacity then s.createEntry rank row weight devices t
    else
      match victimOf s.table with
      | none => s.countUntracked
      | some v =>
        if v.score ≤ weight then (s.removeEntry v.rank v.row).createEntry rank row weight devices t
        else s.countUntracked

/-! ## The decay tick (R66, R67) -/

/-- An entry after the halving: an ADVISED one below the retire threshold returns to NONE (R67). -/
def FaultEntry.decayed (threshold : Nat) (e : FaultEntry) : FaultEntry :=
  { e with score := e.score / 2,
           retire := if e.retire = .advised ∧ e.score / 2 < threshold then .none else e.retire }

/-- The table after a tick: NONE entries at 0 are removed (R67). -/
def decayedTable (threshold : Nat) (table : List FaultEntry) : List FaultEntry :=
  (table.map (FaultEntry.decayed threshold)).filter fun e => !(decide (e.score = 0) && decide (e.retire = .none))

/-! ## The reports of a decode (R42, R48, R62, R97, R120, R134, R153) -/

/-- The fault event of a decode that served a host line (R33, R62). -/
def State.scoreDecode (s : State) (d : Decode) (t : PartTime) : State :=
  match d.host with
  | none => s
  | some h => s.scoredEvent d.rank (rowOf h) d.classify.cls.weight d.classify.devices t

/-- The journal record of a decode (R34, R42). -/
def Decode.record (d : Decode) (k : RecordKind) (src : Source) (t : PartTime) : JournalRecord :=
  { time := t, kind := k, source := src, host := d.host, rank := d.rank, row := d.reportRow,
    erasure := d.classify.erasure, devices := d.classify.devices, tried := d.classify.tried }

/-- The last uncorrectable line, for a line that serves a host line (R180). -/
def State.noteUncorrectable (s : State) (host : Option Nat) (t : PartTime) : State :=
  match host with
  | none => s
  | some h => { s with lastUncorrectable := some (h, t) }

/-- What a reader reports of a decode that ended at `t`: fault event, record, counter, notice cause, in that order
(R42 and the tables like it). -/
def State.report (s : State) (d : Decode) (src : Source) (t : PartTime) : State :=
  match d.classify.cls with
  | .clean | .poisoned => s
  | .erased => s.countErased
  | .corrected => ((s.scoreDecode d t).handRecord (d.record .corrected src t)).countCorrected
  | .deepCorrected => ((s.scoreDecode d t).handRecord (d.record .deepCorrected src t)).countDeepCorrected
  | .uncorrectable =>
    ((((s.scoreDecode d t).handRecord (d.record .uncorrectable src t)).countUncorrectable).noteUncorrectable
      d.host t).raiseCause .uncorrectable

end Sys2Proof.Machine
end

