-- ==== Sys2Proof/Machine/Pacer.lean ====
section
/-! DEFINITION. The Pacer and the window schedule's operations: pace reviews, accrual, pass starts, arming. -/

namespace Sys2Proof.Machine

/-! ## The union the Pacer reads (R90) -/

/-- The span of a window as distances from `now`, cut to `ahead`; none for a window that does not count: one that
is neither ARMED nor ACTIVE, holds no patrol, or is over (R90). -/
def WindowEntry.spanAhead (w : WindowEntry) (now : PartTime) (ahead : Nat) : Option (Nat × Nat) :=
  if (w.state = .armed ∨ w.state = .active) ∧ w.scope.getLsbD WorkClass.patrol.bit = true ∧
      hasReached now w.stop = false then
    some ((if w.state = .active ∨ hasReached now w.start = true then 0 else min ahead (durationFromTo now w.start)),
      min ahead (durationFromTo now w.stop))
  else none

/-- The length of a union of spans taken in order of their starts: what is covered so far ends at the first
component. -/
def addSpan (acc : Nat × Nat) (span : Nat × Nat) : Nat × Nat :=
  (max acc.1 span.2, acc.2 + (span.2 - max acc.1 span.1))

/-- The total length of the union of spans (R90). -/
def unionLength (spans : List (Nat × Nat)) : Nat :=
  ((List.insertionSort (fun a b => a.1 ≤ b.1) spans).foldl addSpan (0, 0)).2

/-- The part time left in the pass, in us; 0 when E has come (R105). -/
def State.timeLeft (s : State) : Nat :=
  if laterThan s.patrol.passEnd s.time then durationFromTo s.time s.patrol.passEnd else 0

/-- U, the held time ahead (R90). -/
def State.heldTimeAhead (s : State) : Nat :=
  unionLength (s.windows.toList.filterMap fun w => w.spanAhead s.time s.timeLeft)

/-! ## The pace review (R104 to R106) -/

/-- rate_max (R106). -/
def rateMax (p : Policy) : Nat := min 16384 (p.opsPerInterval * 256)

/-- A, the unheld intervals left in the pass (R105). -/
def State.unheldIntervals (s : State) : Nat := s.timeLeft / 1000 - s.heldTimeAhead / 1000

/-- The rate that would visit `lines` lines in `intervals` intervals, rounded up (R106). -/
def rawRate (lines intervals : Nat) : Nat := (lines * 256 + intervals - 1) / intervals

/-- A pace review sets the rate and the at-risk flag (R106). -/
def State.review (s : State) : State :=
  if s.linesRemaining = 0 then s
  else if s.unheldIntervals = 0 then
    { s with patrol := { s.patrol with rate := rateMax s.policy, atRisk := true } }
  else
    { s with patrol := { s.patrol with
        rate := min (rateMax s.policy) (max s.policy.minRate (rawRate s.linesRemaining s.unheldIntervals)),
        atRisk := decide (rateMax s.policy < rawRate s.linesRemaining s.unheldIntervals) } }

/-- A review asked for during a restart is not made: the rate and the flag are kept until the restart's own review
(R111, log 23). -/
def State.askReview (s : State) : State := if s.ready then s.review else s

/-! ## Accrual (R107) -/

/-- An interval that begins now accrues (R107, step 2). -/
def State.accrues (s : State) : Bool := s.ready && decide (s.policy.patrolEnable = 1) && !s.held .patrol

/-- Credit after the rate is added, within its cap (R107, step 3). -/
def State.creditAdded (s : State) : Nat := min (s.policy.opsPerInterval * 256) (s.patrol.credit + s.patrol.rate)

/-- The accrual of an interval (R107, step 3). -/
def State.accrue (s : State) : State :=
  { s with patrol := { s.patrol with
      credit := s.creditAdded % 256,
      owed := min s.policy.opsPerInterval (s.patrol.owed + s.creditAdded / 256) } }

/-! ## Passes (R99, R103, R112) -/

/-- A pass starts at the present part time, with the patrol period in force (R99, R112). -/
def State.startPass (s : State) (number : Nat) : State :=
  State.review
    { s with patrol := { s.patrol with
        passNumber := number, cursor := 0, passStart := s.time,
        passEnd := timeAfter s.time (s.policy.patrolPeriod * Config.second),
        corrected := 0, deepCorrected := 0, uncorrectable := 0, late := false } }

/-- The number of the next pass (R99; after the last number, log 18). -/
def nextPassNumber (n : Nat) : Nat :=
  if n < Config.counterMax then n + 1 else Config.passNumberAfterLast % Config.counterMax + 1

/-- The pass is complete: PASS_DONE, the next pass, its review (R99). -/
def State.completePass (s : State) : State :=
  (s.handPlain (.passDone s.patrol.passNumber s.patrol.passStart s.patrol.late s.patrol.corrected
    s.patrol.deepCorrected s.patrol.uncorrectable) none 0 0 []).startPass (nextPassNumber s.patrol.passNumber)

/-- A visit ends: the cursor advances, and the last one completes the pass (R94, R96, R99). -/
def State.endVisit (s : State) : State :=
  if s.patrol.cursor + 1 < s.lTotal then { s with patrol := { s.patrol with cursor := s.patrol.cursor + 1 } }
  else s.completePass

/-- E has come with lines remaining and the flag clear (R103). -/
def State.passIsLate (s : State) : Bool :=
  hasReached s.time s.patrol.passEnd && decide (1 ≤ s.linesRemaining) && !s.patrol.late

/-- The late flag is set and PASS_LATE journaled (R103). -/
def State.markLate (s : State) : State :=
  State.handPlain { s with patrol := { s.patrol with late := true } }
    (.passLate s.patrol.passNumber s.patrol.passEnd s.patrol.cursor s.linesRemaining) none 0 0 []

/-! ## Window records (R83 to R86, R92) -/

/-- The record as clamped: an end more than 4 h after the start becomes the start plus 4 h (R84; log 14). -/
def WindowEntry.clamped (w : WindowEntry) : WindowEntry :=
  if laterThan w.stop w.start = true ∧ Config.longestWindow < durationFromTo w.start w.stop then
    { w with stop := timeAfter w.start Config.longestWindow }
  else w

/-- The state an armed window takes (R84, steps 3 to 5). -/
def WindowEntry.armedState (w : WindowEntry) (now : PartTime) : WindowState :=
  if laterThan w.stop w.start = false ∨ hasReached now w.stop = true then .past
  else if hasReached now w.start then .active
  else .armed

/-- The entry armed from a line at `now` (R84). -/
def armedEntry (l : Line) (now : PartTime) : WindowEntry :=
  { (windowOfLine l .armed).clamped with state := (windowOfLine l .armed).clamped.armedState now }

/-- The 418 writes the record back after an arming, unless it is ARMED as the host wrote it (R84). -/
def armingWrites (l : Line) (now : PartTime) : Bool :=
  decide ((armedEntry l now).state ≠ .armed) || decide ((windowOfLine l .armed).clamped ≠ windowOfLine l .armed)

/-- Arm a mirror entry from a line, with its record write (R84). -/
def State.armWindow (s : State) (record : Nat) (l : Line) (now : PartTime) : State :=
  if armingWrites l now then (s.setWindow record (armedEntry l now)).requestRecord record
  else s.setWindow record (armedEntry l now)

/-- An entry changes its state as part time reaches its start or end (R86). -/
def State.turnWindow (s : State) (record : Nat) (st : WindowState) : State :=
  ((s.setWindow record { s.window record with state := st }).requestRecord record).askReview

/-- The mirror entry set from a record line re-read in the restart, with `now` the part time of the read (R92). -/
def State.rereadWindow (s : State) (record : Nat) (l : Option Line) (now : PartTime) : State :=
  match l with
  | none => s.setWindow record WindowEntry.emptyEntry
  | some line =>
    if windowStateField line = 0 then s.setWindow record WindowEntry.emptyEntry
    else if windowStateField line = 1 ∨ windowStateField line = 2 then s.armWindow record line now
    else if windowStateField line = 3 then s.setWindow record (windowOfLine line .past)
    else (s.setWindow record WindowEntry.emptyEntry).requestRecord record

end Sys2Proof.Machine
end

