-- ==== Sys2Proof/Machine/Arbiter.lean ====
section
/-! DEFINITION. The arbiter: who claims a rank port, at which precedence, and which grant may be given. -/

namespace Sys2Proof.Machine

/-! ## Stages of a background operation -/

/-- The decode of an operation that has not ended. -/
def decodingOf (o : Option OpenLine) : Option Decode :=
  match o with
  | some op =>
    match op.stage with
    | .decoding d => some d
    | .writing _ => none
  | none => none

/-- An operation waits for its write grant on this port. -/
def writeWaits (o : Option OpenLine) (port : Nat) : Bool :=
  match o with
  | some op =>
    match op.stage with
    | .decoding _ => false
    | .writing _ => decide (op.rank = port)
  | none => false

/-- The record of an operation that waits for its write grant, with the content it is to write (R98, R137, R154). -/
def writingOf (o : Option OpenLine) : Option (OpenLine × Content) :=
  match o with
  | some op =>
    match op.stage with
    | .decoding _ => none
    | .writing c => some (op, op.override.getD c)
  | none => none

/-! ## The engines' read requests -/

/-- Patrol requests a read grant (R95). -/
def State.patrolRequests (s : State) : Bool :=
  s.ready && decide (s.policy.patrolEnable = 1) && !s.held .patrol && decide (1 ≤ s.patrol.owed) &&
    s.patrolOp.isNone && decide (1 ≤ s.linesRemaining)

/-- Non-urgent targeted orders may run (R117). -/
def State.nonUrgentMayRun (s : State) : Bool :=
  !s.heldByWindow .targeted && decide (s.counts.targeted < s.counts.limit)

/-- The order the Targeted Scrub Engine chooses (R117). -/
def State.targetedChoice (s : State) : Option TargetedOrder :=
  match s.targeted.find? TargetedOrder.urgent with
  | some o => some o
  | none => if s.nonUrgentMayRun then s.targeted.head? else none

/-- The order for which the engine requests a read grant (R117, R125). -/
def State.targetedRequest (s : State) : Option TargetedOrder :=
  if s.ready && s.targetedOp.isNone && !s.quiesced then s.targetedChoice else none

/-- The targeted order of a slot. -/
def State.orderOf (s : State) (slot : Nat) : Option TargetedOrder :=
  s.targeted.find? fun o => decide (o.slot = slot)

/-- The order to which the operation under way belongs (R117). -/
def State.orderUnderWay (s : State) : Option TargetedOrder :=
  (s.targetedOp.bind OpenLine.slot).bind s.orderOf

/-- The remap entry of the migration in progress. -/
def State.migratingEntry (s : State) : Option RemapEntry := s.migration.bind fun m => s.findRemap m.rank m.row

/-- The remap entry whose column at the cursor the Migration Engine requests to read (R133). -/
def State.migrationRequest (s : State) : Option RemapEntry :=
  if s.ready && !s.held .migration && decide (s.counts.migration < s.counts.limit) && s.migrationOp.isNone then
    s.migratingEntry.filter fun e => decide (e.cursor < Config.columns)
  else none

/-- The rank has a rebuild in flight with lines left (R152). -/
def State.rankRebuilding (s : State) (rank : Nat) : Bool :=
  decide (rank < s.ranks) && (s.rankDevices rank).inFlight &&
    decide ((s.rankDevices rank).cursor < Config.physLinesPerRank)

/-- The conditions of R152 but for the choice of rank. -/
def State.rebuildAllowed (s : State) : Bool :=
  s.ready && !s.held .rebuild && decide (s.counts.rebuild < s.counts.limit) && s.rebuildOp.isNone

/-- The first rank with a rebuild in flight that follows a rank cyclically (R152). -/
def State.nextRebuildRank (s : State) (last : Nat) : Option Nat :=
  ((List.range 4).map fun i => (last + 1 + i) % 4).find? s.rankRebuilding

/-- The choice of rank as R152 keeps it: made when the request is made, kept until the grant, dropped when the
request is withdrawn. -/
def State.currentChoice (s : State) : Option Nat :=
  if s.rebuildAllowed then
    match s.rebuildChoice with
    | some r => if s.rankRebuilding r then some r else s.nextRebuildRank s.lastRebuilt
    | none => s.nextRebuildRank s.lastRebuilt
  else none

/-- What holds at the end of every step: the rebuild request stands or is withdrawn as R152 states (log 29). -/
def State.finish (s : State) : State := { s with rebuildChoice := s.currentChoice }

/-! ## Claims (R17) -/

/-- A server access waits for its first grant on a port (R17, R37). -/
def State.serverWaits (s : State) (port : Nat) : Bool :=
  match s.access port with
  | .readWaits _ | .fullWaits _ _ | .mergeWaits _ _ _ | .entryWaits _ _ _ => s.ready
  | .idle | .merging _ _ _ _ _ | .halfWaits _ _ _ _ => false

/-- A masked-write pair holds the port: its next grant is the write half (R17, R47). -/
def State.pairHolds (s : State) (port : Nat) : Bool :=
  match s.access port with
  | .merging _ _ _ _ _ | .halfWaits _ _ _ _ => true
  | .idle | .readWaits _ | .fullWaits _ _ | .mergeWaits _ _ _ | .entryWaits _ _ _ => false

/-- Grants are given to control-window traffic: while the port is READY and in a restart (R20, R21). -/
def State.windowTraffic (s : State) : Bool := s.ready || s.restarting

/-- The writer's oldest write waits for a grant of a port (R174). -/
def State.writerWaits (s : State) (port : Nat) : Bool :=
  s.windowTraffic && decide (port = s.windowRank) && !s.writer.isEmpty

/-- An own read waits for a grant of a port (R161). -/
def State.ownReadWaits (s : State) (port : Nat) : Bool :=
  s.windowTraffic && decide (port = s.windowRank) &&
    match s.ownRead with
    | some o =>
      match o.stage with
      | .requested => true
      | .decoding _ _ | .ended _ => false
    | none => false

/-- The write-back a port takes next: the oldest entry of its rank (R55). -/
def State.writeBackFor (s : State) (port : Nat) : Option WriteBack :=
  if s.ready then s.writeBacks.find? fun e => decide (rankOf e.host = port) else none

/-- Targeted work of a given urgency claims a port, to read or to write (R17, R117, R119). -/
def State.targetedClaims (s : State) (port : Nat) (urgent : Bool) : Bool :=
  (s.targetedRequest.any fun o => decide (o.urgent = urgent) && decide (rankOf o.cursor = port)) ||
    (writeWaits s.targetedOp port && s.orderUnderWay.any fun o => decide (o.urgent = urgent))

/-- Migration claims a port. -/
def State.migrationClaims (s : State) (port : Nat) : Bool :=
  (s.migrationRequest.any fun e => decide (e.rank = port)) || writeWaits s.migrationOp port

/-- Rebuild claims a port. -/
def State.rebuildClaims (s : State) (port : Nat) : Bool :=
  decide (s.currentChoice = some port) || writeWaits s.rebuildOp port

/-- Patrol claims a port. -/
def State.patrolClaims (s : State) (port : Nat) : Bool :=
  (s.patrolRequests && decide (rankOf s.patrol.cursor = port)) || writeWaits s.patrolOp port

/-- Some claimant of this precedence waits for the port (R17). -/
def State.claims (s : State) (port precedence : Nat) : Bool :=
  match precedence with
  | 1 => s.serverWaits port
  | 2 => s.writerWaits port || s.ownReadWaits port
  | 3 => (s.writeBackFor port).isSome
  | 4 => s.targetedClaims port true
  | 5 => s.migrationClaims port
  | 6 => s.rebuildClaims port
  | 7 => s.targetedClaims port false
  | 8 => s.patrolClaims port
  | _ => false

/-- The port is free for a claimant of this precedence: the port is fitted, no pair holds it, and no claimant of
higher precedence waits for it (R17). -/
def State.mayGrant (s : State) (port precedence : Nat) : Bool :=
  decide (port < s.ranks) && !s.pairHolds port && !(List.range precedence).any (s.claims port)

/-- The precedence of an order's work (R17, R117). -/
def TargetedOrder.precedence (o : TargetedOrder) : Nat := if o.urgent then 4 else 7

/-! ## The end of a background operation (R16, R169) -/

/-- A waiting QUIESCE completes when all four records are NONE (R169). -/
def State.checkQuiesce (s : State) : State :=
  match s.quiesceSlot with
  | none => s
  | some slot =>
    if s.noOpenLine then State.finishTaken { s with quiesceSlot := none } slot .ok .none [] else s

/-- The record an engine's read grant fills (R14). -/
def openRecord (d : Decode) (slot : Option Nat) : OpenLine :=
  { isOpen := true, rank := d.rank, row := d.row, column := d.column, host := d.host, stage := .decoding d,
    override := none, slot := slot }

/-- The record of an engine that requests its write grant with this content (R16). -/
def OpenLine.toWrite (op : OpenLine) (c : Content) : OpenLine := { op with stage := .writing c }

/-- The classes on which patrol and a scrub request a write grant (R96, R119). -/
def LineClass.isWrittenBack : LineClass → Bool
  | .corrected | .deepCorrected | .uncorrectable => true
  | .clean | .erased | .poisoned => false

/-- The write that ends a patrol or scrub visit, if its record is still OPEN: to the open physical line, and a
rebuild whose record is open there carries its content (R96, R119, R154). -/
def State.visitWrite (s : State) (op : OpenLine) (c : Content) : State :=
  if op.isOpen then
    let s1 := s.writeLine op.rank op.row op.column c
    { s1 with rebuildOp := leaveOn op.rank op.row op.column c s1.rebuildOp }
  else s

end Sys2Proof.Machine
end

