-- ==== Sys2Proof/Machine/Status.lean ====
section
/-! DEFINITION. The lines the part forms for the host: identity, status, and the snapshot of the tables. -/

namespace Sys2Proof.Machine

/-! ## Reported states (R100, R142, R158) -/

/-- The code of a reset cause (section 10.6). -/
def ResetCause.code : ResetCause → Nat
  | .powerOn => 1
  | .warm => 2

/-- Patrol's state as reported: 0 OFF, 1 RUNNING, 2 HELD, 3 LATE (R100, section 10.6). -/
def State.patrolState (s : State) : Nat :=
  if s.policy.patrolEnable = 0 then 0 else if s.held .patrol then 2 else if s.patrol.late then 3 else 1

/-- The migration state: 0 IDLE, 1 COPYING, 2 HELD (R142). -/
def State.migrationState (s : State) : Nat :=
  if s.migration.isNone then 0 else if s.held .migration then 2 else 1

/-- The rebuild state of a rank: 0 NONE, 1 REBUILDING, 2 HELD, 3 ERASE_ONLY (R158). -/
def State.rebuildState (s : State) (rank : Nat) : Nat :=
  if (s.rankDevices rank).markedDevice.isNone then 0
  else if (s.rankDevices rank).inFlight then (if s.held .rebuild then 2 else 1)
  else 3

/-! ## The identity and status lines (R180, R181) -/

/-- The identity line formed now (R181, section 10.6). -/
def State.identityLine (s : State) : Line :=
  lineOfFields [⟨0, 2, 418⟩, byteField 2 Config.revision.toNat, byteField 3 s.resetCause.code, byteField 4 s.ranks,
    ⟨8, 4, s.base⟩, ⟨12, 2, 256⟩, ⟨14, 2, 1024⟩, ⟨16, 2, 1024⟩, byteField 18 128, byteField 19 32, timeField 24 s.time]

/-- Part 1 of the status line formed now (section 10.6). R158 supplies the rebuild state and cursor of populated ranks
only; those of an unpopulated one are written as they stand since power-on reset, 0 and 0 (DESIGN CHOICE, log 43). -/
def State.statusPart1 (s : State) : Line :=
  lineOfFields ([timeField 0 s.time, byteField 6 s.resetCause.code, byteField 7 s.journal.causes.toByte,
    ⟨8, 4, s.journal.published.toNat⟩, byteField 12 s.takeCursor, byteField 13 s.patrolState,
    byteField 14 (boolValue s.patrol.late + 2 * boolValue s.patrol.atRisk + 4 * boolValue s.quiesced),
    byteField 15 s.targeted.length, ⟨16, 4, s.patrol.passNumber⟩, ⟨20, 4, s.patrol.cursor⟩, ⟨24, 4, s.linesRemaining⟩,
    ⟨28, 2, s.patrol.rate⟩, byteField 30 s.migrationState, byteField 31 s.migrationQueue.length,
    byteField 32 ((s.migration.map Migration.rank).getD 255),
    byteField 33 ((s.migratingEntry.map RemapEntry.cursor).getD 255),
    ⟨36, 4, hostOrAbsent (s.migration.map Migration.row)⟩] ++
    (List.range 4).map (fun r => byteField (40 + r) (s.rebuildState r)) ++
    (List.range 4).map (fun r => ⟨44 + 4 * r, 4, (s.rankDevices r).cursor⟩))

/-- Part 2 of the status line formed now (section 10.6). -/
def State.statusPart2 (s : State) : Line :=
  lineOfFields [timeField 0 s.time, ⟨8, 4, hostOrAbsent (s.lastUncorrectable.map Prod.fst)⟩,
    timeField 12 ((s.lastUncorrectable.map Prod.snd).getD Config.lastUncorrectableTimeOfNone),
    ⟨20, 4, s.counters.corrected⟩, ⟨24, 4, s.counters.deepCorrected⟩, ⟨28, 4, s.counters.uncorrectable⟩,
    ⟨32, 4, s.counters.erasedReads⟩, ⟨36, 4, s.counters.writeBacksSkipped⟩, ⟨40, 4, s.counters.untrackedEvents⟩,
    ⟨44, 4, s.counters.journalHeld⟩]

/-- Both status lines enter together, formed now, and the timer is set for one status interval (R180). -/
def State.enterStatus (s : State) : State :=
  let s1 := (s.enterWriter (.line 1 s.statusPart1)).enterWriter (.line 3 s.statusPart2)
  { s1 with journal := { s1.journal with statusTimer := some (timeAfter s.time s.policy.statusInterval) } }

/-- The waiting status write enters, when it is the oldest waiting and two places are free (R174, R180). -/
def State.admitStatus (s : State) : State :=
  if s.mayEnter .status then (s.stopAwaiting .status).enterStatus else s

/-- The identity line enters the writer (R181). -/
def State.enterIdentity (s : State) : State := s.enterWriter (.line 0 s.identityLine)

/-! ## The snapshot of an export (R79, R142, R158, R171, section 10.6) -/

/-- The code of a device state. -/
def DeviceState.code : DeviceState → Nat
  | .active => 0
  | .spare => 1
  | .marked => 2
  | .replaced => 3

/-- The code of a spare row's state. -/
def SpareState.code : SpareState → Nat
  | .free => 0
  | .inUse => 1
  | .discarded => 2

/-- The code of a retire state. -/
def RetireState.code : RetireState → Nat
  | .none => 0
  | .advised => 1
  | .pending => 2

/-- The code of a remap state. -/
def RemapState.code : RemapState → Nat
  | .migrating => 0
  | .active => 1

/-- Move fields up within a line. -/
def fieldsAt (base : Nat) (fs : List FieldValue) : List FieldValue := fs.map fun f => { f with off := base + f.off }

/-- The records of one line, each `size` bytes long. -/
def recordLine (size : Nat) (records : List (List FieldValue)) : Line :=
  lineOfFields (records.zipIdx.flatMap fun r => fieldsAt (size * r.2) r.1)

/-- Lines of `perLine` records each, from an export offset up, `lines` of them; places after the last record are
zero. -/
def recordLines (first lines perLine size : Nat) (records : List (List FieldValue)) : List (Nat × Line) :=
  (List.range lines).map fun i => (first + i, recordLine size ((records.drop (perLine * i)).take perLine))

/-- The lines needed for so many records. -/
def linesFor (records perLine : Nat) : Nat := (records + perLine - 1) / perLine

/-- Line 1 + 2r: device states, position map, rebuild record. -/
def RankDevices.mapLine (r : RankDevices) : Line :=
  lineOfFields ((List.range 20).map (fun d => byteField d (r.stateOf d).code) ++
    (List.range 19).map (fun p => byteField (20 + p) (r.carrier p)) ++
    [byteField 39 (boolValue r.inFlight), ⟨40, 4, r.cursor⟩, timeField 44 r.startTime])

/-- Line 2 + 2r: tallies, suspect set, rebuild counts. -/
def State.tallyLine (s : State) (rank : Nat) : Line :=
  lineOfFields ((List.range 20).map (fun d => ⟨2 * d, 2, s.tally rank d⟩) ++
    [⟨40, 3, (nth s.suspects rank 0).toNat⟩, ⟨44, 4, (s.rankDevices rank).corrected⟩,
     ⟨48, 4, (s.rankDevices rank).uncorrectable⟩, ⟨52, 4, (s.rankDevices rank).poisoned⟩,
     ⟨56, 4, (s.rankDevices rank).writesDropped⟩])

/-- Line 9 + r: the spare rows of a rank, two bits a row. -/
def State.spareLine (s : State) (rank : Nat) : Line :=
  lineOfFields ((List.range 32).map fun b =>
    byteField b ((s.spareState rank (4 * b)).code + 4 * (s.spareState rank (4 * b + 1)).code +
      16 * (s.spareState rank (4 * b + 2)).code + 64 * (s.spareState rank (4 * b + 3)).code))

/-- The slot byte of a retirement record (a retirement without a slot: log 18). -/
def exportSlot (slot : Option Nat) : Nat := slot.getD Config.exportSlotOfNone.toNat

/-- The record of the migration in progress. -/
def State.migratingRecord (s : State) (m : Migration) : List FieldValue :=
  [byteField 0 m.rank, byteField 1 m.origin.code, byteField 2 (exportSlot m.slot), byteField 3 1,
   byteField 4 ((s.migratingEntry.map RemapEntry.cursor).getD 0), ⟨8, 4, m.row⟩]

/-- The record of a retirement that waits (its cursor byte: log 18). -/
def Retirement.waitingRecord (q : Retirement) : List FieldValue :=
  [byteField 0 q.rank, byteField 1 q.origin.code, byteField 2 (exportSlot q.slot), byteField 3 0,
   byteField 4 Config.exportCursorOfWaiting.toNat, ⟨8, 4, q.row⟩]

/-- The retirements, the migration in progress first (R142). -/
def State.retirementRecords (s : State) : List (List FieldValue) :=
  (s.migration.map s.migratingRecord).toList ++ s.migrationQueue.map Retirement.waitingRecord

/-- The record of a remap entry. -/
def RemapEntry.fields (e : RemapEntry) : List FieldValue :=
  [byteField 0 e.rank, byteField 1 e.state.code, byteField 2 e.origin.code, byteField 3 e.cursor, byteField 4 e.spare,
   byteField 5 (byteOrAbsent e.earlier), ⟨8, 4, e.row⟩]

/-- The record of a fault entry. -/
def FaultEntry.fields (e : FaultEntry) : List FieldValue :=
  [byteField 0 e.rank, byteField 1 e.retire.code, ⟨2, 2, e.score⟩, ⟨4, 4, e.row⟩, ⟨8, 2, e.events⟩,
   ⟨12, 4, e.devices.toNat⟩, timeField 16 e.firstSeen, timeField 24 e.lastSeen]

/-- Remap entries by rank, then host row (R142). -/
def sortedRemaps (l : List RemapEntry) : List RemapEntry :=
  List.insertionSort (fun a b => a.rank < b.rank ∨ (a.rank = b.rank ∧ a.row ≤ b.row)) l

/-- Fault entries by rank, then row (R79). -/
def sortedEntries (l : List FaultEntry) : List FaultEntry :=
  List.insertionSort (fun a b => a.rank < b.rank ∨ (a.rank = b.rank ∧ a.row ≤ b.row)) l

/-- The header of an export with this number (R171). -/
def State.exportHeader (s : State) (number : Nat) : Line :=
  lineOfFields [⟨0, 4, number⟩, timeField 4 s.time, ⟨10, 2, s.table.length⟩, ⟨12, 2, s.remaps.length⟩,
    byteField 14 s.retirementRecords.length, byteField 15 s.ranks, ⟨16, 4, s.counters.untrackedEvents⟩]

/-- The lines of an export in ascending offset, as the tables stand now (R171). -/
def State.exportLines (s : State) (number : Nat) : List (Nat × Line) :=
  [(0, s.exportHeader number)] ++
    (List.range s.ranks).flatMap (fun r =>
      [(1 + 2 * r, (s.rankDevices r).mapLine), (2 + 2 * r, s.tallyLine r)]) ++
    (List.range s.ranks).map (fun r => (9 + r, s.spareLine r)) ++
    recordLines 13 3 4 16 s.retirementRecords ++
    recordLines 16 (linesFor s.remaps.length 4) 4 16 ((sortedRemaps s.remaps).map RemapEntry.fields) ++
    recordLines 256 (linesFor s.table.length 2) 2 32 ((sortedEntries s.table).map FaultEntry.fields)

/-- The results of an EXPORT TABLES order (section 10.6). -/
def ExportJob.results (j : ExportJob) (number : Nat) : List FieldValue :=
  [⟨32, 4, number⟩, ⟨36, 2, j.faultEntries⟩, ⟨38, 2, j.remapEntries⟩]

/-- The next export line enters the writer, when the Order Unit's turn has come; after the last, the slot is written
DONE and the snapshot is gone (R171; log 32). -/
def State.admitExportLine (s : State) : State :=
  if s.mayEnter .exportLine then
    match s.exportJob with
    | none => s.stopAwaiting .exportLine
    | some j =>
      match j.lines with
      | [] => State.finishTaken { s.stopAwaiting .exportLine with exportJob := none } j.slot .ok .none
          (j.results s.exportNumber)
      | (offset, line) :: rest =>
        let s1 := (s.stopAwaiting .exportLine).enterWriter (.line (4096 + offset) line)
        if rest.isEmpty then
          State.finishTaken { s1 with exportJob := none } j.slot .ok .none (j.results s.exportNumber)
        else State.await { s1 with exportJob := some { j with lines := rest } } .exportLine
  else s

end Sys2Proof.Machine
end

