-- ==== Sys2Proof/Machine/Takes.lean ====
section
/-! DEFINITION. The Order Unit's shared operations: the posted set, the take cursor, room, takes, restart reads. -/

namespace Sys2Proof.Machine

/-! ## The posted set and the take cursor (R164) -/

/-- The slot whose take has begun and not ended (R165). -/
def State.takeSlot (s : State) : Option Nat :=
  match s.ownRead with
  | some o =>
    match o.reader with
    | .take slot => some slot
    | .scan _ | .window _ | .mark => none
  | none => none

/-- A slot is in the posted set: its mirror is POSTED, or its take has begun and not ended (R162, R165). -/
def State.inPosted (s : State) (slot : Nat) : Bool :=
  decide ((s.slot slot).state = .posted) || decide (s.takeSlot = some slot)

/-- The first slot of the posted set at or after a slot, in ascending order, wrapping from 255 to 0 (R164). -/
def State.nextPosted (s : State) (from_ : Nat) : Option Nat :=
  ((List.range 256).map fun i => (from_ + i) % 256).find? s.inPosted

/-- The cursor moves to the next slot of the set when its own slot is not in it; on an empty set it stays (R164). -/
def State.settleCursor (s : State) : State := { s with takeCursor := (s.nextPosted s.takeCursor).getD s.takeCursor }

/-! ## Room (R166) -/

/-- The slots held TAKEN, but not the one held for its own take read (R166). -/
def State.takenWhere (s : State) (p : SlotMirror → Bool) : Nat :=
  countBelow 256 fun i =>
    decide ((s.slot i).state = .taken) && decide (s.takeSlot ≠ some i) && p (s.slot i)

/-- The slots held TAKEN at most (R164, R166). -/
def takenCapacity : Nat := 14

/-- The orders the targeted queue holds at most (R115). -/
def targetedCapacity : Nat := 4

/-- The conditions of R166 hold for an order of this kind and mode. -/
def State.roomAllows (s : State) (kind mode : Nat) : Bool :=
  decide (s.takenWhere (fun _ => true) < takenCapacity) &&
    (if kind = 1 ∨ kind = 2 then decide (s.targeted.length < targetedCapacity)
     else if kind = 3 ∧ mode = 0 then
       decide (s.migrationQueue.length < migrationCapacity) &&
         decide (s.takenWhere (fun m => decide (m.kind = 3)) < migrationCapacity)
     else if kind = 6 ∨ kind = 8 then decide (s.takenWhere (fun m => decide (m.kind = kind)) = 0)
     else true)

/-! ## The take (R165) -/

/-- A take may begin at the cursor: its slot is POSTED and has room, and no own read is under way (R164, R166;
log 28). -/
def State.takeMayStart (s : State) : Bool :=
  s.ready && s.ownRead.isNone && decide ((s.slot s.takeCursor).state = .posted) &&
    s.roomAllows (s.slot s.takeCursor).kind (s.slot s.takeCursor).mode

/-- The slot and the line of a take whose read has ended; no line when it could not be used (R161, R165). -/
def State.takeRead (s : State) : Option (Nat × Option Line) :=
  match s.ownRead with
  | some o =>
    match o.reader, o.stage with
    | .take slot, .ended line => some (slot, line)
    | _, _ => none
  | none => none

/-- The slot and line of a take that reads state POSTED and a known kind with room: steps 1 to 4 of R165 are past. -/
def State.dispatched (s : State) (p : Line → Bool) : Option (Nat × Line) :=
  match s.takeRead with
  | some (slot, some l) =>
    if slotStateField l = 1 ∧ isOrderKind (slotKind l) = true ∧ s.roomAllows (slotKind l) (slotMode l) = true ∧
        p l = true then some (slot, l)
    else none
  | _ => none

/-- The take ends: the cursor moves to the next slot after the one taken (R164). -/
def State.closeTake (s : State) (slot : Nat) : State :=
  State.settleCursor { s with ownRead := none, takeCursor := (slot + 1) % 256 }

/-- The take ends with the slot in hand: mirror TAKEN, with the kind and mode read and the line as taken; the slot is
no longer in the posted set (R165). -/
def State.endTake (s : State) (slot : Nat) (l : Line) : State :=
  (s.setSlot slot { state := .taken, kind := slotKind l, mode := slotMode l, taken := takenLine l s.time }).closeTake
    slot

/-- A take that leaves its slot FREE in the mirror, with no slot write (R165, steps 1 and 2). -/
def State.freeTake (s : State) (slot : Nat) : State :=
  (s.setSlot slot { s.slot slot with state := .free }).closeTake slot

/-- The slot stays TAKEN and is written TAKEN (R165). -/
def State.writeTaken (s : State) (slot : Nat) (l : Line) : State :=
  s.requestItem (.line (slotOffset slot) (takenLine l s.time))

/-- The slot is refused at its take (R165, R167). -/
def State.refuse (s : State) (slot : Nat) (l : Line) (r : OrderReason) : State := s.finishSlot slot l .refused r []

/-! ## Own reads (R161) -/

/-- The window offset a reader reads. -/
def Reader.offset : Reader → Nat
  | .take slot => slotOffset slot
  | .scan slot => slotOffset slot
  | .window record => 16 + record
  | .mark => 2

/-- Request an own read (R161). -/
def State.requestRead (s : State) (r : Reader) : State :=
  { s with ownRead := some { reader := r, stage := .requested, readTime := s.time } }

/-! ## The warm-reset restart (R173) -/

/-- Begin a step of the restart: its own read is requested, or the identity line begins to wait (R173). -/
def State.beginRestartStep (s : State) (step : RestartStep) : State :=
  match step with
  | .slotScan slot => State.requestRead { s with phase := .restarting step } (.scan slot)
  | .windowReread record => State.requestRead { s with phase := .restarting step } (.window record)
  | .markRead => State.requestRead { s with phase := .restarting step } .mark
  | .identity => State.await { s with phase := .restarting step, ownRead := none } .identity

/-- The step after a restart step, in order (R173). -/
def RestartStep.next : RestartStep → RestartStep
  | .slotScan slot => if slot + 1 < 256 then .slotScan (slot + 1) else .windowReread 0
  | .windowReread record => if record + 1 < 32 then .windowReread (record + 1) else .markRead
  | .markRead | .identity => .identity

/-- The line an ended own read of the restart gave, for the step in hand; none while the read has not ended. -/
def State.restartRead (s : State) : Option (RestartStep × Option Line × PartTime) :=
  match s.phase, s.ownRead with
  | .restarting step, some o =>
    match o.stage with
    | .ended line => some (step, line, o.readTime)
    | .requested | .decoding _ _ => none
  | _, _ => none

/-- The restart ends: the identity line enters, the port is READY, the write-back queue starts empty, the cursor looks for
the posted set, E that passed meanwhile is dealt with, the restart review is made, and a status write is asked for (R59,
R111, R164, R173, R180, R181; what the restart's own reads queued is lost with it: log 26). -/
def State.admitIdentity (s : State) : State :=
  if s.mayEnter .identity then
    let s1 := State.settleCursor
      { (s.stopAwaiting .identity).enterIdentity with phase := .running, retained := [], writeBacks := [] }
    ((if s1.passIsLate then s1.markLate else s1).review).askStatus
  else s

/-! ## Admission of waiting blocks (R174) -/

/-- The oldest waiting block is admitted, if its places are free (R174). -/
def State.admitOldest (s : State) : State :=
  match s.waiters with
  | [] => s
  | .item w :: rest =>
    if s.mayEnter (.item w) then State.enterWriter { s with waiters := rest } w else s
  | .slotDone slot content :: rest =>
    if s.mayEnter (.slotDone slot content) then State.enterDone { s with waiters := rest } slot content else s
  | .journal :: _ => s.stagingDeparts
  | .exportLine :: _ => s.admitExportLine
  | .status :: _ => s.admitStatus
  | .identity :: _ => s.admitIdentity

/-! ## Hand-offs (R57) -/

/-- A slot line that is handed over changes the slot's mirror; a hand-off that takes the slot out of the posted set
withdraws its take's request, and the cursor moves on (R162, R164, R165). -/
def State.slotHandOff (s : State) (slot : Nat) (l : Line) : State :=
  if slotStateField l = 1 then
    State.settleCursor
      (s.setSlot slot { s.slot slot with state := .posted, kind := slotKind l, mode := slotMode l })
  else
    let s1 := s.setSlot slot { s.slot slot with state := .free }
    State.settleCursor (if s.takeSlot = some slot then { s1 with ownRead := none } else s1)

/-- A record line that is handed over (R83). A CANCEL or EMPTY of an entry that is EMPTY already asks for its review too
(R89; DESIGN CHOICE, log 34). -/
def State.windowHandOff (s : State) (record : Nat) (l : Line) : State :=
  if windowStateField l = 1 then (s.armWindow record l s.time).askReview
  else if windowStateField l = 4 then
    ((s.setWindow record WindowEntry.emptyEntry).requestRecord record).askReview
  else if windowStateField l = 0 then (s.setWindow record WindowEntry.emptyEntry).askReview
  else s.requestRecord record

/-- Both fields of a handed-over host mark line that are not yet dealt with take effect (R177). -/
def State.markHandOff (s : State) (h : HandOff) : State :=
  let s1 := if h.markDone then s else s.moveMark (markField h.line)
  if h.ackDone then s1 else s1.acknowledge (ackField h.line)

/-- A hand-off is acted on whole, by its offset (R57, R160). -/
def State.actOn (s : State) (h : HandOff) : State :=
  match slotOfOffset h.offset with
  | some slot => s.slotHandOff slot h.line
  | none =>
    match recordOfOffset h.offset with
    | some record => s.windowHandOff record h.line
    | none => if h.offset = 2 then s.markHandOff h else s

/-- A hand-off not yet acted on takes effect before anything else happens (R57, log 3). -/
def State.settle (s : State) : State :=
  match s.handOff with
  | none => s
  | some h => State.actOn { s with handOff := none } h

/-- The frame of every step that is not itself the acting on a hand-off. -/
def act (f : State → State) (s : State) : Host.Outcome State Fault Refusal := .next (f s.settle).finish

/-- A step that acts on the pending hand-off, where it is one of its kind. -/
def onHandOff (p : HandOff → Bool) (f : State → HandOff → State) (s : State) : Host.Outcome State Fault Refusal :=
  match s.handOff with
  | some h => if p h then .next (f s h).finish else .next s
  | none => .next s

end Sys2Proof.Machine
end

