-- ==== Sys2Proof/Machine/Resets.lean ====
section
/-! DEFINITION. Resets and start-up: power-on reset, array initialisation, warm reset and its restart. -/

namespace Sys2Proof.Machine

/-! ## Power-on reset and array initialisation (R20) -/

/-- POWER_ON_RESET (R20): every block takes its power-on state, with the straps as sampled (strap coding: log 7). -/
def execPowerOnReset (rankStraps : BitVec 2) (baseStraps : BitVec 13) (s : State) : Host.Outcome State Fault Refusal :=
  .next { State.powerOn (rankStraps.toNat + 1) (baseStraps.toNat * Config.windowLines) with pending := s.pending }

/-- The initialisation lines a rank port has written. -/
def State.initWritten (s : State) (rank : Nat) : Nat := nth s.initCursor rank 0

/-- One initialisation write: zero data with valid code, positions 0 to 18 on devices 0 to 18, a zero slice on device
19 (R20). -/
def State.initLine (s : State) (rank : Nat) : State :=
  let i := s.initWritten rank
  let s1 := (s.writeLine rank (i / Config.columns) (i % Config.columns) (validContent 0)).storeSlice rank i 19 0
  { s1 with initCursor := put s1.initCursor rank (i + 1) }

/-- ARRAY_INIT_LINE_WRITE (R20), on one rank port. -/
def execArrayInitLineWrite (rank : Nat) (s : State) : Host.Outcome State Fault Refusal :=
  act (fun s =>
    if s.phase = .initialising ∧ rank < s.ranks ∧ s.initWritten rank < Config.physLinesPerRank then s.initLine rank
    else s) s

/-- Every populated rank is written whole. -/
def State.initComplete (s : State) : Bool :=
  (List.range s.ranks).all fun r => decide (s.initWritten r = Config.physLinesPerRank)

/-- The end of array initialisation: the identity line, then the status line, enter the writer, which has carried
nothing till then (R174); the port is READY and pass 1 starts (R20, R112, R180, R181; log 8). -/
def State.openPort (s : State) : State :=
  let s1 : State := { s with writer := [], phase := .running, nextInterval := some (nextPaceBoundary s.time) }
  s1.enterIdentity.enterStatus.startPass 1

/-- ARRAY_INIT_DONE (R20): with the window base at or above L_total the port stays NOT_READY for good. -/
def execArrayInitDone (s : State) : Host.Outcome State Fault Refusal :=
  act (fun s =>
    if s.phase = .initialising ∧ s.initComplete = true then
      (if s.lTotal ≤ s.base then { s with phase := .halted } else s.openPort)
    else s) s

/-! ## Warm reset (R21, R59, R81, R91, R111, R126, R143, R159, R173, R174, R182) -/

/-- A server access at warm reset: a pair whose merge read was granted completes without a reply; an access not yet
granted is dropped (R21, R59). -/
def PortAccess.afterWarmReset : PortAccess → PortAccess
  | .merging host data mask d _ => .merging host data mask d true
  | .halfWaits host c _ loss => .halfWaits host c true loss
  | .idle | .readWaits _ | .fullWaits _ _ | .mergeWaits _ _ _ | .entryWaits _ _ _ => .idle

/-- The slots of the retirements of origin ORDER, handed over to the slot scan (R143). -/
def State.orderSlots (s : State) : List Nat :=
  s.migrationQueue.filterMap Retirement.slot ++ (s.migration.bind Migration.slot).toList

/-- The Journal and Notice Unit at warm reset (R182); the status timer stops, and the emptying of the pending set asks for no
status write in the restart (DEDUCED, log 16 and log 41). -/
def Journal.afterWarmReset (j : Journal) : Journal :=
  { j with staging := [], coalesce := 0, holdoff := none, causes := CauseSet.none, statusTimer := none }

/-- What a warm reset leaves of the part, before the restart's first step. -/
def State.warmed (s : State) : State :=
  { s with
    resetCause := .warm,
    patrolOp := none, targetedOp := none, migrationOp := none, rebuildOp := none,
    counts := { s.counts with migration := 0, rebuild := 0, targeted := 0 },
    ports := s.ports.map PortAccess.afterWarmReset, arrivals := Vector.replicate 4 [], reads := [], writeBacks := [],
    windows := Vector.replicate 32 WindowEntry.emptyEntry,
    patrol := { s.patrol with credit := 0, owed := 0 },
    targeted := [],
    migrationQueue := s.migrationQueue.map fun q => { q with slot := none },
    migration := s.migration.map fun m => { m with slot := none },
    retained := s.retained ++ s.orderSlots,
    lastRebuilt := 3, rebuildChoice := none,
    slots := s.slots.map fun m => { m with state := .free },
    ownRead := none, quiesced := false, quiesceSlot := none, exportJob := none,
    writer := [], waiters := [],
    counters := { s.counters with
      journalHeld := min Config.counterMax (s.counters.journalHeld + s.journal.staging.length) },
    journal := s.journal.afterWarmReset }

/-- WARM_RESET: during initialisation it restarts initialisation with the state of a power-on reset, part time
continuing; after one that found the base outside the array it does nothing (R20); else the restart begins (R173). -/
def execWarmReset (s : State) : Host.Outcome State Fault Refusal :=
  act (fun s =>
    match s.phase with
    | .initialising => { State.powerOn s.ranks s.base with time := s.time, pending := s.pending }
    | .halted => s
    | .running | .restarting _ => s.warmed.beginRestartStep (.slotScan 0)) s

/-! ## The restart's steps (R92, R173, R182) -/

/-- A slot's mirror set from its line in the slot scan, with the write of R173. -/
def State.scanSlot (s : State) (slot : Nat) (line : Option Line) : State :=
  match line with
  | none => s.setSlot slot { s.slot slot with state := .free }
  | some l =>
    if slotStateField l = 1 then
      s.setSlot slot { s.slot slot with state := .posted, kind := slotKind l, mode := slotMode l }
    else if slotStateField l = 2 then
      (s.setSlot slot { s.slot slot with state := .done, kind := slotKind l, mode := slotMode l }).finishSlot slot l
        .abandoned (if s.retained.contains slot then .retained else .none) []
    else if slotStateField l = 3 then
      s.setSlot slot { s.slot slot with state := .done, kind := slotKind l, mode := slotMode l }
    else s.setSlot slot { s.slot slot with state := .free }

/-- RESTART_SLOT_SCAN_READ (R173, step 1). -/
def execRestartSlotScanRead (s : State) : Host.Outcome State Fault Refusal :=
  act (fun s =>
    match s.restartRead with
    | some (.slotScan slot, line, _) => (s.scanSlot slot line).beginRestartStep (RestartStep.slotScan slot).next
    | _ => s) s

/-- RESTART_WINDOW_REREAD (R92; R173, step 2). -/
def execRestartWindowReread (s : State) : Host.Outcome State Fault Refusal :=
  act (fun s =>
    match s.restartRead with
    | some (.windowReread record, line, t) =>
      (s.rereadWindow record line t).beginRestartStep (RestartStep.windowReread record).next
    | _ => s) s

/-- M and the ROOM flag set from the mark read; an unusable read leaves M (R182). -/
def State.rereadMark (s : State) (line : Option Line) : State :=
  let s1 :=
    match line with
    | none => s
    | some l => { s with journal := { s.journal with mark := restartMark s.journal.published (markField l) } }
  State.syncJournal { s1 with journal := { s1.journal with roomArmed := decide (32 < s1.journalFree) } }

/-- RESTART_MARK_READ (R182; R173, step 3). -/
def execRestartMarkRead (s : State) : Host.Outcome State Fault Refusal :=
  act (fun s =>
    match s.restartRead with
    | some (.markRead, line, _) => (s.rereadMark line).beginRestartStep .identity
    | _ => s) s

/-- RESTART_END (R173, step 4): the identity line's entry ends the restart. -/
def execRestartEnd (s : State) : Host.Outcome State Fault Refusal := act State.admitIdentity s

end Sys2Proof.Machine
end

