-- ==== Sys2Proof/Machine/Demand.lean ====
section
/-! DEFINITION. The Demand Path: server accesses, their grants and decode ends, and the write-back queue. -/

namespace Sys2Proof.Machine

/-! ## Replies (R38) -/

/-- The answer of a read served from the queue: reads are answered in order within a rank port (R38), so it stands
behind the newest read in flight of the port, if there is one. -/
def answerBehind (port : Nat) (r : Reply) : List ServerRead → Option (List ServerRead)
  | [] => none
  | x :: rest =>
    match answerBehind port r rest with
    | some rest' => some (x :: rest')
    | none => if x.port = port then some ({ x with behind := x.behind ++ [r] } :: rest) else none

/-- Answer a read that makes no array access, in its turn on the port (R38, R39). -/
def State.answerInTurn (s : State) (port : Nat) (r : Reply) : State :=
  match answerBehind port r s.reads with
  | some reads => { s with reads := reads }
  | none => s.reply r

/-- The answer to a read: data, or the poison indication (R40). -/
def readAnswer (host : Nat) (data : Option Line) : Reply :=
  match data with
  | some l => .data host l
  | none => .poisoned host

/-! ## The write-back queue (R52 to R54) -/

/-- The entries the queue holds at most, and those that corrective requests may fill (R52). -/
def writeBackCapacity : Nat := 16

/-- The entries that corrective requests may fill (R52). -/
def correctiveRoom : Nat := 12

/-- The queue's entry for a host line. -/
def State.findWriteBack (s : State) (host : Nat) : Option WriteBack :=
  s.writeBacks.find? fun e => decide (e.host = host)

/-- A corrective request (R52, R54). -/
def State.requestCorrective (s : State) (host : Nat) (data : Line) : State :=
  match s.findWriteBack host with
  | some _ => s
  | none =>
    if s.policy.writeBackEnable = 1 ∧ s.writeBacks.length < correctiveRoom then
      { s with writeBacks := s.writeBacks ++ [{ host := host, data := some data }] }
    else s.countSkipped

/-- A poison request (R53, R54). -/
def State.requestPoison (s : State) (host : Nat) : State :=
  match s.findWriteBack host with
  | some _ =>
    { s with writeBacks := s.writeBacks.map fun e => if e.host = host then { e with data := none } else e }
  | none =>
    if s.writeBacks.length < writeBackCapacity then
      { s with writeBacks := s.writeBacks ++ [{ host := host, data := none }] }
    else s.countSkipped

/-- The write-back request of a decode that ended, by its class (R41). -/
def State.requestWriteBack (s : State) (host : Nat) (r : DecodeResult) : State :=
  match r.cls, r.data with
  | .corrected, some l => s.requestCorrective host l
  | .deepCorrected, some l => s.requestCorrective host l
  | .uncorrectable, _ => s.requestPoison host
  | _, _ => s

/-- A read that is not stale makes its request (R41, R43). -/
def State.requestUnlessStale (s : State) (stale : Bool) (host : Nat) (r : DecodeResult) : State :=
  if stale then s else s.requestWriteBack host r

/-! ## Guards and hand-offs (R57, R58, R163) -/

/-- The slot of a host line that is held TAKEN, if the line is such a slot (R58). -/
def State.guardedSlot (s : State) (host : Nat) : Option Nat :=
  if s.inWindow host then
    (slotOfOffset (s.windowOffset host)).filter fun i => decide ((s.slot i).state = .taken)
  else none

/-- A guarded write: acknowledged, SLOT_GUARD journaled, nothing else (R58, R163). -/
def State.guardWrite (s : State) (host slot stateField : Nat) : State :=
  (s.handPlain (.slotGuard slot stateField) none 0 0 []).reply (.ack host)

/-- The line of a window write is handed to the Order Unit (R57). -/
def State.handOver (s : State) (host : Nat) (line : Line) : State :=
  if s.inWindow host then
    { s with handOff := some { offset := s.windowOffset host, line := line, markDone := false, ackDone := false } }
  else s

/-! ## Presentation (R1, R36, R37, R39, R44, R46, R51, R58) -/

/-- A server access at or above L_total that the port accepts: a read is answered poisoned, a write discarded (R1;
no acknowledgement: log 21). -/
def State.serveAbove (s : State) (kind : AccessKind) (address : Nat) : State :=
  match kind with
  | .read => s.reply (.poisoned address)
  | .fullLineWrite | .maskedWrite => s

/-- ACCESS_ABOVE_L_TOTAL (R1). -/
def execAccessAboveLTotal (kind : AccessKind) (address : Nat) (s : State) : Host.Outcome State Fault Refusal :=
  act (fun s => if s.ready = true ∧ s.lTotal ≤ address then s.serveAbove kind address else s) s

/-- ACCESS_NOT_READY (R36): not accepted, no reply. -/
def execAccessNotReady (_kind : AccessKind) (_address : Nat) (s : State) : Host.Outcome State Fault Refusal :=
  act (fun s => s) s

/-- A server read at its presentation (R39, R40). -/
def State.presentRead (s : State) (host : Nat) : State :=
  match s.findWriteBack host with
  | some e => s.answerInTurn (rankOf host) (readAnswer host e.data)
  | none => s.setAccess (rankOf host) (.readWaits host)

/-- A full-line write at its presentation (R44, R58). -/
def State.presentFull (s : State) (host : Nat) (data : Line) : State :=
  match s.guardedSlot host with
  | some slot => s.guardWrite host slot (slotStateField data)
  | none => s.setAccess (rankOf host) (.fullWaits host data)

/-- The state field a guarded masked write carried, or TAKEN when its mask does not name byte 0 (R163). -/
def maskedStateField (data : Line) (mask : ByteMask) : Nat :=
  if mask.getLsbD 0 then slotStateField data else 2

/-- A masked write to a line that is no slot held TAKEN, at its presentation, by its mask (R46, R51). -/
def State.presentMask (s : State) (host : Nat) (data : Line) (mask : ByteMask) : State :=
  if mask = 0 then s.reply (.ack host)
  else if mask = BitVec.allOnes 64 then s.setAccess (rankOf host) (.fullWaits host data)
  else if (s.findWriteBack host).isSome then s.setAccess (rankOf host) (.entryWaits host data mask)
  else s.setAccess (rankOf host) (.mergeWaits host data mask)

/-- A masked write at its presentation: the guard is asked whatever bytes the mask names (R46, R58). -/
def State.presentMasked (s : State) (host : Nat) (data : Line) (mask : ByteMask) : State :=
  match s.guardedSlot host with
  | some slot => s.guardWrite host slot (maskedStateField data mask)
  | none => s.presentMask host data mask

/-! ## The order of accepted accesses (R36, R37) -/

/-- The host line of an accepted access. -/
def ServerAccess.host : ServerAccess → Nat
  | .read host | .fullLineWrite host _ | .maskedWrite host _ _ => host

/-- An access is presented: it is served without a grant, or asks for its first one (R37). -/
def State.present (s : State) : ServerAccess → State
  | .read host => s.presentRead host
  | .fullLineWrite host data => s.presentFull host data
  | .maskedWrite host data mask => s.presentMasked host data mask

/-- The accesses of a port are presented in order, each when the one before it has its grants or was served without
them; the rest wait (R37). -/
def State.presentInOrder (port : Nat) : List ServerAccess → State → State
  | [], s => s.setArrivals port []
  | a :: rest, s =>
    if s.access port = .idle then State.presentInOrder port rest (s.present a) else s.setArrivals port (a :: rest)

/-- The READY port accepts an access: it goes behind those accepted before it for its rank port (R36, R37). -/
def State.accept (s : State) (a : ServerAccess) : State :=
  State.presentInOrder (rankOf a.host) (s.arrivalsAt (rankOf a.host) ++ [a]) s

/-- The access of a port has received its grants: the next accepted ones are presented (R37). -/
def State.freePort (s : State) (port : Nat) : State :=
  State.presentInOrder port (s.arrivalsAt port) (s.setAccess port .idle)

/-- SERVER_READ_PRESENT (R36, R37, R39; an address at or above L_total by R1). -/
def execServerReadPresent (address : Nat) (s : State) : Host.Outcome State Fault Refusal :=
  act (fun s =>
    if s.ready = false then s
    else if s.lTotal ≤ address then s.serveAbove .read address else s.accept (.read address)) s

/-- FULL_LINE_WRITE_PRESENT (R36, R37, R44). -/
def execFullLineWritePresent (address : Nat) (data : Line) (s : State) : Host.Outcome State Fault Refusal :=
  act (fun s =>
    if s.ready = false then s
    else if s.lTotal ≤ address then s.serveAbove .fullLineWrite address else s.accept (.fullLineWrite address data)) s

/-- MASKED_WRITE_PRESENT (R36, R37, R46). -/
def execMaskedWritePresent (address : Nat) (data : Line) (mask : ByteMask) (s : State) :
    Host.Outcome State Fault Refusal :=
  act (fun s =>
    if s.ready = false then s
    else if s.lTotal ≤ address then s.serveAbove .maskedWrite address
    else s.accept (.maskedWrite address data mask)) s

/-! ## Server reads (R40 to R43) -/

/-- The read grant of a server read (R40, R43). -/
def State.grantServerRead (s : State) (port host : Nat) (errors : List SliceError) : State :=
  let s1 := s.applyErrorsHost host errors
  { s1 with reads := s1.reads ++ [{ port := port, host := host, stale := false,
                                    decode := s1.decodeHost host s1.policy.demandBudget, behind := [] }] }

/-- SERVER_READ_GRANT (R40). -/
def execServerReadGrant (port : Nat) (errors : List SliceError) (s : State) : Host.Outcome State Fault Refusal :=
  act (fun s =>
    match s.access port with
    | .readWaits host =>
      if s.ready = true ∧ s.mayGrant port 1 = true then (s.grantServerRead port host errors).freePort port else s
    | _ => s) s

/-- The oldest read in flight of a port, and the list without it (R38; log 10). -/
def takeRead (port : Nat) : List ServerRead → Option (ServerRead × List ServerRead)
  | [] => none
  | x :: rest =>
    if x.port = port then some (x, rest)
    else (takeRead port rest).map fun p => (p.1, x :: p.2)

/-- A read's answer, and the answers that waited behind it (R38, R40). -/
def State.answerRead (s : State) (x : ServerRead) : State :=
  { s with replies := s.replies ++ (readAnswer x.host x.decode.classify.data :: x.behind) }

/-- The end of a server read: answer, write-back request, reports (R40 to R43). -/
def State.endServerRead (s : State) (x : ServerRead) : State :=
  ((s.answerRead x).requestUnlessStale x.stale x.host x.decode.classify).report x.decode .demand s.time

/-- SERVER_READ_DECODE_END (R42). -/
def execServerReadDecodeEnd (port : Nat) (s : State) : Host.Outcome State Fault Refusal :=
  act (fun s =>
    match takeRead port s.reads with
    | some (x, rest) => State.endServerRead { s with reads := rest } x
    | none => s) s

/-! ## Write-backs (R55) -/

/-- The content of a queue entry (R55). -/
def WriteBack.content (e : WriteBack) : Content :=
  match e.data with
  | some l => validContent l
  | none => poisonContent

/-- A write-back at its grant: the entry leaves, the line that serves the host line is written, and the engines whose
records are open there carry the content (R15, R55, R98, R137, R154). -/
def State.writeBackNow (s : State) (e : WriteBack) : State :=
  let row := s.servingRow (rankOf e.host) (rowOf e.host) (columnOf e.host)
  ((s.dropWriteBack e.host).writeLine (rankOf e.host) row (columnOf e.host) e.content).leaveOnAll (rankOf e.host) row
    (columnOf e.host) e.content

/-- WRITE_BACK_GRANT (R55). -/
def execWriteBackGrant (port : Nat) (s : State) : Host.Outcome State Fault Refusal :=
  act (fun s =>
    match s.writeBackFor port with
    | some e => if s.mayGrant port 3 then s.writeBackNow e else s
    | none => s) s

/-! ## Full-line writes (R44) -/

/-- FULL_LINE_WRITE_GRANT (R44). -/
def execFullLineWriteGrant (port : Nat) (s : State) : Host.Outcome State Fault Refusal :=
  act (fun s =>
    match s.access port with
    | .fullWaits host data =>
      if s.ready = true ∧ s.mayGrant port 1 = true then
        (((s.hostWrite host (validContent data)).reply (.ack host)).handOver host data).freePort port
      else s
    | _ => s) s

/-! ## Masked writes (R46 to R51) -/

/-- The merge read grant (R47). -/
def State.grantMergeRead (s : State) (port host : Nat) (data : Line) (mask : ByteMask) (errors : List SliceError) :
    State :=
  let s1 := s.applyErrorsHost host errors
  s1.setAccess port (.merging host data mask (s1.decodeHost host s1.policy.demandBudget) false)

/-- MERGE_READ_GRANT (R47). -/
def execMergeReadGrant (port : Nat) (errors : List SliceError) (s : State) : Host.Outcome State Fault Refusal :=
  act (fun s =>
    match s.access port with
    | .mergeWaits host data mask =>
      if s.ready = true ∧ s.mayGrant port 1 = true then s.grantMergeRead port host data mask errors else s
    | _ => s) s

/-- The end of a merge decode (R47, R48): the class of a merge that gives data is reported, and the merged line waits for
its write half; of one that gives none, poison encoding waits, and so does its report (R49, R50; log 11). -/
def State.endMerge (s : State) (port host : Nat) (data : Line) (mask : ByteMask) (d : Decode) (orphan : Bool) :
    State :=
  match d.classify.data with
  | some old =>
    (s.report d .merge s.time).setAccess port (.halfWaits host (validContent (mergeLine old data mask)) orphan none)
  | none => s.setAccess port (.halfWaits host poisonContent orphan (some { decode := d, ended := s.time }))

/-- MERGE_DECODE_END (R47). -/
def execMergeDecodeEnd (port : Nat) (s : State) : Host.Outcome State Fault Refusal :=
  act (fun s =>
    match s.access port with
    | .merging host data mask d orphan => s.endMerge port host data mask d orphan
    | _ => s) s

/-- What the write half of an absorbed masked write reports, with the part time at which the decode ended: an UNCORRECTABLE
merge as R42 with source MERGE (R49), a POISONED one a POISON_ABSORB record (R50). R50 names no erasure, devices or tried
field; the record has those of the merge decode: its erasure flag, no device, tried 0 (DESIGN CHOICE, safe: log 44). -/
def State.reportLoss (s : State) (loss : Option MergeLoss) : State :=
  match loss with
  | none => s
  | some x =>
    if x.decode.classify.cls = .poisoned then s.handRecord (x.decode.record .poisonAbsorb .merge x.ended)
    else s.report x.decode .merge x.ended

/-- The write half at its grant, for a pair that a warm reset has not orphaned: acknowledged, the loss of an absorbed write
reported, and any other handed over (R47, R49, R50, R57). -/
def State.writeHalf (s : State) (port host : Nat) (c : Content) (loss : Option MergeLoss) : State :=
  let s1 := ((s.hostWrite host c).reply (.ack host)).reportLoss loss
  (if c.poison then s1 else s1.handOver host c.data).freePort port

/-- The write half of an orphaned pair: reported as any other, with no reply and no hand-off (R59). -/
def State.writeOrphanHalf (s : State) (port host : Nat) (c : Content) (loss : Option MergeLoss) : State :=
  ((s.hostWrite host c).reportLoss loss).freePort port

/-- MASKED_WRITE_HALF_GRANT (R47): the next grant of the port after the merge read (R17). -/
def execMaskedWriteHalfGrant (port : Nat) (s : State) : Host.Outcome State Fault Refusal :=
  act (fun s =>
    match s.access port with
    | .halfWaits host c orphan loss =>
      if s.windowTraffic = true ∧ port < s.ranks then
        (if orphan then s.writeOrphanHalf port host c loss else s.writeHalf port host c loss)
      else s
    | _ => s) s

/-- The record of a masked write absorbed from a poison entry, as R50 states (R51). No decode is made: erasure 0, no
device and tried 0 (DESIGN CHOICE, safe: log 44), and the part time of the grant. -/
def State.absorbRecord (s : State) (host : Nat) : JournalRecord :=
  { time := s.time, kind := .poisonAbsorb, source := .merge, host := some host, rank := rankOf host, row := rowOf host,
    erasure := false, devices := [], tried := 0 }

/-- The single write of a masked write that found a queue entry, with the entry as it stands (R51). Without an entry
the access asks for its merge read (R47; log 20). -/
def State.writeFromEntry (s : State) (port host : Nat) (data : Line) (mask : ByteMask) : State :=
  match s.findWriteBack host with
  | none => s.setAccess port (.mergeWaits host data mask)
  | some e =>
    match e.data with
    | some old =>
      (((s.hostWrite host (validContent (mergeLine old data mask))).reply (.ack host)).handOver host
        (mergeLine old data mask)).freePort port
    | none =>
      (((s.hostWrite host poisonContent).handRecord (s.absorbRecord host)).reply (.ack host)).freePort port

/-- MASKED_WRITE_ENTRY_GRANT (R51). -/
def execMaskedWriteEntryGrant (port : Nat) (s : State) : Host.Outcome State Fault Refusal :=
  act (fun s =>
    match s.access port with
    | .entryWaits host data mask =>
      if s.ready = true ∧ s.mayGrant port 1 = true then s.writeFromEntry port host data mask else s
    | _ => s) s

end Sys2Proof.Machine
end

