-- ==== Sys2Proof/Machine/HandOffs.lean ====
section
/-! DEFINITION. The hand-offs of window writes to the Order Unit, the Window Schedule and the Journal and Notice Unit. -/

namespace Sys2Proof.Machine

/-- A hand-off of an order slot's line whose state field is as given (R162). -/
def HandOff.isSlot (h : HandOff) (p : Nat → Bool) : Bool :=
  (slotOfOffset h.offset).isSome && p (slotStateField h.line)

/-- A hand-off of a window record's line whose state field is as given (R83). -/
def HandOff.isRecord (h : HandOff) (p : Nat → Bool) : Bool :=
  (recordOfOffset h.offset).isSome && p (windowStateField h.line)

/-- A hand-off of the host mark line (R177). -/
def HandOff.isMark (h : HandOff) : Bool := decide (h.offset = 2)

/-- A hand-off to an offset that carries no meaning (R160). -/
def HandOff.isOther (h : HandOff) : Bool :=
  (slotOfOffset h.offset).isNone && (recordOfOffset h.offset).isNone && !h.isMark

/-- Act on a slot line (R162). -/
def State.actOnSlot (s : State) (h : HandOff) : State :=
  match slotOfOffset h.offset with
  | some slot => State.slotHandOff { s with handOff := none } slot h.line
  | none => s

/-- Act on a record line (R83). -/
def State.actOnRecord (s : State) (h : HandOff) : State :=
  match recordOfOffset h.offset with
  | some record => State.windowHandOff { s with handOff := none } record h.line
  | none => s

/-- The hand-off of a mark line stays until both its fields have taken effect (R177). -/
def HandOff.remaining (h : HandOff) : Option HandOff := if h.markDone && h.ackDone then none else some h

/-- SLOT_POST (R162): state POSTED. -/
def execSlotPost (s : State) : Host.Outcome State Fault Refusal :=
  onHandOff (fun h => h.isSlot fun x => decide (x = 1)) State.actOnSlot s

/-- SLOT_FREE (R162): FREE, TAKEN, DONE or a value that names no state. -/
def execSlotFree (s : State) : Host.Outcome State Fault Refusal :=
  onHandOff (fun h => h.isSlot fun x => decide (x ≠ 1)) State.actOnSlot s

/-- WINDOW_ARM (R83, R84): state ARMED. -/
def execWindowArm (s : State) : Host.Outcome State Fault Refusal :=
  onHandOff (fun h => h.isRecord fun x => decide (x = 1)) State.actOnRecord s

/-- WINDOW_CANCEL (R83): state CANCEL. -/
def execWindowCancel (s : State) : Host.Outcome State Fault Refusal :=
  onHandOff (fun h => h.isRecord fun x => decide (x = 4)) State.actOnRecord s

/-- WINDOW_EMPTY (R83): state EMPTY. -/
def execWindowEmpty (s : State) : Host.Outcome State Fault Refusal :=
  onHandOff (fun h => h.isRecord fun x => decide (x = 0)) State.actOnRecord s

/-- WINDOW_STATE_NOT_ACTED_ON (R83): ACTIVE, PAST or a value that names no state. -/
def execWindowStateNotActedOn (s : State) : Host.Outcome State Fault Refusal :=
  onHandOff (fun h => h.isRecord fun x => decide (x ≠ 0 ∧ x ≠ 1 ∧ x ≠ 4)) State.actOnRecord s

/-- READ_MARK_WRITE (R177): the mark field of a handed-over mark line takes effect. -/
def execReadMarkWrite (s : State) : Host.Outcome State Fault Refusal :=
  onHandOff (fun h => h.isMark && !h.markDone)
    (fun s h => State.moveMark { s with handOff := HandOff.remaining { h with markDone := true } } (markField h.line)) s

/-- CAUSE_ACKNOWLEDGE (R177, R179): the acknowledge field of a handed-over mark line takes effect. -/
def execCauseAcknowledge (s : State) : Host.Outcome State Fault Refusal :=
  onHandOff (fun h => h.isMark && !h.ackDone)
    (fun s h => State.acknowledge { s with handOff := HandOff.remaining { h with ackDone := true } } (ackField h.line)) s

/-- OTHER_WINDOW_WRITE (R160): the hand-off carries no meaning and changes no state of the part. -/
def execOtherWindowWrite (s : State) : Host.Outcome State Fault Refusal :=
  onHandOff HandOff.isOther (fun s _ => { s with handOff := none }) s

end Sys2Proof.Machine
end

