-- ==== Sys2Proof/Machine/Windows.lean ====
section
/-! DEFINITION. The times of the Window Schedule: windows start and end as part time reaches them. -/

namespace Sys2Proof.Machine

/-- An ARMED entry whose start part time has reached (R86). -/
def State.startIsDue (s : State) (record : Nat) : Bool :=
  decide ((s.window record).state = .armed) && hasReached s.time (s.window record).start

/-- An ACTIVE entry whose end part time has reached (R86). -/
def State.endIsDue (s : State) (record : Nat) : Bool :=
  decide ((s.window record).state = .active) && hasReached s.time (s.window record).stop

/-- WINDOW_START (R86, R87, R89). -/
def execWindowStart (record : Nat) (s : State) : Host.Outcome State Fault Refusal :=
  act (fun s => if record < 32 ∧ s.startIsDue record = true then s.turnWindow record .active else s) s

/-- An entry may end now: no start that part time has reached is still to be taken, so that a hold which one window hands
over to another is unbroken (R86; log 33). -/
def State.mayEndNow (s : State) (record : Nat) : Bool :=
  s.endIsDue record && !(List.range 32).any s.startIsDue

/-- WINDOW_END (R86, R87, R89). -/
def execWindowEnd (record : Nat) (s : State) : Host.Outcome State Fault Refusal :=
  act (fun s => if record < 32 ∧ s.mayEndNow record = true then s.turnWindow record .past else s) s

end Sys2Proof.Machine
end

