-- ==== Sys2Proof/Machine/ControlWindow.lean ====
section
/-! DEFINITION. Control-window traffic: the writer's grants and admissions, and the part's own reads. -/

namespace Sys2Proof.Machine

/-- The writer's oldest write at its grant: the effects of a server full-line write, without a hand-off (R45, R174). -/
def State.writerGrant (s : State) (w : WriterItem) (rest : List WriterItem) : State :=
  State.hostWrite { s with writer := rest } (s.base + w.offset) (validContent (s.itemContent w))

/-- CW_WRITER_GRANT (R174). -/
def execCwWriterGrant (s : State) : Host.Outcome State Fault Refusal :=
  act (fun s =>
    match s.writer with
    | [] => s
    | w :: rest =>
      if s.windowTraffic = true ∧ s.mayGrant s.windowRank 2 = true then s.writerGrant w rest else s) s

/-- CW_WRITER_ADMISSION (R174): the oldest waiting block is admitted when its places are free. -/
def execCwWriterAdmission (s : State) : Host.Outcome State Fault Refusal := act State.admitOldest s

/-- The slot of a take is held TAKEN from the grant of its read (R165). -/
def State.holdTaken (s : State) (r : Reader) : State :=
  match r with
  | .take slot => s.setSlot slot { s.slot slot with state := .taken }
  | .scan _ | .window _ | .mark => s

/-- The grant of an own read (R161, R165). -/
def State.grantOwnRead (s : State) (o : OwnRead) (errors : List SliceError) : State :=
  let s1 := s.applyErrorsHost (s.base + o.reader.offset) errors
  State.holdTaken
    { s1 with ownRead := some { o with
        stage := .decoding (s1.decodeHost (s.base + o.reader.offset) s1.policy.backgroundBudget) false,
        readTime := s.time } } o.reader

/-- OWN_READ_GRANT (R161): after the writer's oldest write (R17). -/
def execOwnReadGrant (errors : List SliceError) (s : State) : Host.Outcome State Fault Refusal :=
  act (fun s =>
    match s.ownRead with
    | some o =>
      if s.ownReadWaits s.windowRank = true ∧ s.writerWaits s.windowRank = false ∧ s.mayGrant s.windowRank 2 = true then
        s.grantOwnRead o errors
      else s
    | none => s) s

/-- The end of an own read: reported as a server read with source DEMAND, and the line given to its reader (R161). -/
def State.endOwnRead (s : State) (o : OwnRead) (d : Decode) (stale : Bool) : State :=
  State.report
    (State.requestUnlessStale { s with ownRead := some { o with stage := .ended d.classify.data } } stale
      (s.base + o.reader.offset) d.classify)
    d .demand s.time

/-- OWN_READ_DECODE_END (R161). -/
def execOwnReadDecodeEnd (s : State) : Host.Outcome State Fault Refusal :=
  act (fun s =>
    match s.ownRead with
    | some o =>
      match o.stage with
      | .decoding d stale => s.endOwnRead o d stale
      | .requested | .ended _ => s
    | none => s) s

end Sys2Proof.Machine
end

