-- ==== Sys2Proof/Machine/Orders.lean ====
section
/-! DEFINITION. The takes of orders and what each kind of order does at its take. -/

namespace Sys2Proof.Machine

/-- A step that carries out an order whose take reads a line of the kind and mode described (R165). -/
def onOrder (p : Line → Bool) (f : State → Nat → Line → State) (s : State) : Host.Outcome State Fault Refusal :=
  act (fun s =>
    match s.dispatched p with
    | some (slot, l) => f (s.endTake slot l) slot l
    | none => s) s

/-! ## The take (R164, R165) -/

/-- Request the take read of the cursor's slot, where the conditions hold (R164, R166). -/
def State.startTake (s : State) : State :=
  if s.takeMayStart then s.requestRead (.take s.takeCursor) else s

/-- TAKE_START (R165). -/
def execTakeStart (s : State) : Host.Outcome State Fault Refusal := act (fun s => s.settleCursor.startTake) s

/-- TAKE_UNUSABLE_LINE (R165, step 1). -/
def execTakeUnusableLine (s : State) : Host.Outcome State Fault Refusal :=
  act (fun s =>
    match s.takeRead with
    | some (slot, none) => s.freeTake slot
    | _ => s) s

/-- TAKE_NOT_POSTED (R165, step 2): every state but POSTED leaves the mirror FREE (R162). -/
def execTakeNotPosted (s : State) : Host.Outcome State Fault Refusal :=
  act (fun s =>
    match s.takeRead with
    | some (slot, some l) => if slotStateField l ≠ 1 then s.freeTake slot else s
    | _ => s) s

/-- TAKE_UNKNOWN_KIND (R165, step 3). -/
def execTakeUnknownKind (s : State) : Host.Outcome State Fault Refusal :=
  act (fun s =>
    match s.takeRead with
    | some (slot, some l) =>
      if slotStateField l = 1 ∧ isOrderKind (slotKind l) = false then (s.endTake slot l).refuse slot l .badKind else s
    | _ => s) s

/-- The slot returns to POSTED with the kind and mode read, its guard ends, and the cursor stops at it (R165, step 4). -/
def State.returnTake (s : State) (slot : Nat) (l : Line) : State :=
  State.setSlot { s with ownRead := none } slot
    { s.slot slot with state := .posted, kind := slotKind l, mode := slotMode l }

/-- TAKE_LACK_OF_ROOM (R165, step 4; a kind and mode equal to the mirror's: log 12). -/
def execTakeLackOfRoom (s : State) : Host.Outcome State Fault Refusal :=
  act (fun s =>
    match s.takeRead with
    | some (slot, some l) =>
      if slotStateField l = 1 ∧ isOrderKind (slotKind l) = true ∧
          s.roomAllows (slotKind l) (slotMode l) = false then s.returnTake slot l
      else s
    | _ => s) s

/-! ## SCRUB RANGE and PROBE LINE (R116) -/

/-- The seven counts of a new order. -/
def ScrubCounts.zero : ScrubCounts :=
  { visited := 0, erased := 0, poisoned := 0, corrected := 0, deepCorrected := 0, uncorrectable := 0,
    writesDropped := 0 }

/-- The end line of a SCRUB RANGE: count 0 means the end of the channel, and a range past it is cut (R116). -/
def scrubEnd (lTotal first count : Nat) : Nat := if count = 0 then lTotal else min lTotal (first + count)

/-- The targeted order of a SCRUB RANGE line (R116). -/
def State.scrubOrder (s : State) (slot : Nat) (l : Line) : TargetedOrder :=
  { slot := slot, kind := .scrubRange, firstLine := lineField l 16 4,
    endLine := scrubEnd s.lTotal (lineField l 16 4) (lineField l 20 4), cursor := lineField l 16 4,
    budget := min 8 (lineField l 24 1), urgent := decide (lineField l 25 1 ≠ 0),
    clamped := decide (s.lTotal < lineField l 16 4 + lineField l 20 4) && decide (lineField l 20 4 ≠ 0) ||
      decide (8 < lineField l 24 1),
    counts := ScrubCounts.zero }

/-- The targeted order of a PROBE LINE line, always urgent (R115, R116). -/
def probeOrder (slot : Nat) (l : Line) : TargetedOrder :=
  { slot := slot, kind := .probeLine, firstLine := lineField l 16 4, endLine := lineField l 16 4 + 1,
    cursor := lineField l 16 4, budget := min 8 (lineField l 24 1), urgent := true,
    clamped := decide (8 < lineField l 24 1), counts := ScrubCounts.zero }

/-- An order joins the targeted queue and its slot is written TAKEN (R116). -/
def State.admitTargeted (s : State) (o : TargetedOrder) (slot : Nat) (l : Line) : State :=
  State.writeTaken { s with targeted := s.targeted ++ [o] } slot l

/-- A SCRUB RANGE at its take (R116). -/
def State.takeScrub (s : State) (slot : Nat) (l : Line) : State :=
  if s.lTotal ≤ lineField l 16 4 then s.refuse slot l .badLine else s.admitTargeted (s.scrubOrder slot l) slot l

/-- A PROBE LINE at its take (R116). -/
def State.takeProbe (s : State) (slot : Nat) (l : Line) : State :=
  if s.lTotal ≤ lineField l 16 4 then s.refuse slot l .badLine else s.admitTargeted (probeOrder slot l) slot l

/-- SCRUB_RANGE (R116). -/
def execScrubRange (s : State) : Host.Outcome State Fault Refusal :=
  onOrder (fun l => decide (slotKind l = 1)) State.takeScrub s

/-- PROBE_LINE (R116). -/
def execProbeLine (s : State) : Host.Outcome State Fault Refusal :=
  onOrder (fun l => decide (slotKind l = 2)) State.takeProbe s

/-! ## RETIRE ROW (R130, R140) -/

/-- The rank a RETIRE ROW or MARK DEVICE names. -/
def orderRank (l : Line) : Nat := lineField l 16 1

/-- The host row a RETIRE ROW names. -/
def orderRow (l : Line) : Nat := lineField l 20 4

/-- The checks of R130 but for the fourth, which is given. -/
def State.retireCheck (s : State) (l : Line) (already : Bool) : Option OrderReason :=
  if s.ranks ≤ orderRank l then some .badRank
  else if Config.hostRows ≤ orderRow l then some .badRow
  else if slotMode l ≠ 0 ∧ slotMode l ≠ 1 then some .badKind
  else if already then some .already
  else if s.freeSpares (orderRank l) ≤ s.waitingCount (orderRank l) then some .noSpare
  else none

/-- The fourth check in mode MIGRATE: a MIGRATING entry or a queue entry (R130). -/
def State.underRetirement (s : State) (rank row : Nat) : Bool := s.rowMigrating rank row || s.rowQueued rank row

/-- The fourth check in mode RESTORE: a remap entry of any state or a queue entry (R140). -/
def State.everRetired (s : State) (rank row : Nat) : Bool := (s.findRemap rank row).isSome || s.rowQueued rank row

/-- A RETIRE ROW in mode MIGRATE, or in a mode that names none, at its take (R70, R130). -/
def State.takeMigrate (s : State) (slot : Nat) (l : Line) : State :=
  match s.retireCheck l (s.underRetirement (orderRank l) (orderRow l)) with
  | some r => s.refuse slot l r
  | none =>
    State.writeTaken
      (State.admitRetirement (s.setRetire (orderRank l) (orderRow l) .pending)
        { rank := orderRank l, row := orderRow l, origin := .order, slot := some slot })
      slot l

/-- The retirement of RESTORE onto a spare row, as one act (R140, steps 1 to 4). -/
def State.restoreRow (s : State) (rank row spare : Nat) : State :=
  let s1 := s.setSpareState rank spare .inUse
  let e : RemapEntry :=
    { rank := rank, row := row, spare := spare, earlier := none, state := .active, cursor := 128, origin := .restore }
  let s2 : State := { s1 with remaps := s1.remaps ++ [e] }
  (s2.removeEntry rank row).handPlain (.rowRetired spare .restore row 0 0 0 0 0) none rank row []

/-- A RETIRE ROW in mode RESTORE at its take (R140; no earlier spare row: absent). -/
def State.takeRestoreRow (s : State) (slot : Nat) (l : Line) : State :=
  match s.retireCheck l (s.everRetired (orderRank l) (orderRow l)) with
  | some r => s.refuse slot l r
  | none =>
    match s.lowestFree (orderRank l) with
    | none => s.refuse slot l .noSpare
    | some i =>
      (s.restoreRow (orderRank l) (orderRow l) i).finishSlot slot l .ok .none
        [byteField 32 i, byteField 33 (byteOrAbsent none)]

/-- RETIRE_ROW_MIGRATE (R130). -/
def execRetireRowMigrate (s : State) : Host.Outcome State Fault Refusal :=
  onOrder (fun l => decide (slotKind l = 3) && decide (slotMode l ≠ 1)) State.takeMigrate s

/-- RETIRE_ROW_RESTORE (R140). -/
def execRetireRowRestore (s : State) : Host.Outcome State Fault Refusal :=
  onOrder (fun l => decide (slotKind l = 3) && decide (slotMode l = 1)) State.takeRestoreRow s

/-! ## MARK DEVICE (R147 to R150) -/

/-- The device a MARK DEVICE names. -/
def orderDevice (l : Line) : Nat := lineField l 17 1

/-- The checks of a MARK DEVICE in their order (R147). -/
def State.markCheck (s : State) (l : Line) : Option OrderReason :=
  if s.ranks ≤ orderRank l then some .badRank
  else if 20 ≤ orderDevice l ∨ (s.rankDevices (orderRank l)).stateOf (orderDevice l) = .replaced then some .badDevice
  else if slotMode l ≠ 0 ∧ slotMode l ≠ 1 ∧ slotMode l ≠ 2 then some .badKind
  else if orderDevice l = 19 ∧ (s.rankDevices (orderRank l)).stateOf 19 = .spare then some .notInUse
  else if (s.rankDevices (orderRank l)).markedDevice.isSome then some .markExists
  else if slotMode l = 2 ∧ (s.rankDevices (orderRank l)).stateOf 19 ≠ .spare then some .noSpare
  else none

/-- The results of a marking: the position, whether a rebuild was started, and the rebuild cursor 0 when it was
(R148). -/
def markResults (position : Nat) (started : Bool) : List FieldValue :=
  [byteField 32 position, byteField 33 (boolValue started), ⟨36, 4, 0⟩]

/-- A marking by order in mode REBUILD or ERASE_ONLY that has passed its checks, with its slot (R148). -/
def State.markByOrder (s : State) (slot : Nat) (l : Line) (mode : MarkMode) : State :=
  let r := s.rankDevices (orderRank l)
  (s.markDevice (orderRank l) (orderDevice l) mode .order).finishSlot slot l
    (if r.degrades mode then .okDegraded else .ok) (if r.degrades mode then .noSpare else .none)
    (markResults ((r.positionOf (orderDevice l)).getD 0) (r.startsRebuild mode))

/-- A MARK DEVICE in mode REBUILD, or in a mode that names none, at its take (R147, R148; log 19). -/
def State.takeMarkRebuild (s : State) (slot : Nat) (l : Line) : State :=
  match s.markCheck l with
  | some r => s.refuse slot l r
  | none => s.markByOrder slot l .rebuild

/-- A MARK DEVICE in mode ERASE_ONLY at its take (R147 to R149). -/
def State.takeMarkEraseOnly (s : State) (slot : Nat) (l : Line) : State :=
  match s.markCheck l with
  | some r => s.refuse slot l r
  | none => s.markByOrder slot l .eraseOnly

/-- The rank after a RESTORE marking: d is REPLACED, device 19 is ACTIVE and carries its position (R150, step 1). -/
def RankDevices.restored (r : RankDevices) (device position : Nat) : RankDevices :=
  { r with states := put (put r.states device .replaced) 19 .active, posMap := put r.posMap position 19 }

/-- A MARK DEVICE in mode RESTORE at its take (R147, R150). -/
def State.takeMarkRestore (s : State) (slot : Nat) (l : Line) : State :=
  match s.markCheck l with
  | some r => s.refuse slot l r
  | none =>
    let r := s.rankDevices (orderRank l)
    let m := (r.positionOf (orderDevice l)).getD 0
    State.finishSlot
      (State.handPlain
        (State.stripDevice (s.setRankDevices (orderRank l) (r.restored (orderDevice l) m)) (orderRank l) (orderDevice l))
        (.deviceMarked m .restore .order false false (s.tally (orderRank l) (orderDevice l))) none (orderRank l) 0
        [orderDevice l])
      slot l .ok .none (markResults m false)

/-- MARK_DEVICE_REBUILD (R148). -/
def execMarkDeviceRebuild (s : State) : Host.Outcome State Fault Refusal :=
  onOrder (fun l => decide (slotKind l = 4) && decide (slotMode l ≠ 1 ∧ slotMode l ≠ 2)) State.takeMarkRebuild s

/-- MARK_DEVICE_ERASE_ONLY (R148, R149). -/
def execMarkDeviceEraseOnly (s : State) : Host.Outcome State Fault Refusal :=
  onOrder (fun l => decide (slotKind l = 4) && decide (slotMode l = 1)) State.takeMarkEraseOnly s

/-- MARK_DEVICE_RESTORE (R150). -/
def execMarkDeviceRestore (s : State) : Host.Outcome State Fault Refusal :=
  onOrder (fun l => decide (slotKind l = 4) && decide (slotMode l = 2)) State.takeMarkRestore s

/-! ## SET POLICY (R168) -/

/-- The Pacer cuts credit and owed to the new B (R109). -/
def State.cutCredit (s : State) : State :=
  { s with patrol := { s.patrol with credit := min s.patrol.credit (s.policy.opsPerInterval * 256),
                                     owed := min s.patrol.owed s.policy.opsPerInterval } }

/-- The examination of every device of every populated rank after a new policy record (R75). The ranks are taken from rank
0 up: the manual orders only the devices of one rank (DESIGN CHOICE, log 35). -/
def State.examineAll (s : State) : State :=
  (List.range s.ranks).foldl (fun s r => s.examineDevices r (fun _ => true) false) s.clearAllSuspects

/-- A new policy record in force: Pacer, Line Fault Table, Journal and Notice Unit act on it (R75, R104, R109, R168,
R178). The count meets the new N after the records of the examination are published (DESIGN CHOICE, log 36). -/
def State.applyPolicy (s : State) (p : Policy) : State :=
  (((State.cutCredit { s with policy := p }).review).examineAll).checkCoalesce

/-- A SET POLICY at its take (R168). -/
def State.takePolicy (s : State) (slot : Nat) (l : Line) : State :=
  let p := clampPolicy (policyOfLine l)
  (s.applyPolicy p).requestDone slot
    (policyDoneLine s.time (if p = policyOfLine l then .none else .clamped) p)

/-- SET_POLICY (R168). -/
def execSetPolicy (s : State) : Host.Outcome State Fault Refusal :=
  onOrder (fun l => decide (slotKind l = 5)) State.takePolicy s

/-! ## QUIESCE, RESUME, EXPORT TABLES (R169 to R171) -/

/-- A QUIESCE at its take: with the flag clear it sets the flag and waits until no line is open; with the flag set it
is done at once (R169). -/
def State.takeQuiesce (s : State) (slot : Nat) (l : Line) : State :=
  if s.quiesced then s.finishSlot slot l .ok .none []
  else if s.noOpenLine then State.finishSlot { s with quiesced := true } slot l .ok .none []
  else State.writeTaken { s with quiesced := true, quiesceSlot := some slot } slot l

/-- QUIESCE (R169). -/
def execQuiesce (s : State) : Host.Outcome State Fault Refusal :=
  onOrder (fun l => decide (slotKind l = 6)) State.takeQuiesce s

/-- A waiting QUIESCE is abandoned (R170). -/
def State.abandonQuiesce (s : State) : State :=
  match s.quiesceSlot with
  | none => s
  | some q => State.finishTaken { s with quiesceSlot := none } q .abandoned .none []

/-- A RESUME at its take (R170). -/
def State.takeResume (s : State) (slot : Nat) (l : Line) : State :=
  State.finishSlot (State.abandonQuiesce { s with quiesced := false }) slot l .ok .none []

/-- RESUME (R170). -/
def execResume (s : State) : Host.Outcome State Fault Refusal :=
  onOrder (fun l => decide (slotKind l = 7)) State.takeResume s

/-- An EXPORT TABLES at its take: the number rises, the snapshot is taken, the slot stays TAKEN, and the first line
asks for its place (R171). Where both must wait, the slot's TAKEN write began to wait first (DESIGN CHOICE, log 38). -/
def State.takeExport (s : State) (slot : Nat) (l : Line) : State :=
  State.await
    (State.writeTaken
      { s with exportNumber := s.exportNumber + 1,
               exportJob := some { slot := slot, lines := s.exportLines (s.exportNumber + 1),
                                   faultEntries := s.table.length, remapEntries := s.remaps.length } }
      slot l)
    .exportLine

/-- EXPORT_TABLES (R171). -/
def execExportTables (s : State) : Host.Outcome State Fault Refusal :=
  onOrder (fun l => decide (slotKind l = 8)) State.takeExport s

/-- EXPORT_LINE_ENTRY (R171). -/
def execExportLineEntry (s : State) : Host.Outcome State Fault Refusal := act State.admitExportLine s

end Sys2Proof.Machine
end

