-- ==== Sys2Proof/Machine/PatrolWork.lean ====
section
/-! DEFINITION. Decay, pacing and patrol: the ticks of part time and the visits of a pass. -/

namespace Sys2Proof.Machine

/-! ## The decay timer (R66, R67) -/

/-- DECAY_TICK (R66, R67). -/
def execDecayTick (s : State) : Host.Outcome State Fault Refusal :=
  act (fun s =>
    if hasReached s.time s.decayTick then
      State.clearAllSuspects
        { s with table := decayedTable s.policy.retireThreshold s.table,
                 decayTick := timeAfter s.decayTick (s.policy.decayPeriod * Config.second) }
    else s) s

/-! ## Pace intervals (R18, R104, R107) -/

/-- The pace interval whose start part time has reached, if there is one (R107). -/
def State.dueInterval (s : State) : Option PartTime := s.nextInterval.filter fun t => hasReached s.time t

/-- The periodic review of a 1,000th interval, if it is still to be made (R104). -/
def State.periodicReview (s : State) (t : PartTime) : State :=
  if isThousandth t = true ∧ s.reviewed = false then s.askReview else s

/-- PERIODIC_PACE_REVIEW (R104): the first step of a 1,000th interval's work. -/
def execPeriodicPaceReview (s : State) : Host.Outcome State Fault Refusal :=
  act (fun s =>
    match s.dueInterval with
    | some t =>
      if isThousandth t = true ∧ s.reviewed = false then { s.askReview with reviewed := true } else s
    | none => s) s

/-- The counts of R18 start again, with the B now in force. -/
def State.startCounts (s : State) : State :=
  { s with counts := { migration := 0, rebuild := 0, targeted := 0, limit := s.policy.opsPerInterval } }

/-- An interval that accrues adds its credit (R107). -/
def State.accrueIfAccruing (s : State) : State := if s.accrues then s.accrue else s

/-- PACE_INTERVAL_START (R18, R107): the review of a 1,000th interval comes before the accrual. -/
def execPaceIntervalStart (s : State) : Host.Outcome State Fault Refusal :=
  act (fun s =>
    match s.dueInterval with
    | some t =>
      { ((s.periodicReview t).startCounts).accrueIfAccruing with
        nextInterval := some (nextPaceBoundary t), reviewed := false }
    | none => s) s

/-- PASS_LATE (R103); not while a restart is in progress (R111). -/
def execPassLate (s : State) : Host.Outcome State Fault Refusal :=
  act (fun s => if s.ready = true ∧ s.passIsLate = true then s.markLate.review else s) s

/-! ## Visits (R95 to R98) -/

/-- Patrol's read at its grant (R95). -/
def State.grantPatrolRead (s : State) (errors : List SliceError) : State :=
  let s1 := s.applyErrorsHost s.patrol.cursor errors
  { s1 with patrolOp := some (openRecord (s1.decodeHost s1.patrol.cursor s1.policy.backgroundBudget) none),
            patrol := { s1.patrol with owed := s1.patrol.owed - 1 } }

/-- PATROL_READ_GRANT (R95). -/
def execPatrolReadGrant (errors : List SliceError) (s : State) : Host.Outcome State Fault Refusal :=
  act (fun s =>
    if s.patrolRequests = true ∧ s.mayGrant (rankOf s.patrol.cursor) 8 = true then s.grantPatrolRead errors else s) s

/-- The pass count a class raises (R97). -/
def Patrol.counted (p : Patrol) : LineClass → Patrol
  | .corrected => { p with corrected := bump p.corrected }
  | .deepCorrected => { p with deepCorrected := bump p.deepCorrected }
  | .uncorrectable => { p with uncorrectable := bump p.uncorrectable }
  | .clean | .erased | .poisoned => p

/-- Patrol releases its line or has written it: the record is NONE, and the visit has ended (R16, R96). A QUIESCE that
this completes comes before the end of the visit (DESIGN CHOICE, log 37). -/
def State.releasePatrol (s : State) : State := (State.checkQuiesce { s with patrolOp := none }).endVisit

/-- The reports of a visit (R97). -/
def State.reportVisit (s : State) (d : Decode) : State :=
  let s1 := s.report d .patrol s.time
  { s1 with patrol := s1.patrol.counted d.classify.cls }

/-- The end of a visit's decode: reports, then the release or the write request (R96, R97). -/
def State.endPatrolDecode (s : State) (d : Decode) : State :=
  if d.classify.cls.isWrittenBack then
    { s.reportVisit d with patrolOp := s.patrolOp.map fun op => op.toWrite d.classify.content }
  else (s.reportVisit d).releasePatrol

/-- PATROL_DECODE_END (R97). -/
def execPatrolDecodeEnd (s : State) : Host.Outcome State Fault Refusal :=
  act (fun s =>
    match decodingOf s.patrolOp with
    | some d => s.endPatrolDecode d
    | none => s) s

/-- PATROL_WRITE_GRANT (R96). -/
def execPatrolWriteGrant (s : State) : Host.Outcome State Fault Refusal :=
  act (fun s =>
    match writingOf s.patrolOp with
    | some (op, c) => if s.mayGrant op.rank 8 then (s.visitWrite op c).releasePatrol else s
    | none => s) s

end Sys2Proof.Machine
end

