-- ==== Sys2Proof/Machine/TargetedWork.lean ====
section
/-! DEFINITION. The Targeted Scrub Engine: scrub visits and probes. -/

namespace Sys2Proof.Machine

/-- Change the targeted order of a slot. -/
def State.changeOrder (s : State) (slot : Nat) (f : TargetedOrder → TargetedOrder) : State :=
  { s with targeted := s.targeted.map fun o => if o.slot = slot then f o else o }

/-- The reason an order reports (R115, R116). -/
def TargetedOrder.reason (o : TargetedOrder) : OrderReason := if o.clamped then .clamped else .none

/-- An order is complete: it leaves the queue and its slot is written DONE with its results (R121, R123). -/
def State.completeTargeted (s : State) (o : TargetedOrder) (results : List FieldValue) : State :=
  State.finishTaken { s with targeted := s.targeted.filter fun x => decide (x.slot ≠ o.slot) } o.slot .ok o.reason
    results

/-- The read of an order's line at its grant (R118, R122). -/
def State.grantTargetedRead (s : State) (o : TargetedOrder) (errors : List SliceError) : State :=
  let s1 := s.applyErrorsHost o.cursor errors
  { s1 with targetedOp := some (openRecord (s1.decodeHost o.cursor o.budget) (some o.slot)) }

/-- A non-urgent operation counts towards the limit of R18. -/
def State.countTargeted (s : State) (o : TargetedOrder) : State :=
  if o.urgent then s else { s with counts := { s.counts with targeted := s.counts.targeted + 1 } }

/-- A read grant of the Targeted Scrub Engine for an order of a kind (R117). -/
def State.targetedReadFor (s : State) (k : TargetedKind) : Option TargetedOrder :=
  s.targetedRequest.filter fun o => decide (o.kind = k) && s.mayGrant (rankOf o.cursor) o.precedence

/-- SCRUB_VISIT_READ_GRANT (R118). -/
def execScrubVisitReadGrant (errors : List SliceError) (s : State) : Host.Outcome State Fault Refusal :=
  act (fun s =>
    match s.targetedReadFor .scrubRange with
    | some o => (s.grantTargetedRead o errors).countTargeted o
    | none => s) s

/-- The results a visit raises (R120; visited at the decode's end: log 27). -/
def ScrubCounts.counted (c : ScrubCounts) : LineClass → ScrubCounts
  | .clean => { c with visited := c.visited + 1 }
  | .erased => { c with visited := c.visited + 1, erased := c.erased + 1 }
  | .poisoned => { c with visited := c.visited + 1, poisoned := c.poisoned + 1 }
  | .corrected => { c with visited := c.visited + 1, corrected := c.corrected + 1 }
  | .deepCorrected => { c with visited := c.visited + 1, deepCorrected := c.deepCorrected + 1 }
  | .uncorrectable => { c with visited := c.visited + 1, uncorrectable := c.uncorrectable + 1 }

/-- The results of a SCRUB RANGE (section 10.6). -/
def ScrubCounts.fields (c : ScrubCounts) : List FieldValue :=
  [⟨32, 4, c.visited⟩, ⟨36, 4, c.erased⟩, ⟨40, 4, c.poisoned⟩, ⟨44, 4, c.corrected⟩, ⟨48, 4, c.deepCorrected⟩,
   ⟨52, 4, c.uncorrectable⟩, ⟨56, 4, c.writesDropped⟩]

/-- The record is NONE and the visit has ended: the range cursor advances, and at the end line the order is complete
(R119, R121). A QUIESCE that this completes has its DONE write before the order's (DESIGN CHOICE, log 37). -/
def State.releaseScrub (s : State) (slot : Nat) : State :=
  let s1 := State.changeOrder (State.checkQuiesce { s with targetedOp := none }) slot
    fun o => { o with cursor := o.cursor + 1 }
  match s1.orderOf slot with
  | some o => if o.endLine ≤ o.cursor then s1.completeTargeted o o.counts.fields else s1
  | none => s1

/-- The reports of a scrub visit, and the order's results (R120). -/
def State.reportScrub (s : State) (o : TargetedOrder) (d : Decode) : State :=
  (s.report d .targeted s.time).changeOrder o.slot fun x => { x with counts := x.counts.counted d.classify.cls }

/-- The end of a scrub visit's decode (R119, R120). -/
def State.endScrubDecode (s : State) (o : TargetedOrder) (d : Decode) : State :=
  if d.classify.cls.isWrittenBack then
    { s.reportScrub o d with targetedOp := s.targetedOp.map fun op => op.toWrite d.classify.content }
  else (s.reportScrub o d).releaseScrub o.slot

/-- The order of a kind to which the operation under way belongs. -/
def State.underWay (s : State) (k : TargetedKind) : Option TargetedOrder :=
  s.orderUnderWay.filter fun o => decide (o.kind = k)

/-- SCRUB_VISIT_DECODE_END (R120). -/
def execScrubVisitDecodeEnd (s : State) : Host.Outcome State Fault Refusal :=
  act (fun s =>
    match decodingOf s.targetedOp, s.underWay .scrubRange with
    | some d, some o => s.endScrubDecode o d
    | _, _ => s) s

/-- A write that its closed record drops raises the order's writes dropped (R124). -/
def State.countDropped (s : State) (op : OpenLine) (slot : Nat) : State :=
  if op.isOpen then s
  else s.changeOrder slot fun x => { x with counts := { x.counts with writesDropped := x.counts.writesDropped + 1 } }

/-- SCRUB_VISIT_WRITE_GRANT (R119, R124). -/
def execScrubVisitWriteGrant (s : State) : Host.Outcome State Fault Refusal :=
  act (fun s =>
    match writingOf s.targetedOp, s.underWay .scrubRange with
    | some (op, c), some o =>
      if s.mayGrant op.rank o.precedence then ((s.visitWrite op c).countDropped op o.slot).releaseScrub o.slot else s
    | _, _ => s) s

/-- PROBE_READ_GRANT (R122). -/
def execProbeReadGrant (errors : List SliceError) (s : State) : Host.Outcome State Fault Refusal :=
  act (fun s =>
    match s.targetedReadFor .probeLine with
    | some o => s.grantTargetedRead o errors
    | none => s) s

/-- The result of a probe (R123, section 10.6). -/
def Decode.probeResults (d : Decode) (t : PartTime) : List FieldValue :=
  [byteField 32 d.classify.cls.code, byteField 33 (byteOrAbsent d.classify.devices[0]?),
   byteField 34 (byteOrAbsent d.classify.devices[1]?), byteField 35 d.classify.tried,
   byteField 36 (boolValue d.classify.erasure), byteField 37 d.rank, ⟨40, 4, d.row⟩, byteField 44 d.column,
   timeField 48 t]

/-- The end of a probe: reports, release without a write, and the slot DONE (R122, R123). A QUIESCE that this completes
has its DONE write before the probe's (DESIGN CHOICE, log 37). -/
def State.endProbe (s : State) (o : TargetedOrder) (d : Decode) : State :=
  let s1 := s.report d .probe s.time
  (State.checkQuiesce { s1 with targetedOp := none }).completeTargeted o (d.probeResults s.time)

/-- PROBE_DECODE_END (R123). -/
def execProbeDecodeEnd (s : State) : Host.Outcome State Fault Refusal :=
  act (fun s =>
    match decodingOf s.targetedOp, s.underWay .probeLine with
    | some d, some o => s.endProbe o d
    | _, _ => s) s

end Sys2Proof.Machine
end

