-- ==== Sys2Proof/Machine/MigrationWork.lean ====
section
/-! DEFINITION. The Migration Engine: copy reads, copy writes and completion. -/

namespace Sys2Proof.Machine

/-- The copy read of the old physical row at the migration cursor (R133). -/
def State.grantCopyRead (s : State) (e : RemapEntry) (errors : List SliceError) : State :=
  let s1 := s.applyErrors e.rank e.oldRow e.cursor errors
  { s1 with
    migrationOp := some (openRecord (s1.decodeOf e.rank e.oldRow e.cursor (some (hostLineOf e.rank e.row e.cursor))
      s1.policy.backgroundBudget) none),
    counts := { s1.counts with migration := s1.counts.migration + 1 } }

/-- COPY_READ_GRANT (R133). -/
def execCopyReadGrant (errors : List SliceError) (s : State) : Host.Outcome State Fault Refusal :=
  act (fun s =>
    match s.migrationRequest with
    | some e => if s.mayGrant e.rank 5 then s.grantCopyRead e errors else s
    | none => s) s

/-- The migration count a class raises (R134). A column that is decoded again after a warm reset (R143) is counted again,
so the count goes on past 128, R132's range (DESIGN CHOICE, log 42). -/
def Migration.counted (m : Migration) : LineClass → Migration
  | .corrected => { m with corrected := m.corrected + 1 }
  | .deepCorrected => { m with deepCorrected := m.deepCorrected + 1 }
  | .uncorrectable => { m with uncorrectable := m.uncorrectable + 1 }
  | .poisoned => { m with poisoned := m.poisoned + 1 }
  | .clean | .erased => m

/-- The end of a copy read's decode: reports, counts, and the request of the copy write (R134, R135). -/
def State.endCopyDecode (s : State) (d : Decode) : State :=
  let s1 := s.report d .migration s.time
  { s1 with migration := s1.migration.map fun m => m.counted d.classify.cls,
            migrationOp := s.migrationOp.map fun op => op.toWrite d.classify.content }

/-- COPY_DECODE_END (R134). -/
def execCopyDecodeEnd (s : State) : Host.Outcome State Fault Refusal :=
  act (fun s =>
    match decodingOf s.migrationOp with
    | some d => s.endCopyDecode d
    | none => s) s

/-- The copy write to the spare line, or its drop (R135). -/
def State.copyWrite (s : State) (e : RemapEntry) (op : OpenLine) (c : Content) : State :=
  if op.isOpen then
    (s.writeLine e.rank (spareRow e.spare) e.cursor c).closeOthersOn e.rank (spareRow e.spare) e.cursor
  else { s with migration := s.migration.map fun m => { m with copiesDropped := m.copiesDropped + 1 } }

/-- The results of a retirement (R139, section 10.6). Each count's byte holds its low 8 bits (DESIGN CHOICE, log 42). -/
def Migration.results (m : Migration) (e : RemapEntry) : List FieldValue :=
  [byteField 32 e.spare, byteField 33 (byteOrAbsent e.earlier), byteField 34 m.corrected, byteField 35 m.deepCorrected,
   byteField 36 m.uncorrectable, byteField 37 m.poisoned, byteField 38 m.copiesDropped]

/-- The slot of a completed migration, if it has one, is written DONE (R139, step 5). -/
def State.finishMigrationSlot (s : State) (m : Migration) (e : RemapEntry) : State :=
  match m.slot with
  | some slot => s.finishTaken slot .ok .none (m.results e)
  | none => s

/-- An earlier spare row is given up (R139, step 2). -/
def State.discardEarlier (s : State) (e : RemapEntry) : State :=
  match e.earlier with
  | some i => s.setSpareState e.rank i .discarded
  | none => s

/-- The migration is complete, as one act (R139). -/
def State.completeMigration (s : State) (m : Migration) (e : RemapEntry) : State :=
  let s1 := s.changeRemap e.rank e.row fun x => { x with state := .active, cursor := 128, earlier := none }
  let s2 := ((s1.discardEarlier e).removeEntry e.rank e.row).handPlain
    (.rowRetired e.spare m.origin e.oldRow m.corrected m.deepCorrected m.uncorrectable m.poisoned m.copiesDropped)
    none e.rank e.row []
  State.startMigration { s2.finishMigrationSlot m e with migration := none }

/-- The copy of the column ends: the record is NONE, the cursor advances, and column 127 completes the migration
(R135, R139). A QUIESCE that this completes has its DONE write before the migration's records and writes (DESIGN CHOICE,
log 37). -/
def State.endCopy (s : State) (e : RemapEntry) : State :=
  let s1 := State.checkQuiesce { s with migrationOp := none }
  let s2 := s1.changeRemap e.rank e.row fun x => { x with cursor := x.cursor + 1 }
  if e.cursor + 1 < Config.columns then s2
  else
    match s2.migration with
    | some m => s2.completeMigration m e
    | none => s2

/-- COPY_WRITE_GRANT (R135, R139). -/
def execCopyWriteGrant (s : State) : Host.Outcome State Fault Refusal :=
  act (fun s =>
    match writingOf s.migrationOp, s.migratingEntry with
    | some (op, c), some e => if s.mayGrant op.rank 5 then (s.copyWrite e op c).endCopy e else s
    | _, _ => s) s

end Sys2Proof.Machine
end

