-- ==== Sys2Proof/Machine/RebuildWork.lean ====
section
/-! DEFINITION. The Rebuild Engine: rebuild reads, rebuild writes and completion. -/

namespace Sys2Proof.Machine

/-- The rebuild read of the chosen rank's line at its cursor (R152). -/
def State.grantRebuildRead (s : State) (rank : Nat) (errors : List SliceError) : State :=
  let row := (s.rankDevices rank).cursor / Config.columns
  let column := (s.rankDevices rank).cursor % Config.columns
  let s1 := s.applyErrors rank row column errors
  { s1 with
    rebuildOp := some (openRecord (s1.decodeOf rank row column (s1.servedHost rank row column)
      s1.policy.backgroundBudget) none),
    counts := { s1.counts with rebuild := s1.counts.rebuild + 1 }, lastRebuilt := rank }

/-- REBUILD_READ_GRANT (R152). -/
def execRebuildReadGrant (errors : List SliceError) (s : State) : Host.Outcome State Fault Refusal :=
  act (fun s =>
    match s.currentChoice with
    | some r => if s.mayGrant r 6 then s.grantRebuildRead r errors else s
    | none => s) s

/-- The rebuild count a class raises (R153). The count goes on past 33,570,816, R156's range, where lines were read again
after a warm reset (R159; DESIGN CHOICE, log 39). -/
def RankDevices.counted (r : RankDevices) : LineClass → RankDevices
  | .corrected => { r with corrected := r.corrected + 1 }
  | .uncorrectable => { r with uncorrectable := r.uncorrectable + 1 }
  | .poisoned => { r with poisoned := r.poisoned + 1 }
  | .clean | .erased | .deepCorrected => r

/-- The end of a rebuild read's decode: reports, count, and the request of the rebuild write (R153). -/
def State.endRebuildDecode (s : State) (d : Decode) : State :=
  let s1 := s.report d .rebuild s.time
  { s1.setRankDevices d.rank ((s1.rankDevices d.rank).counted d.classify.cls) with
    rebuildOp := s.rebuildOp.map fun op => op.toWrite d.classify.content }

/-- REBUILD_DECODE_END (R153). -/
def execRebuildDecodeEnd (s : State) : Host.Outcome State Fault Refusal :=
  act (fun s =>
    match decodingOf s.rebuildOp with
    | some d => s.endRebuildDecode d
    | none => s) s

/-- The rebuild write, or its drop (R153, R154). -/
def State.rebuildWrite (s : State) (op : OpenLine) (c : Content) : State :=
  if op.isOpen then s.writeLine op.rank op.row op.column c
  else
    s.setRankDevices op.rank
      { s.rankDevices op.rank with writesDropped := (s.rankDevices op.rank).writesDropped + 1 }

/-- The rank after its rebuild is complete: d is REPLACED and leaves the map, device 19 is ACTIVE and carries its
position (R156, step 1). -/
def RankDevices.completed (r : RankDevices) (device position : Nat) : RankDevices :=
  { r with states := put (put r.states device .replaced) 19 .active, posMap := put r.posMap position 19,
           inFlight := false }

/-- The rebuild of a rank is complete, as one act (R75, R156). -/
def State.completeRebuild (s : State) (rank : Nat) : State :=
  let r := s.rankDevices rank
  match r.markedDevice with
  | none => s.setRankDevices rank { r with inFlight := false }
  | some d =>
    let m := (r.positionOf d).getD 0
    ((s.setRankDevices rank (r.completed d m)).handPlain
      (.rebuildDone m r.startTime r.corrected r.uncorrectable r.poisoned r.writesDropped) none rank 0 [d]).examineDevices
        rank (fun _ => true) true

/-- The rebuild line ends: the record is NONE, the rank's cursor is past the line, and the last line completes the
rebuild (R153, R156). A QUIESCE that this completes has its DONE write before the rebuild's record (DESIGN CHOICE,
log 37). -/
def State.endRebuildLine (s : State) (op : OpenLine) : State :=
  let s1 := State.checkQuiesce { s with rebuildOp := none }
  let s2 := s1.setRankDevices op.rank
    { s1.rankDevices op.rank with cursor := physIndex op.row op.column + 1 }
  if physIndex op.row op.column + 1 < Config.physLinesPerRank then s2 else s2.completeRebuild op.rank

/-- REBUILD_WRITE_GRANT (R153, R154, R156). -/
def execRebuildWriteGrant (s : State) : Host.Outcome State Fault Refusal :=
  act (fun s =>
    match writingOf s.rebuildOp with
    | some (op, c) => if s.mayGrant op.rank 6 then (s.rebuildWrite op c).endRebuildLine op else s
    | none => s) s

end Sys2Proof.Machine
end

