-- ==== Sys2Proof/Machine/Notice.lean ====
section
/-! DEFINITION. The Journal and Notice Unit's own steps: staging departures, timers, the status write. -/

namespace Sys2Proof.Machine

/-- STAGING_DEPARTURE (R176). -/
def execStagingDeparture (s : State) : Host.Outcome State Fault Refusal := act State.stagingDeparts s

/-- A timer that runs has reached its expiry. -/
def State.expired (s : State) (timer : Option PartTime) : Bool := timer.any fun t => hasReached s.time t

/-- HOLDOFF_EXPIRY (R178). -/
def execHoldoffExpiry (s : State) : Host.Outcome State Fault Refusal :=
  act (fun s => if s.expired s.journal.holdoff then s.raiseJournal else s) s

/-- STATUS_TIMER_EXPIRY (R180): the timer stops and a status write is asked for. -/
def execStatusTimerExpiry (s : State) : Host.Outcome State Fault Refusal :=
  act (fun s =>
    if s.expired s.journal.statusTimer then
      State.askStatus { s with journal := { s.journal with statusTimer := none } }
    else s) s

/-- STATUS_WRITE (R180). -/
def execStatusWrite (s : State) : Host.Outcome State Fault Refusal := act State.admitStatus s

end Sys2Proof.Machine
end

