-- ==== Sys2Proof/Machine/Dispatch.lean ====
section
/-! DEFINITION. One arm for each command: its meaning. -/

namespace Sys2Proof.Machine

/-- The effect of a command on everything but the queue of waiting commands. -/
def exec (i : Instr) (s : State) : Host.Outcome State Fault Refusal :=
  match i with
  -- resets and start-up
  | .powerOnReset rankStraps baseStraps => Sys2Proof.Machine.execPowerOnReset rankStraps baseStraps s
  | .arrayInitLineWrite rank => Sys2Proof.Machine.execArrayInitLineWrite rank s
  | .arrayInitDone => Sys2Proof.Machine.execArrayInitDone s
  | .warmReset => Sys2Proof.Machine.execWarmReset s
  | .restartSlotScanRead => Sys2Proof.Machine.execRestartSlotScanRead s
  | .restartWindowReread => Sys2Proof.Machine.execRestartWindowReread s
  | .restartMarkRead => Sys2Proof.Machine.execRestartMarkRead s
  | .restartEnd => Sys2Proof.Machine.execRestartEnd s
  -- server port and demand path
  | .accessAboveLTotal kind address => Sys2Proof.Machine.execAccessAboveLTotal kind address s
  | .accessNotReady kind address => Sys2Proof.Machine.execAccessNotReady kind address s
  | .serverReadPresent address => Sys2Proof.Machine.execServerReadPresent address s
  | .serverReadGrant port errors => Sys2Proof.Machine.execServerReadGrant port errors s
  | .serverReadDecodeEnd port => Sys2Proof.Machine.execServerReadDecodeEnd port s
  | .writeBackGrant port => Sys2Proof.Machine.execWriteBackGrant port s
  | .fullLineWritePresent address data => Sys2Proof.Machine.execFullLineWritePresent address data s
  | .fullLineWriteGrant port => Sys2Proof.Machine.execFullLineWriteGrant port s
  | .maskedWritePresent address data mask => Sys2Proof.Machine.execMaskedWritePresent address data mask s
  | .mergeReadGrant port errors => Sys2Proof.Machine.execMergeReadGrant port errors s
  | .mergeDecodeEnd port => Sys2Proof.Machine.execMergeDecodeEnd port s
  | .maskedWriteHalfGrant port => Sys2Proof.Machine.execMaskedWriteHalfGrant port s
  | .maskedWriteEntryGrant port => Sys2Proof.Machine.execMaskedWriteEntryGrant port s
  -- hand-offs
  | .slotPost => Sys2Proof.Machine.execSlotPost s
  | .slotFree => Sys2Proof.Machine.execSlotFree s
  | .windowArm => Sys2Proof.Machine.execWindowArm s
  | .windowCancel => Sys2Proof.Machine.execWindowCancel s
  | .windowEmpty => Sys2Proof.Machine.execWindowEmpty s
  | .windowStateNotActedOn => Sys2Proof.Machine.execWindowStateNotActedOn s
  | .readMarkWrite => Sys2Proof.Machine.execReadMarkWrite s
  | .causeAcknowledge => Sys2Proof.Machine.execCauseAcknowledge s
  | .otherWindowWrite => Sys2Proof.Machine.execOtherWindowWrite s
  -- times of the Window Schedule
  | .windowStart record => Sys2Proof.Machine.execWindowStart record s
  | .windowEnd record => Sys2Proof.Machine.execWindowEnd record s
  -- control-window traffic
  | .cwWriterGrant => Sys2Proof.Machine.execCwWriterGrant s
  | .cwWriterAdmission => Sys2Proof.Machine.execCwWriterAdmission s
  | .ownReadGrant errors => Sys2Proof.Machine.execOwnReadGrant errors s
  | .ownReadDecodeEnd => Sys2Proof.Machine.execOwnReadDecodeEnd s
  -- takes and orders
  | .takeStart => Sys2Proof.Machine.execTakeStart s
  | .takeUnusableLine => Sys2Proof.Machine.execTakeUnusableLine s
  | .takeNotPosted => Sys2Proof.Machine.execTakeNotPosted s
  | .takeUnknownKind => Sys2Proof.Machine.execTakeUnknownKind s
  | .takeLackOfRoom => Sys2Proof.Machine.execTakeLackOfRoom s
  | .scrubRange => Sys2Proof.Machine.execScrubRange s
  | .probeLine => Sys2Proof.Machine.execProbeLine s
  | .retireRowMigrate => Sys2Proof.Machine.execRetireRowMigrate s
  | .retireRowRestore => Sys2Proof.Machine.execRetireRowRestore s
  | .markDeviceRebuild => Sys2Proof.Machine.execMarkDeviceRebuild s
  | .markDeviceEraseOnly => Sys2Proof.Machine.execMarkDeviceEraseOnly s
  | .markDeviceRestore => Sys2Proof.Machine.execMarkDeviceRestore s
  | .setPolicy => Sys2Proof.Machine.execSetPolicy s
  | .quiesce => Sys2Proof.Machine.execQuiesce s
  | .resume => Sys2Proof.Machine.execResume s
  | .exportTables => Sys2Proof.Machine.execExportTables s
  | .exportLineEntry => Sys2Proof.Machine.execExportLineEntry s
  -- decay, pacing and patrol
  | .decayTick => Sys2Proof.Machine.execDecayTick s
  | .paceIntervalStart => Sys2Proof.Machine.execPaceIntervalStart s
  | .periodicPaceReview => Sys2Proof.Machine.execPeriodicPaceReview s
  | .passLate => Sys2Proof.Machine.execPassLate s
  | .patrolReadGrant errors => Sys2Proof.Machine.execPatrolReadGrant errors s
  | .patrolDecodeEnd => Sys2Proof.Machine.execPatrolDecodeEnd s
  | .patrolWriteGrant => Sys2Proof.Machine.execPatrolWriteGrant s
  -- targeted scrub
  | .scrubVisitReadGrant errors => Sys2Proof.Machine.execScrubVisitReadGrant errors s
  | .scrubVisitDecodeEnd => Sys2Proof.Machine.execScrubVisitDecodeEnd s
  | .scrubVisitWriteGrant => Sys2Proof.Machine.execScrubVisitWriteGrant s
  | .probeReadGrant errors => Sys2Proof.Machine.execProbeReadGrant errors s
  | .probeDecodeEnd => Sys2Proof.Machine.execProbeDecodeEnd s
  -- migration and rebuild
  | .copyReadGrant errors => Sys2Proof.Machine.execCopyReadGrant errors s
  | .copyDecodeEnd => Sys2Proof.Machine.execCopyDecodeEnd s
  | .copyWriteGrant => Sys2Proof.Machine.execCopyWriteGrant s
  | .rebuildReadGrant errors => Sys2Proof.Machine.execRebuildReadGrant errors s
  | .rebuildDecodeEnd => Sys2Proof.Machine.execRebuildDecodeEnd s
  | .rebuildWriteGrant => Sys2Proof.Machine.execRebuildWriteGrant s
  -- journal, notice and status
  | .stagingDeparture => Sys2Proof.Machine.execStagingDeparture s
  | .holdoffExpiry => Sys2Proof.Machine.execHoldoffExpiry s
  | .statusTimerExpiry => Sys2Proof.Machine.execStatusTimerExpiry s
  | .statusWrite => Sys2Proof.Machine.execStatusWrite s

end Sys2Proof.Machine
end

