-- ==== Sys2Proof/Machine/Idle.lean ====
section
/-! DEFINITION. What happens while no command waits: hand-offs, time-driven steps, and the passing of part time. -/

namespace Sys2Proof.Machine

/-- The window transition that part time has brought due: the starts first, then the ends, each in the order of their
records (R86; log 2, log 33). -/
def State.dueWindow (s : State) : Option Instr :=
  match firstBelow 32 s.startIsDue with
  | some record => some (.windowStart record)
  | none => (firstBelow 32 s.endIsDue).map .windowEnd

/-- The first time-driven step that part time has brought due, in the order of log 2. -/
def State.dueStep (s : State) : Option Instr :=
  match s.dueWindow with
  | some c => some c
  | none =>
    if s.ready = true ∧ s.passIsLate = true then some .passLate
    else if hasReached s.time s.decayTick then some .decayTick
    else if s.expired s.journal.holdoff then some .holdoffExpiry
    else if s.expired s.journal.statusTimer then some .statusTimerExpiry
    else
      match s.dueInterval with
      | none => none
      | some t => if isThousandth t = true ∧ s.reviewed = false then some .periodicPaceReview else some .paceIntervalStart

/-- What happens while no command waits: a hand-off takes effect; else a time-driven step that is due; else part time
advances by one microsecond (log 2). -/
def State.idle (s : State) : Host.Outcome State Fault Refusal :=
  if s.handOff.isSome then act (fun s => s) s
  else
    match s.dueStep with
    | some c => exec c s
    | none => .next { s with time := s.time + 1 }

end Sys2Proof.Machine
end

