-- ==== Sys2Proof/Safety.lean ====
section
/-! DEFINITION. The invariants the manual states of the part's tables, and the words its statements are written in. -/

namespace Sys2Proof.Machine

/-- The three memories of the array are in canonical form. -/
def State.MemoriesCanonical (s : State) : Prop :=
  s.cells.wf = true ∧ s.written.wf = true ∧ s.poisoned.wf = true

/-- No queue holds more than its places (R52, R115, R129, R174, R176). -/
def State.QueuesBounded (s : State) : Prop :=
  s.writer.length ≤ writerCapacity ∧ s.writeBacks.length ≤ writeBackCapacity ∧
    s.journal.staging.length ≤ stagingCapacity ∧ s.targeted.length ≤ targetedCapacity ∧
    s.migrationQueue.length ≤ migrationCapacity

/-- The write-back queue holds no two entries with the same host line (R52). -/
def State.WriteBacksDistinct (s : State) : Prop := (s.writeBacks.map WriteBack.host).Nodup

/-- At most 14 slots are held TAKEN, and at most 13 beside the one whose take has begun (R164, R166). -/
def State.SlotsHeldInRange (s : State) : Prop :=
  countBelow 256 (fun i => decide ((s.slot i).state = .taken)) ≤ 14 ∧
    (s.takeSlot.isSome = true → s.takenWhere (fun _ => true) ≤ 13)

/-- W - M lies between 0 and 1024 (R175). -/
def State.JournalInRange (s : State) : Prop := (s.journal.published - s.journal.mark).toNat ≤ 1024

/-- Every value of the policy record in force lies in its range (R168). -/
def State.PolicyInRange (s : State) : Prop := clampPolicy s.policy = s.policy

/-- Credit, owed and rate lie in their ranges (R107). -/
def State.PacerInRange (s : State) : Prop :=
  s.PolicyInRange ∧ s.patrol.credit ≤ s.policy.opsPerInterval * 256 ∧ s.patrol.owed ≤ s.policy.opsPerInterval ∧
    1 ≤ s.patrol.rate ∧ s.patrol.rate ≤ 16384

/-- One to four ranks are populated, the pass cursor names a host line of them, the pass number is 1 to 4,294,967,295,
and each pass count is at most that (R93). -/
def State.PassInRange (s : State) : Prop :=
  1 ≤ s.ranks ∧ s.ranks ≤ 4 ∧ s.patrol.cursor < s.lTotal ∧ 1 ≤ s.patrol.passNumber ∧
    s.patrol.passNumber ≤ 4294967295 ∧ s.patrol.corrected ≤ 4294967295 ∧ s.patrol.deepCorrected ≤ 4294967295 ∧
    s.patrol.uncorrectable ≤ 4294967295

/-- The Line Fault Table holds at most 1024 entries, no two with one key, scores up to 1023, events up to 65,535
(R61). -/
def State.TableSound (s : State) : Prop :=
  s.table.length ≤ tableCapacity ∧ (s.table.map fun e => (e.rank, e.row)).Nodup ∧
    ∀ e ∈ s.table, e.score ≤ scoreMax ∧ e.events ≤ eventsMax

/-- The spare rows a remap entry holds: the one that serves or is receiving its host row, and an earlier one that it is
copied from (R127, R128). -/
def RemapEntry.sparesHeld (e : RemapEntry) : List (Nat × Nat) :=
  (e.rank, e.spare) :: e.earlier.toList.map (fun i => (e.rank, i))

/-- Remap entries have distinct host rows, and the spare rows they hold are distinct and are the IN_USE ones; an ACTIVE
entry has cursor 128 and no earlier spare row; a MIGRATING one has its cursor below 128 and is that of the migration in
progress, which has one (R127, R128). -/
def State.RemapsSound (s : State) : Prop :=
  (s.remaps.map fun e => (e.rank, e.row)).Nodup ∧
    (s.remaps.flatMap RemapEntry.sparesHeld).Nodup ∧
    (∀ r i, s.spareState r i = .inUse ↔ (r, i) ∈ s.remaps.flatMap RemapEntry.sparesHeld) ∧
    (∀ e ∈ s.remaps, e.rank < 4 ∧ e.row < 262144 ∧ e.spare < 128 ∧
      (e.state = .active → e.cursor = 128 ∧ e.earlier = none) ∧
      (e.state = .migrating → e.cursor < 128 ∧ ∃ m, s.migration = some m ∧ m.rank = e.rank ∧ m.row = e.row)) ∧
    ∀ m, s.migration = some m → ∃ e ∈ s.remaps, e.rank = m.rank ∧ e.row = m.row ∧ e.state = .migrating

/-- The migration queue names distinct host rows, none of which is migrating; every rank has a FREE spare row for each
retirement of it that waits; nothing waits while no migration is in progress; and a fault entry is PENDING exactly while
a retirement of its row waits or migrates (R70, R129, R132). -/
def State.RetirementsSound (s : State) : Prop :=
  (s.migrationQueue.map fun q => (q.rank, q.row)).Nodup ∧
    (∀ q ∈ s.migrationQueue, q.rank < 4 ∧ q.row < 262144 ∧ s.rowMigrating q.rank q.row = false) ∧
    (∀ r, s.waitingCount r ≤ s.freeSpares r) ∧
    (s.migration = none → s.migrationQueue = []) ∧
    ∀ e ∈ s.table, e.retire = .pending ↔ s.rowQueued e.rank e.row = true ∨ s.rowMigrating e.rank e.row = true

/-- The device map of one rank (R145): 19 distinct devices carry the positions, and they are the ACTIVE and the MARKED
ones; at most one device is MARKED and at most one REPLACED; only device 19 is ever SPARE, and it is while a rebuild
is in flight, when some device is MARKED; with a device REPLACED it is SPARE no more. -/
def RankDevices.Sound (r : RankDevices) : Prop :=
  r.posMap.toList.Nodup ∧
    (∀ d, d < 20 → ((r.stateOf d = .active ∨ r.stateOf d = .marked) ↔ d ∈ r.posMap.toList)) ∧
    (∀ d ∈ r.posMap.toList, d < 20) ∧
    (∀ d e, d < 20 → e < 20 → r.stateOf d = .marked → r.stateOf e = .marked → d = e) ∧
    (∀ d e, d < 20 → e < 20 → r.stateOf d = .replaced → r.stateOf e = .replaced → d = e) ∧
    (∀ d, d < 20 → r.stateOf d = .spare → d = 19) ∧
    (∀ d, d < 20 → r.stateOf d = .replaced → r.stateOf 19 ≠ .spare) ∧
    (r.inFlight = true → r.stateOf 19 = .spare ∧ r.markedDevice.isSome = true)

/-- The device maps of all ranks are sound, and the rebuild engine's open line lies in a rank that is rebuilding
(R145, R152). -/
def State.DevicesSound (s : State) : Prop :=
  (∀ r, r < 4 → (s.rankDevices r).Sound) ∧
    ∀ op, s.rebuildOp = some op → op.rank < 4 ∧ (s.rankDevices op.rank).inFlight = true

/-- Accesses wait on a rank port only behind one that has not yet received its grants (R37). -/
def State.AccessesInOrder (s : State) : Prop := ∀ p, p < 4 → s.access p = .idle → s.arrivalsAt p = []

/-! ## The words of the statements -/

/-- A line holds these fields, each with the low bytes of its value, and zero in every byte that none of them names
(section 10.6). -/
def HoldsFields (l : Line) (fs : List FieldValue) : Prop :=
  (∀ f ∈ fs, lineField l f.off f.bytes = f.value % 2 ^ (8 * f.bytes)) ∧
    ∀ i, i < 64 → (∀ f ∈ fs, i < f.off ∨ f.off + f.bytes ≤ i) → lineField l i 1 = 0

/-- The commands that do not first let a pending hand-off take effect: power-on reset, which discards it, and the rows
that are themselves the acting on it (log 3). -/
def actsOnHandOff : Instr → Bool
  | .powerOnReset _ _ | .slotPost | .slotFree | .windowArm | .windowCancel | .windowEmpty | .windowStateNotActedOn
  | .readMarkWrite | .causeAcknowledge | .otherWindowWrite => true
  | _ => false

/-- The byte of slice storage at address `a` is one that a write to this physical line places (R6, as the map stands in
`s`). -/
def State.sliceByte (s : State) (rank index a : Nat) : Prop :=
  ∃ x ∈ (s.rankDevices rank).writeTo index, sliceAddress rank index x.2 ≤ a ∧ a < sliceAddress rank index x.2 + 4

/-- The byte at address `a` is one of the 64 that keep a physical line's content. -/
def contentByte (rank index a : Nat) : Prop := lineKey rank index * 64 ≤ a ∧ a < lineKey rank index * 64 + 64

/-- `t` holds the content `c` on a physical line: each slice that R6 places in `s` is stored, and the content and the
poison marker are kept. -/
def State.HoldsLine (s t : State) (rank index : Nat) (c : Content) : Prop :=
  (∀ x ∈ (s.rankDevices rank).writeTo index, t.storedSlice rank index x.2 = encodeSlice c x.1) ∧
    t.contentAt rank index = c

/-- `t` differs from `s` in the array by one line write of `c`; every byte it does not store reads as before. -/
def State.LineStored (s t : State) (rank row column : Nat) (c : Content) : Prop :=
  s.HoldsLine t rank (physIndex row column) c ∧
    (∀ a, ¬ s.sliceByte rank (physIndex row column) a → t.cells.read a = s.cells.read a) ∧
    (∀ a, ¬ contentByte rank (physIndex row column) a → t.written.read a = s.written.read a) ∧
    (∀ a, a ≠ lineKey rank (physIndex row column) → t.poisoned.read a = s.poisoned.read a)

/-- `t` differs from `s` in the array by two line writes of `c` in one rank; every byte they do not store reads as
before. -/
def State.TwoLinesStored (s t : State) (rank row row' column : Nat) (c : Content) : Prop :=
  s.HoldsLine t rank (physIndex row column) c ∧ s.HoldsLine t rank (physIndex row' column) c ∧
    (∀ a, ¬ s.sliceByte rank (physIndex row column) a → ¬ s.sliceByte rank (physIndex row' column) a →
      t.cells.read a = s.cells.read a) ∧
    (∀ a, ¬ contentByte rank (physIndex row column) a → ¬ contentByte rank (physIndex row' column) a →
      t.written.read a = s.written.read a) ∧
    (∀ a, a ≠ lineKey rank (physIndex row column) → a ≠ lineKey rank (physIndex row' column) →
      t.poisoned.read a = s.poisoned.read a)

/-- A record that `t` has in hand: published at once, staged, withheld or held, as R175 and R176 state; the pending
causes and the status write that a publication brings are among what may change. -/
def State.Journaled (s t : State) (r : JournalRecord) : Prop :=
  ∃ u : State, u = s.handRecord r ∧ t.writer = u.writer ∧ t.waiters = u.waiters ∧ t.journal = u.journal ∧
    t.counters = u.counters

/-- The take of a slot has read this line, and its decode has ended (R165). -/
def State.TakeReads (s : State) (slot : Nat) (l : Line) : Prop :=
  ∃ o, s.ownRead = some o ∧ o.reader = .take slot ∧ o.stage = .ended (some l)

/-- The take of a slot has read a line in state POSTED of this kind, and there is room for the order: its dispatch is
due (R165, step 5). -/
def State.DispatchDue (s : State) (slot : Nat) (l : Line) (kind : Nat) : Prop :=
  s.handOff = none ∧ slot < 256 ∧ s.TakeReads slot l ∧ slotStateField l = 1 ∧ slotKind l = kind ∧
    s.roomAllows kind (slotMode l) = true

/-- The array of `t` reads as that of `s`. -/
def State.SameArray (s t : State) : Prop := t.cells = s.cells ∧ t.written = s.written ∧ t.poisoned = s.poisoned

/-- Patrol's memory after power-on reset (R93). -/
def Patrol.AtPowerOn (p : Patrol) : Prop :=
  p.passNumber = 1 ∧ p.cursor = 0 ∧ p.passStart = 0 ∧ p.passEnd = 0 ∧ p.corrected = 0 ∧ p.deepCorrected = 0 ∧
    p.uncorrectable = 0 ∧ p.rate = 1 ∧ p.credit = 0 ∧ p.owed = 0 ∧ p.late = false ∧ p.atRisk = false

/-- The devices of a rank after power-on reset (R145). -/
def RankDevices.AtPowerOn (r : RankDevices) : Prop :=
  (∀ d, d < 19 → r.stateOf d = .active) ∧ r.stateOf 19 = .spare ∧ (∀ p, p < 19 → r.carrier p = p) ∧
    r.inFlight = false ∧ r.cursor = 0 ∧ r.startTime = 0 ∧ r.corrected = 0 ∧ r.uncorrectable = 0 ∧ r.poisoned = 0 ∧
    r.writesDropped = 0

/-- The policy record's defaults (section 10.6). -/
def Policy.AtPowerOn (p : Policy) : Prop :=
  p.patrolEnable = 1 ∧ p.opsPerInterval = 16 ∧ p.markThreshold = 8 ∧ p.autoRetire = 1 ∧ p.autoMark = 1 ∧
    p.demandBudget = 0 ∧ p.backgroundBudget = 4 ∧ p.writeBackEnable = 1 ∧ p.coalesceCount = 8 ∧ p.minRate = 1 ∧
    p.decayPeriod = 3600 ∧ p.retireThreshold = 64 ∧ p.patrolPeriod = 86400 ∧ p.holdoff = 1000 ∧
    p.statusInterval = 1000

/-- The Journal and Notice Unit after power-on reset (R182). -/
def Journal.AtPowerOn (j : Journal) : Prop :=
  j.published = 0 ∧ j.mark = 0 ∧ j.staging = [] ∧ j.causes.nonempty = false ∧ j.coalesce = 0 ∧ j.holdoff = none ∧
    j.roomArmed = true

/-- The values that the rules on power-on reset give, block by block (R20, R21, R60, R80, R82, R93, R115, R144, R145,
R152, R172, R174, R182). -/
def State.AtPowerOn (t : State) : Prop :=
  t.phase = .initialising ∧ (∀ r, r < 4 → t.initWritten r = 0) ∧ t.resetCause = .powerOn ∧ t.noOpenLine = true ∧
    t.counts.migration = 0 ∧ t.counts.rebuild = 0 ∧ t.counts.targeted = 0 ∧
    (∀ p, p < 4 → t.access p = .idle ∧ t.arrivalsAt p = []) ∧
    t.reads = [] ∧ t.writeBacks = [] ∧ t.handOff = none ∧
    t.table = [] ∧ (∀ r d, r < 4 → d < 20 → t.tally r d = 0 ∧ t.isSuspect r d = false) ∧ t.decayTick = 3600000000 ∧
    (∀ i, i < 32 → (t.window i).state = .empty) ∧ t.patrol.AtPowerOn ∧ t.targeted = [] ∧
    (∀ r i, r < 4 → i < 128 → t.spareState r i = .free) ∧ t.remaps = [] ∧ t.migrationQueue = [] ∧ t.migration = none ∧
    (∀ r, r < 4 → (t.rankDevices r).AtPowerOn) ∧ t.lastRebuilt = 3 ∧ (∀ i, i < 256 → (t.slot i).state = .free) ∧
    t.takeCursor = 0 ∧ t.ownRead = none ∧ t.quiesced = false ∧ t.quiesceSlot = none ∧ t.policy.AtPowerOn ∧
    t.exportJob = none ∧ t.exportNumber = 0 ∧ t.writer = [] ∧ t.waiters = [] ∧ t.journal.AtPowerOn ∧
    t.counters = Counters.zero ∧ t.lastUncorrectable = none

end Sys2Proof.Machine
end

