-- ==== Sys2Proof/Certificates/Slice0/Obligations.lean ====
section
/-! DEFINITION. The statements about the part. `exec c s = .next (State.finish t)` says that the command completes with
the next state `t`; `State.finish` only keeps the rebuild's choice of rank (log 29), so every field that `t` does not
name is unchanged. -/

section Statements

open Sys2Proof Sys2Proof.Machine

/-! ## Steps -/

/-- A step runs the command at the front of the queue on the state with the queue's rest. -/
def Obligations.StepRunsFrontCommand : Prop :=
  ∀ (c : Instr) (rest : List Instr) (s : State), step { s with pending := c :: rest } = exec c { s with pending := rest }

/-- The model's choices (log 2, log 3): on an empty queue a pending hand-off takes effect, else a step that part time
has brought due is taken, else part time advances by one microsecond; and a hand-off that waits takes effect before any
command that does not act on it. The step that is due is the first of: the start of the lowest ARMED window whose start
part time has reached, the end of the lowest such ACTIVE one (log 33), PASS_LATE, the decay tick, the holdoff timer, the
status timer, the review of a 1,000th interval not yet reviewed, the start of the interval; and none where none is due.
-/
def Obligations.HandOffsAndTimeActByThemselves : Prop :=
  (∀ s : State, s.pending = [] →
     (∀ h, s.handOff = some h → step s = .next (State.finish (State.actOn { s with handOff := none } h))) ∧
     (∀ c, s.handOff = none → s.dueStep = some c → step s = exec c s) ∧
     (s.handOff = none → s.dueStep = none → step s = .next { s with time := s.time + 1 })) ∧
  (∀ (c : Instr) (s : State) (h : HandOff), s.handOff = some h → actsOnHandOff c = false →
     exec c s = exec c (State.actOn { s with handOff := none } h)) ∧
  (∀ (s : State) (start stop : Nat → Prop) (late : Prop),
     (∀ r, start r ↔ r < 32 ∧ (s.window r).state = .armed ∧ hasReached s.time (s.window r).start = true) →
     (∀ r, stop r ↔ r < 32 ∧ (s.window r).state = .active ∧ hasReached s.time (s.window r).stop = true) →
     (late ↔ s.ready = true ∧ hasReached s.time s.patrol.passEnd = true ∧ s.patrol.cursor < s.lTotal ∧
       s.patrol.late = false) →
     (∀ r, start r → (∀ j, j < r → ¬ start j) → s.dueStep = some (.windowStart r)) ∧
     (∀ r, (∀ j, ¬ start j) → stop r → (∀ j, j < r → ¬ stop j) → s.dueStep = some (.windowEnd r)) ∧
     ((∀ j, ¬ start j ∧ ¬ stop j) →
       (late → s.dueStep = some .passLate) ∧
       (¬ late → hasReached s.time s.decayTick = true → s.dueStep = some .decayTick) ∧
       (¬ late → hasReached s.time s.decayTick = false →
         (∀ t, s.journal.holdoff = some t → hasReached s.time t = true → s.dueStep = some .holdoffExpiry) ∧
         ((∀ t, s.journal.holdoff = some t → hasReached s.time t = false) →
           (∀ t, s.journal.statusTimer = some t → hasReached s.time t = true →
             s.dueStep = some .statusTimerExpiry) ∧
           ((∀ t, s.journal.statusTimer = some t → hasReached s.time t = false) →
             (∀ t, s.nextInterval = some t → hasReached s.time t = true →
               (t.toNat % 1000000 = 0 → s.reviewed = false → s.dueStep = some .periodicPaceReview) ∧
               (t.toNat % 1000000 ≠ 0 ∨ s.reviewed = true → s.dueStep = some .paceIntervalStart)) ∧
             ((∀ t, s.nextInterval = some t → hasReached s.time t = false) → s.dueStep = none))))))

/-! ## Resets and start-up -/

/-- POWER_ON_RESET gives every block its power-on state, with the straps as sampled (their coding: log 7), and discards
no waiting command; the state the machine starts from is that of a power-on reset with four ranks and the window at
line 0 (log 7), an empty queue and no byte listed. -/
def Obligations.PowerOnResetStartsThePart : Prop :=
  (∀ (rankStraps : BitVec 2) (baseStraps : BitVec 13) (s : State), ∃ t,
     exec (.powerOnReset rankStraps baseStraps) s = .next t ∧ t.AtPowerOn ∧ t.pending = s.pending ∧ t.time = 0 ∧
       t.ranks = rankStraps.toNat + 1 ∧ t.base = baseStraps.toNat * 16384) ∧
  (State.reset.AtPowerOn ∧ State.reset.pending = [] ∧ State.reset.time = 0 ∧ State.reset.ranks = 4 ∧
     State.reset.base = 0 ∧ State.reset.cells = [] ∧ State.reset.written = [] ∧ State.reset.poisoned = [])

/-- ARRAY_INIT_LINE_WRITE and ARRAY_INIT_DONE (R20): the next line of the rank takes zero data with valid code,
positions 0 to 18 on devices 0 to 18, and a zero slice on device 19, every other byte reading as before; with every line
written, the identity line and then the status lines are in the writer, the port is READY (log 8) and pass 1 starts with
its review; with the window base at or above L_total nothing is written and the port stays NOT_READY. The identity line
has the fields of section 10.6 (its revision: log 18). -/
def Obligations.InitialisationClearsTheArray : Prop :=
  (∀ (rank : Nat) (s : State), s.handOff = none → s.phase = .initialising → rank < s.ranks → s.ranks ≤ 4 →
     s.initWritten rank < 33570816 → s.rankDevices rank = RankDevices.powerOn →
     s.MemoriesCanonical →
     ∃ t : State, exec (.arrayInitLineWrite rank) s = .next (State.finish
         { s with cells := t.cells, written := t.written, poisoned := t.poisoned,
                  initCursor := put s.initCursor rank (s.initWritten rank + 1) }) ∧
       (∀ device, device < 20 → t.storedSlice rank (s.initWritten rank) device = 0) ∧
       t.contentAt rank (s.initWritten rank) = { data := 0, poison := false } ∧
       (∀ a, a < sliceAddress rank (s.initWritten rank) 0 ∨ sliceAddress rank (s.initWritten rank) 19 + 4 ≤ a →
         t.cells.read a = s.cells.read a) ∧
       (∀ a, a < lineKey rank (s.initWritten rank) * 64 ∨ lineKey rank (s.initWritten rank) * 64 + 64 ≤ a →
         t.written.read a = s.written.read a) ∧
       (∀ a, a ≠ lineKey rank (s.initWritten rank) → t.poisoned.read a = s.poisoned.read a)) ∧
  (∀ s : State, s.handOff = none → s.phase = .initialising → s.initComplete = true →
     (s.base < s.lTotal →
       ∃ u : State, exec .arrayInitDone s = .next (State.finish u.review) ∧ u.review.ready = true ∧
         u = { s with
           phase := .running, nextInterval := some (nextPaceBoundary s.time),
           writer := [.line 0 s.identityLine, .line 1 s.statusPart1, .line 3 s.statusPart2],
           journal := { s.journal with statusTimer := some (timeAfter s.time s.policy.statusInterval) },
           patrol := { s.patrol with
             passNumber := 1, cursor := 0, passStart := s.time,
             passEnd := timeAfter s.time (s.policy.patrolPeriod * 1000000), corrected := 0, deepCorrected := 0,
             uncorrectable := 0, late := false } } ∧
         HoldsFields s.identityLine
           [⟨0, 2, 418⟩, ⟨2, 1, Config.revision.toNat⟩, ⟨3, 1, match s.resetCause with | .powerOn => 1 | .warm => 2⟩,
            ⟨4, 1, s.ranks⟩, ⟨8, 4, s.base⟩, ⟨12, 2, 256⟩, ⟨14, 2, 1024⟩, ⟨16, 2, 1024⟩, ⟨18, 1, 128⟩, ⟨19, 1, 32⟩,
            ⟨24, 6, s.time.toNat⟩]) ∧
     (s.lTotal ≤ s.base → exec .arrayInitDone s = .next (State.finish { s with phase := .halted })))

/-- WARM_RESET (R20, R21, R59, R91, R111, R126, R143, R159, R173, R182; the status timer stops, log 16, and no status
write is asked for in the restart, log 41): open lines, reads in flight, accesses not yet presented, queued write-backs,
waiting writer lines, windows, posted slots, credit, owed and pending causes are dropped, the scan of slot 0 begins, and
the array, the tables, the policy, the pass, W and M are kept. A masked write between its merge read and its write half
stays as an orphan, any other access goes; the slots of the retirements of origin ORDER are handed over. During
initialisation it gives the state of a power-on reset, part time continuing (log 24); after one that found the window
base outside the array it runs no restart. -/
def Obligations.WarmResetKeepsAndDrops : Prop :=
  (∀ s : State, s.handOff = none → s.ready = true ∨ s.restarting = true →
     ∃ t, exec .warmReset s = .next (State.finish t) ∧ t.phase = .restarting (.slotScan 0) ∧ t.resetCause = .warm ∧
       t.noOpenLine = true ∧ t.reads = [] ∧ t.writeBacks = [] ∧ t.writer = [] ∧ t.waiters = [] ∧
       (∀ i, i < 32 → t.window i = WindowEntry.emptyEntry) ∧ (∀ i, i < 256 → (t.slot i).state = .free) ∧
       (∀ p, p < 4 → t.access p = (s.access p).afterWarmReset ∧ t.arrivalsAt p = []) ∧
       t.counts = { s.counts with migration := 0, rebuild := 0, targeted := 0 } ∧
       t.patrol = { s.patrol with credit := 0, owed := 0 } ∧ t.targeted = [] ∧ t.quiesced = false ∧
       t.quiesceSlot = none ∧ t.exportJob = none ∧ t.lastRebuilt = 3 ∧
       t.migrationQueue = s.migrationQueue.map (fun q => { q with slot := none }) ∧
       t.migration = s.migration.map (fun m => { m with slot := none }) ∧
       t.retained = s.retained ++ s.orderSlots ∧
       t.journal = { s.journal with staging := [], coalesce := 0, holdoff := none, causes := CauseSet.none,
                                    statusTimer := none } ∧
       t.counters = { s.counters with
         journalHeld := min 4294967295 (s.counters.journalHeld + s.journal.staging.length) } ∧
       t.ownRead = some { reader := .scan 0, stage := .requested, readTime := s.time } ∧
       t = { s with
         phase := t.phase, resetCause := t.resetCause, patrolOp := none, targetedOp := none, migrationOp := none,
         rebuildOp := none, counts := t.counts, ports := t.ports, arrivals := t.arrivals, reads := t.reads,
         writeBacks := t.writeBacks,
         windows := t.windows, patrol := t.patrol, targeted := t.targeted, migrationQueue := t.migrationQueue,
         migration := t.migration, retained := t.retained, lastRebuilt := t.lastRebuilt, rebuildChoice := none,
         slots := t.slots, ownRead := t.ownRead, quiesced := t.quiesced, quiesceSlot := t.quiesceSlot,
         exportJob := t.exportJob, writer := t.writer, waiters := t.waiters, journal := t.journal,
         counters := t.counters }) ∧
  (∀ s : State, s.handOff = none →
     (s.phase = .initialising → ∃ t, exec .warmReset s = .next (State.finish t) ∧ t.AtPowerOn ∧ t.time = s.time ∧
       t.ranks = s.ranks ∧ t.base = s.base ∧ t.pending = s.pending) ∧
     (s.phase = .halted → exec .warmReset s = .next s.finish)) ∧
  (∀ (host : Nat) (data : Line) (mask : ByteMask) (d : Decode) (c : Content) (orphan : Bool) (loss : Option MergeLoss),
     (PortAccess.merging host data mask d orphan).afterWarmReset = .merging host data mask d true ∧
     (PortAccess.halfWaits host c orphan loss).afterWarmReset = .halfWaits host c true loss ∧
     (PortAccess.readWaits host).afterWarmReset = .idle ∧ (PortAccess.fullWaits host data).afterWarmReset = .idle ∧
     (PortAccess.mergeWaits host data mask).afterWarmReset = .idle ∧
     (PortAccess.entryWaits host data mask).afterWarmReset = .idle ∧ PortAccess.idle.afterWarmReset = .idle) ∧
  (∀ (s : State) (slot : Nat), slot ∈ s.orderSlots ↔
     (∃ q ∈ s.migrationQueue, q.slot = some slot) ∨ ∃ m, s.migration = some m ∧ m.slot = some slot)

/-- RESTART_SLOT_SCAN_READ: the slot's mirror is set from what its read found, a TAKEN line is written DONE with outcome
ABANDONED, and the next read of the restart is requested. -/
def Obligations.RestartScanSetsMirror : Prop :=
  ∀ (s : State) (o : OwnRead) (slot : Nat) (line : Option Line), s.handOff = none → slot < 256 →
    s.phase = .restarting (.slotScan slot) → s.ownRead = some o → o.stage = .ended line →
    ∃ t, exec .restartSlotScanRead s = .next (State.finish t) ∧
      (line = none → (t.slot slot).state = .free ∧ t.writer = s.writer) ∧
      (∀ l, line = some l → slotStateField l = 1 → (t.slot slot).state = .posted ∧ (t.slot slot).kind = slotKind l ∧
        (t.slot slot).mode = slotMode l ∧ t.writer = s.writer) ∧
      (∀ l, line = some l → slotStateField l = 2 → (t.slot slot).state = .done ∧
        ∃ done, done = doneLine l s.time .abandoned (if s.retained.contains slot then .retained else .none) [] ∧
          (s.writerHasPlace = true → t.writer = s.writer ++ [.line (64 + slot) done] ∧
            t.journal.causes.order = true) ∧
          (s.writerHasPlace = false → t.writer = s.writer ∧ t.waiters = s.waiters ++ [.slotDone slot done])) ∧
      (∀ l, line = some l → slotStateField l = 3 → (t.slot slot).state = .done ∧ t.writer = s.writer) ∧
      (∀ l, line = some l → slotStateField l = 0 ∨ 3 < slotStateField l → (t.slot slot).state = .free ∧
        t.writer = s.writer) ∧
      (∀ i, i < 256 → i ≠ slot → t.slot i = s.slot i) ∧
      (slot < 255 → t.phase = .restarting (.slotScan (slot + 1)) ∧
        t.ownRead = some { reader := .scan (slot + 1), stage := .requested, readTime := s.time }) ∧
      (slot = 255 → t.phase = .restarting (.windowReread 0) ∧
        t.ownRead = some { reader := .window 0, stage := .requested, readTime := s.time }) ∧
      t = { s with slots := t.slots, writer := t.writer, waiters := t.waiters, journal := t.journal, phase := t.phase,
                   ownRead := t.ownRead }

/-- RESTART_WINDOW_REREAD and RESTART_MARK_READ (R84, R92, R173, R182): the mirror entry is set from the record line, judged
at the part time of its read (log 15), its record is written as R84 states for an ARMED or ACTIVE one, no pace review is
made, and the next read of the restart is requested; M becomes the mark read, W, or W - 1024 by their
distances modulo 2^32, an unusable read leaves it, the ROOM flag is set exactly when free is above 32, and the identity
line waits for its place. -/
def Obligations.RestartRereadsWindowsAndMark : Prop :=
  (∀ (s : State) (o : OwnRead) (record : Nat) (line : Option Line), s.handOff = none → record < 32 →
     s.phase = .restarting (.windowReread record) → s.ownRead = some o → o.stage = .ended line →
     ∃ t, exec .restartWindowReread s = .next (State.finish t) ∧
       (line = none → t.window record = WindowEntry.emptyEntry ∧ t.writer = s.writer) ∧
       (∀ l, line = some l → windowStateField l = 0 → t.window record = WindowEntry.emptyEntry ∧ t.writer = s.writer) ∧
       (∀ l, line = some l → windowStateField l = 1 ∨ windowStateField l = 2 →
         t.window record = armedEntry l o.readTime ∧
           ((armedEntry l o.readTime).state = .armed →
             (armedEntry l o.readTime).stop = BitVec.ofNat 48 (lineField l 16 6) →
             t.writer = s.writer ∧ t.waiters = s.waiters) ∧
           ((armedEntry l o.readTime).state ≠ .armed ∨
             (armedEntry l o.readTime).stop ≠ BitVec.ofNat 48 (lineField l 16 6) →
             t.recordWriteWaits record = true)) ∧
       (∀ l, line = some l → windowStateField l = 3 → t.window record = windowOfLine l .past ∧ t.writer = s.writer) ∧
       (∀ l, line = some l → 4 ≤ windowStateField l → t.window record = WindowEntry.emptyEntry ∧
         t.recordWriteWaits record = true) ∧
       (∀ i, i < 32 → i ≠ record → t.window i = s.window i) ∧
       (record < 31 → t.phase = .restarting (.windowReread (record + 1)) ∧
         t.ownRead = some { reader := .window (record + 1), stage := .requested, readTime := s.time }) ∧
       (record = 31 → t.phase = .restarting .markRead ∧
         t.ownRead = some { reader := .mark, stage := .requested, readTime := s.time }) ∧
       t = { s with windows := t.windows, writer := t.writer, waiters := t.waiters, phase := t.phase,
                    ownRead := t.ownRead }) ∧
  (∀ (s : State) (o : OwnRead) (line : Option Line), s.handOff = none → s.phase = .restarting .markRead →
     s.ownRead = some o → o.stage = .ended line →
     ∃ t, exec .restartMarkRead s = .next (State.finish t) ∧
       (line = none → t.journal.mark = s.journal.mark) ∧
       (∀ l, line = some l → (s.journal.published - markField l).toNat ≤ 1024 → t.journal.mark = markField l) ∧
       (∀ l, line = some l → 1 ≤ (markField l - s.journal.published).toNat →
         (markField l - s.journal.published).toNat ≤ 2147483648 → t.journal.mark = s.journal.published) ∧
       (∀ l, line = some l → 1024 < (s.journal.published - markField l).toNat →
         2147483648 < (markField l - s.journal.published).toNat → t.journal.mark = s.journal.published - 1024) ∧
       (t.journal.roomArmed = true ↔ 32 < t.journalFree) ∧
       t.phase = .restarting .identity ∧ t.ownRead = none ∧ t.waiters.getLast? = some .identity ∧
       t = { s with journal := { s.journal with mark := t.journal.mark, roomArmed := t.journal.roomArmed },
                    waiters := t.waiters, phase := t.phase, ownRead := t.ownRead })

/-- RESTART_END (R59, R103, R111, R173, R180, R181; the restart's own requests go with the queue: log 26): the identity
line enters the writer, the port is READY, the write-back queue is empty, E that passed meanwhile with lines left makes
the pass late with its PASS_LATE record (rank and row 0, which R103 does not carry: log 17), the restart's review is
made, and a status write is asked for. That the take cursor, kept where it was during the slot scan, moves to the posted
set in this step is the model's choice (log 16): by R164 it could move during the scan. -/
def Obligations.RestartEndsReady : Prop :=
  ∀ s : State, s.handOff = none → s.mayEnter .identity = true →
    ∃ t u v : State, exec .restartEnd s = .next (State.finish t) ∧
      u = { s with phase := .running, retained := [], writeBacks := [], waiters := s.waiters.erase .identity,
                   writer := s.writer ++ [.line 0 s.identityLine],
                   takeCursor := (s.nextPosted s.takeCursor).getD s.takeCursor } ∧
      (hasReached s.time s.patrol.passEnd = true → s.patrol.cursor < s.lTotal → s.patrol.late = false →
        v = State.handRecord { u with patrol := { s.patrol with late := true } }
          { time := s.time, kind := .passLate s.patrol.passNumber s.patrol.passEnd s.patrol.cursor
              (s.lTotal - s.patrol.cursor),
            source := .none, host := none, rank := 0, row := 0, erasure := false, devices := [], tried := 0 }) ∧
      (hasReached s.time s.patrol.passEnd = false ∨ s.lTotal ≤ s.patrol.cursor ∨ s.patrol.late = true → v = u) ∧
      t = { v.review with waiters := t.waiters } ∧ t.waiters.contains .status = true ∧ t.ready = true

/-! ## The array -/

/-- The resolver (R3): the physical row that serves a host line, by the remap state of its host row. -/
def Obligations.ResolverFollowsRemapState : Prop :=
  ∀ (s : State) (rank row column : Nat),
    (s.findRemap rank row = none → s.servingRow rank row column = row) ∧
    (∀ e, s.findRemap rank row = some e → e.state = .active → s.servingRow rank row column = 262144 + e.spare) ∧
    (∀ e, s.findRemap rank row = some e → e.state = .migrating → column < e.cursor →
      s.servingRow rank row column = 262144 + e.spare) ∧
    (∀ e, s.findRemap rank row = some e → e.state = .migrating → e.cursor ≤ column → e.earlier = none →
      s.servingRow rank row column = row) ∧
    (∀ e i, s.findRemap rank row = some e → e.state = .migrating → e.cursor ≤ column → e.earlier = some i →
      s.servingRow rank row column = 262144 + i)

/-- Where a write puts each position's slice, where a read takes it, and the marked position given to the decoder (R6,
R7): in a rank with a sound map, with no MARKED device, and with a MARKED device d that carries position m. -/
def Obligations.RebuildCursorDividesTheRank : Prop :=
  ∀ (r : RankDevices) (index : Nat), r.Sound →
    (r.markedDevice = none → r.markedFor index = none ∧ ∀ p, p < 19 →
      (∀ x, (p, x) ∈ r.writeTo index ↔ x = r.carrier p) ∧ (r.readFrom index)[p]? = some (r.carrier p)) ∧
    (∀ d m, m < 19 → r.carrier m = d → r.markedDevice = some d →
      (r.inFlight = false →
        (∀ x, (m, x) ∈ r.writeTo index ↔ x = d) ∧ (r.readFrom index)[m]? = some d ∧ r.markedFor index = some m) ∧
      (r.inFlight = true → index < r.cursor →
        (∀ x, (m, x) ∈ r.writeTo index ↔ x = 19) ∧ (r.readFrom index)[m]? = some 19 ∧ r.markedFor index = none) ∧
      (r.inFlight = true → r.cursor ≤ index →
        (∀ x, (m, x) ∈ r.writeTo index ↔ x = d ∨ x = 19) ∧ (r.readFrom index)[m]? = some d ∧
          r.markedFor index = some m) ∧
      (∀ p, p < 19 → p ≠ m →
        (∀ x, (p, x) ∈ r.writeTo index ↔ x = r.carrier p) ∧ (r.readFrom index)[p]? = some (r.carrier p)))

/-- What a decode is given at the grant of its read (R4, R7, R25), the damaged set being the positions whose slice as read
differs from the slice the encoder wrote (section 1.4); and its class by its poison marker, its marked position and its
damaged set (the table of R12). -/
def Obligations.DecodeClassFollowsDamage : Prop :=
  (∀ (s : State) (rank row column : Nat) (host : Option Nat) (budget : Nat),
     s.decodeOf rank row column host budget =
       { rank := rank, row := row, column := column, host := host, content := s.contentAt rank (row * 128 + column),
         damaged := s.damagedSet rank row column, marked := (s.rankDevices rank).markedFor (row * 128 + column),
         budget := budget, suspects := s.suspectList rank (row * 128 + column) host budget,
         carriers := (s.rankDevices rank).readFrom (row * 128 + column) } ∧
     (∀ p, p ∈ s.damagedSet rank row column ↔ p < 19 ∧
       ∃ x, ((s.rankDevices rank).readFrom (row * 128 + column))[p]? = some x ∧
         s.storedSlice rank (row * 128 + column) x ≠ encodeSlice (s.contentAt rank (row * 128 + column)) p) ∧
     (s.damagedSet rank row column).Pairwise (· < ·) ∧
     (∀ h, s.decodeHost h budget =
       s.decodeOf (rankOf h) (s.servingRow (rankOf h) (rowOf h) (columnOf h)) (columnOf h) (some h) budget)) ∧
  ∀ d : Decode,
    (d.content.poison = true → d.damaged.length ≤ 1 → d.classify.cls = .poisoned) ∧
    (d.content.poison = true → 2 ≤ d.damaged.length → d.classify.cls = .uncorrectable) ∧
    (d.content.poison = false → d.marked = none → d.damaged = [] → d.classify.cls = .clean) ∧
    (∀ p, d.content.poison = false → d.marked = none → d.damaged = [p] → d.classify.cls = .corrected ∧
      d.classify.positions = [p]) ∧
    (d.content.poison = false → d.marked = none → 2 ≤ d.damaged.length → d.suspects = [] →
      d.classify.cls = .uncorrectable ∧ d.classify.tried = 0) ∧
    (∀ m, d.content.poison = false → d.marked = some m → d.damaged = [] → d.classify.cls = .clean) ∧
    (∀ m, d.content.poison = false → d.marked = some m → d.damaged = [m] → d.classify.cls = .erased) ∧
    (∀ m p, d.content.poison = false → d.marked = some m → d.damaged.filter (fun x => decide (x ≠ m)) = [p] →
      d.classify.cls = .corrected ∧ d.classify.positions = [p]) ∧
    (∀ m, d.content.poison = false → d.marked = some m →
      2 ≤ (d.damaged.filter fun x => decide (x ≠ m)).length → d.classify.cls = .uncorrectable) ∧
    (d.classify.cls.hasData = true → d.classify.data = some d.content.data) ∧
    (d.classify.cls.hasData = false → d.classify.data = none ∧ d.classify.devices = [])

/-- The hypothesis search (R23, R24, R32): with two damaged positions the first position of the suspect list that is
damaged succeeds, and the other damaged position is found; with none there, or more damage, the line is lost. The list
(R25 to R29): the devices of the row's own entry in ascending order, then the other devices of tally 1 or more in
descending order of tally, ties to the lower number; MARKED and REPLACED devices and those that carry no position in the
placement of the read drop out, each other device gives its position, and the list is cut to the budget. -/
def Obligations.SearchTriesSuspectsInOrder : Prop :=
  (∀ (s : State) (rank : Nat) (host : Option Nat), ∃ own rest : List Nat,
     (∀ d, d ∈ own ↔ d < 20 ∧ ∃ h e, host = some h ∧ s.findEntry rank (rowOf h) = some e ∧ inSet e.devices d = true) ∧
     own.Pairwise (· < ·) ∧ (∀ d, d ∈ rest ↔ d < 20 ∧ 1 ≤ s.tally rank d ∧ d ∉ own) ∧
     rest.Pairwise (fun a b => s.tally rank b < s.tally rank a ∨ (s.tally rank a = s.tally rank b ∧ a < b)) ∧
     ∀ index budget, ∃ position : Nat → Option Nat,
       s.suspectList rank index host budget = ((own ++ rest).filterMap position).take budget ∧
       (∀ d, (s.rankDevices rank).stateOf d = .marked ∨ (s.rankDevices rank).stateOf d = .replaced → position d = none) ∧
       (∀ d p, (s.rankDevices rank).stateOf d ≠ .marked → (s.rankDevices rank).stateOf d ≠ .replaced →
         (position d = some p ↔ p < 19 ∧ ((s.rankDevices rank).readFrom index)[p]? = some d ∧
           ∀ q, q < p → ((s.rankDevices rank).readFrom index)[q]? ≠ some d))) ∧
  ∀ (d : Decode) (before after : List Nat) (x y : Nat), d.content.poison = false → d.marked = none → x ≠ y →
    (d.damaged = [x, y] ∨ d.damaged = [y, x] →
      d.suspects = before ++ x :: after → (∀ z ∈ before, z ≠ x ∧ z ≠ y) →
        d.classify.cls = .deepCorrected ∧ d.classify.positions = [x, y] ∧ d.classify.tried = before.length + 1 ∧
          d.classify.devices = [d.deviceAt x, d.deviceAt y] ∧ d.classify.data = some d.content.data) ∧
    (2 ≤ d.damaged.length → (∀ z ∈ d.suspects, z ∉ d.damaged) →
      d.classify.cls = .uncorrectable ∧ d.classify.tried = d.suspects.length) ∧
    (2 < d.damaged.length → d.classify.cls = .uncorrectable ∧ d.classify.tried = d.suspects.length)

/-- A write granted to a host line (R44, R45, R47, R51, R136): the line that serves it takes the content, the OPEN
records that name the host line close, its write-back entry leaves, its reads in flight become stale, the part's own
read of it too; at the copy column of a migration the spare line takes it as well, the other engines' records there
close, and every other effect is made once. -/
def Obligations.HostWriteReachesServingLine : Prop :=
  (∀ (s : State) (host : Nat) (p : OpenLine → Bool) (op : OpenLine),
     closeIf p none = none ∧
     closeIf p (some op) = some (if op.isOpen = true ∧ p op = true then { op with isOpen := false } else op) ∧
     (∀ o d stale, s.ownRead = some o → o.stage = .decoding d stale → (s.markStale host).ownRead =
       some { o with stage := .decoding d (stale || decide (d.host = some host)) }) ∧
     ((∀ o d stale, s.ownRead = some o → o.stage ≠ .decoding d stale) → (s.markStale host).ownRead = s.ownRead)) ∧
  (∀ (s : State) (host : Nat) (c : Content), (s.rankDevices (rankOf host)).Sound → s.MemoriesCanonical →
     s.copyHost ≠ some host →
     s.LineStored (s.hostWrite host c) (rankOf host)
       (s.servingRow (rankOf host) (rowOf host) (columnOf host)) (columnOf host) c ∧
     s.hostWrite host c =
       { s with cells := (s.hostWrite host c).cells, written := (s.hostWrite host c).written,
                poisoned := (s.hostWrite host c).poisoned,
                patrolOp := closeIf (fun r => r.names host) s.patrolOp,
                targetedOp := closeIf (fun r => r.names host) s.targetedOp,
                migrationOp := closeIf (fun r => r.names host) s.migrationOp,
                rebuildOp := closeIf (fun r => r.names host) s.rebuildOp,
                writeBacks := s.writeBacks.filter (fun e => decide (e.host ≠ host)),
                reads := s.reads.map (fun r => if r.host = host then { r with stale := true } else r),
                ownRead := (s.markStale host).ownRead }) ∧
  (∀ (s : State) (host : Nat) (c : Content) (e : RemapEntry), (s.rankDevices (rankOf host)).Sound → s.MemoriesCanonical →
     s.copyHost = some host → s.findRemap (rankOf host) (rowOf host) = some e →
     s.TwoLinesStored (s.hostWrite host c) (rankOf host)
       (s.servingRow (rankOf host) (rowOf host) (columnOf host)) (262144 + e.spare) (columnOf host) c ∧
     (∀ op, (s.hostWrite host c).migrationOp = some op → op.isOpen = false) ∧
     ∀ onSpare : OpenLine → Bool, onSpare = (fun r => r.isOn (rankOf host) (262144 + e.spare) (columnOf host)) →
       s.hostWrite host c =
         { s with cells := (s.hostWrite host c).cells, written := (s.hostWrite host c).written,
                  poisoned := (s.hostWrite host c).poisoned,
                  patrolOp := closeIf (fun r => r.names host) (closeIf onSpare s.patrolOp),
                  targetedOp := closeIf (fun r => r.names host) (closeIf onSpare s.targetedOp),
                  migrationOp := closeIf (fun r => r.names host) s.migrationOp,
                  rebuildOp := closeIf (fun r => r.names host) (closeIf onSpare s.rebuildOp),
                  writeBacks := s.writeBacks.filter (fun e => decide (e.host ≠ host)),
                  reads := s.reads.map (fun r => if r.host = host then { r with stale := true } else r),
                  ownRead := (s.markStale host).ownRead })

/-! ## Demand path: server reads and write-backs -/

/-- Which accesses the port accepts, and the order of those it accepts (R1, R36, R37). An access at or above L_total: a
read is answered poisoned, a write discarded (no acknowledgement: log 21), and nothing else changes. While the port is
NOT_READY no access has an effect or a reply. The READY port accepts every access to a host line: it waits behind those
accepted before it for its rank port, and is presented when the access before it has received its grants or was served
without them. -/
def Obligations.PortAcceptsAndKeepsOrder : Prop :=
  (∀ (kind : AccessKind) (address : Nat) (data : Line) (mask : ByteMask) (s : State), s.handOff = none →
     s.ready = true → s.lTotal ≤ address →
     (kind = .read → exec (.accessAboveLTotal kind address) s = .next (State.finish
       { s with replies := s.replies ++ [.poisoned address] })) ∧
     (kind ≠ .read → exec (.accessAboveLTotal kind address) s = .next s.finish) ∧
     exec (.serverReadPresent address) s = exec (.accessAboveLTotal .read address) s ∧
     exec (.fullLineWritePresent address data) s = exec (.accessAboveLTotal .fullLineWrite address) s ∧
     exec (.maskedWritePresent address data mask) s = exec (.accessAboveLTotal .maskedWrite address) s) ∧
  (∀ (kind : AccessKind) (address : Nat) (data : Line) (mask : ByteMask) (s : State), s.handOff = none →
     exec (.accessNotReady kind address) s = .next s.finish ∧
     (s.ready = false → exec (.serverReadPresent address) s = .next s.finish ∧
       exec (.fullLineWritePresent address data) s = .next s.finish ∧
       exec (.maskedWritePresent address data mask) s = .next s.finish)) ∧
  (∀ (address : Nat) (data : Line) (mask : ByteMask) (s : State), s.handOff = none → s.ready = true →
     address < s.lTotal →
     exec (.serverReadPresent address) s = .next (State.finish (s.accept (.read address))) ∧
     exec (.fullLineWritePresent address data) s = .next (State.finish (s.accept (.fullLineWrite address data))) ∧
     exec (.maskedWritePresent address data mask) s = .next (State.finish (s.accept (.maskedWrite address data mask)))) ∧
  (∀ (a : ServerAccess) (s : State),
     (s.access (rankOf a.host) ≠ .idle → s.arrivalsAt (rankOf a.host) = [] → s.accept a =
       { s with arrivals := put s.arrivals (rankOf a.host) [a] }) ∧
     (∀ b rest, s.access (rankOf a.host) ≠ .idle → s.arrivalsAt (rankOf a.host) = b :: rest → s.accept a =
       { s with arrivals := put s.arrivals (rankOf a.host) (b :: rest ++ [a]) }) ∧
     (s.access (rankOf a.host) = .idle → s.arrivalsAt (rankOf a.host) = [] → s.accept a = s.present a)) ∧
  (∀ (port : Nat) (s : State), port < 4 →
     (s.arrivalsAt port = [] → s.freePort port = { s with ports := put s.ports port .idle }) ∧
     (∀ a rest, s.arrivalsAt port = a :: rest →
       s.freePort port = State.presentInOrder port rest (State.present { s with ports := put s.ports port .idle } a)) ∧
     (∀ rest, s.access port ≠ .idle → rest ≠ [] →
       State.presentInOrder port rest s = { s with arrivals := put s.arrivals port rest }) ∧
     (∀ a rest, s.access port = .idle →
       State.presentInOrder port (a :: rest) s = State.presentInOrder port rest (s.present a)) ∧
     State.presentInOrder port [] s = { s with arrivals := put s.arrivals port [] })

/-- A server read at its presentation, and SERVER_READ_GRANT (R38 to R40, R43): a queue entry serves the read without an
array access, in its turn on the port; without one the read waits for its grant, at which the line that serves the host
line is read with the demand budget in force, and the next access of the port is presented. What the devices hold
otherwise than was written is the command's operand (log 4). -/
def Obligations.ReadIsServedFromQueueOrArray : Prop :=
  (∀ (address : Nat) (s : State),
     (s.handOff = none → address < s.lTotal → s.ready = true → s.access (rankOf address) = .idle →
       s.arrivalsAt (rankOf address) = [] →
       exec (.serverReadPresent address) s = .next (State.finish (s.present (.read address)))) ∧
     (s.findWriteBack address = none →
       s.present (.read address) = { s with ports := put s.ports (rankOf address) (.readWaits address) }) ∧
     (∀ e, s.findWriteBack address = some e → (∀ x ∈ s.reads, x.port ≠ rankOf address) →
       s.present (.read address) = { s with replies := s.replies ++ [readAnswer address e.data] }) ∧
     (∀ e before x after, s.findWriteBack address = some e → s.reads = before ++ x :: after →
       x.port = rankOf address → (∀ y ∈ after, y.port ≠ rankOf address) →
       s.present (.read address) =
         { s with reads := before ++ { x with behind := x.behind ++ [readAnswer address e.data] } :: after })) ∧
  (∀ (port host : Nat) (errors : List SliceError) (s : State), s.handOff = none → s.ready = true →
     s.access port = .readWaits host → s.mayGrant port 1 = true →
     ∃ u : State, u = s.applyErrorsHost host errors ∧
       exec (.serverReadGrant port errors) s = .next (State.finish
         (State.freePort
           { s with cells := u.cells,
                    reads := s.reads ++ [{ port := port, host := host, stale := false,
                                           decode := u.decodeHost host s.policy.demandBudget, behind := [] }] } port)))

/-- SERVER_READ_DECODE_END (R38, R40 to R43, R52 to R54): the oldest read of the port (the one whose decode ends next: the
model's reading of R38, DEDUCED, log 10) is answered by its class, its write-back request is settled, and the read is
reported with source DEMAND. -/
def Obligations.ReadEndAnswersQueuesReports : Prop :=
  ∀ (port : Nat) (s : State) (before after : List ServerRead) (x : ServerRead), s.handOff = none →
    s.reads = before ++ x :: after → x.port = port → (∀ y ∈ before, y.port ≠ port) →
    ∃ u : State,
      exec (.serverReadDecodeEnd port) s = .next (State.finish (u.report x.decode .demand s.time)) ∧
      u = { s with reads := before ++ after, writeBacks := u.writeBacks, counters := u.counters,
                   replies := s.replies ++ readAnswer x.host x.decode.classify.data :: x.behind } ∧
      (x.stale = true ∨ x.decode.classify.cls = .clean ∨ x.decode.classify.cls = .erased ∨
        x.decode.classify.cls = .poisoned → u.writeBacks = s.writeBacks ∧ u.counters = s.counters) ∧
      (∀ l, x.stale = false → x.decode.classify.cls = .corrected ∨ x.decode.classify.cls = .deepCorrected →
        x.decode.classify.data = some l → s.findWriteBack x.host = none →
        (s.policy.writeBackEnable = 1 ∧ s.writeBacks.length < 12 →
          u.writeBacks = s.writeBacks ++ [{ host := x.host, data := some l }] ∧ u.counters = s.counters) ∧
        (¬ (s.policy.writeBackEnable = 1 ∧ s.writeBacks.length < 12) → u.writeBacks = s.writeBacks ∧
          u.counters = { s.counters with writeBacksSkipped := bump s.counters.writeBacksSkipped })) ∧
      (x.stale = false → x.decode.classify.cls = .uncorrectable → s.findWriteBack x.host = none →
        (s.writeBacks.length < 16 →
          u.writeBacks = s.writeBacks ++ [{ host := x.host, data := none }] ∧ u.counters = s.counters) ∧
        (16 ≤ s.writeBacks.length → u.writeBacks = s.writeBacks ∧
          u.counters = { s.counters with writeBacksSkipped := bump s.counters.writeBacksSkipped })) ∧
      (∀ e, x.stale = false → s.findWriteBack x.host = some e →
        x.decode.classify.cls = .corrected ∨ x.decode.classify.cls = .deepCorrected →
        u.writeBacks = s.writeBacks ∧ u.counters = s.counters) ∧
      (∀ e, x.stale = false → s.findWriteBack x.host = some e → x.decode.classify.cls = .uncorrectable →
        u.writeBacks = s.writeBacks.map (fun y => if y.host = x.host then { y with data := none } else y) ∧
        u.counters = s.counters)

/-- What a decode's reader reports (R42 and the tables like it): the fault event of the class's weight for a line that
serves a host line, the journal record, the counter, and the cause UNCORRECTABLE. The record carries the time given, the
kind, the reader's source, the host line, the rank, the host row (or, where no host line is served, the physical row),
and the erasure flag, devices and hypotheses tried of the decode's result (R97, R153, section 10.6). -/
def Obligations.ReportFollowsClass : Prop :=
  ∀ (s : State) (d : Decode) (src : Source) (t : PartTime),
    (∀ kind, d.record kind src t =
      { time := t, kind := kind, source := src, host := d.host, rank := d.rank,
        row := (match d.host with | some h => rowOf h | none => d.row), erasure := d.classify.erasure,
        devices := d.classify.devices, tried := d.classify.tried }) ∧
    (d.classify.cls = .clean ∨ d.classify.cls = .poisoned → s.report d src t = s) ∧
    (d.classify.cls = .erased →
      s.report d src t = { s with counters := { s.counters with erasedReads := bump s.counters.erasedReads } }) ∧
    (∀ h, d.host = some h → d.classify.cls = .corrected →
      s.report d src t = State.countCorrected
        ((s.scoredEvent d.rank (rowOf h) 4 d.classify.devices t).handRecord (d.record .corrected src t))) ∧
    (∀ h, d.host = some h → d.classify.cls = .deepCorrected →
      s.report d src t = State.countDeepCorrected
        ((s.scoredEvent d.rank (rowOf h) 16 d.classify.devices t).handRecord (d.record .deepCorrected src t))) ∧
    (∀ h, d.host = some h → d.classify.cls = .uncorrectable →
      s.report d src t = State.raiseCause
        { State.countUncorrectable ((s.scoredEvent d.rank (rowOf h) 64 d.classify.devices t).handRecord
            (d.record .uncorrectable src t)) with
          lastUncorrectable := some (h, t) } .uncorrectable) ∧
    (d.host = none → d.classify.cls = .corrected →
      s.report d src t = State.countCorrected (s.handRecord (d.record .corrected src t))) ∧
    (d.host = none → d.classify.cls = .deepCorrected →
      s.report d src t = State.countDeepCorrected (s.handRecord (d.record .deepCorrected src t))) ∧
    (d.host = none → d.classify.cls = .uncorrectable →
      s.report d src t = State.raiseCause (State.countUncorrectable (s.handRecord (d.record .uncorrectable src t)))
        .uncorrectable) ∧
    (d.classify.cls = .uncorrectable → (s.report d src t).journal.causes.uncorrectable = true)

/-- WRITE_BACK_GRANT (R55, R98, R137, R154): the oldest entry of the rank leaves the queue and its content is written to
the line that serves its host line; engines whose records are open there carry that content; nothing is closed. The
entry is the first in the queue's order whose host line lies in the rank, while the port is READY. That at the copy
column, once a write of R136 has closed the migration's record, nothing carries the content is the model's choice (log
45). -/
def Obligations.WriteBackGrantWritesOldestEntry : Prop :=
  (∀ (port : Nat) (s : State) (e : WriteBack), s.writeBackFor port = some e ↔ s.ready = true ∧
     ∃ before after, s.writeBacks = before ++ e :: after ∧ rankOf e.host = port ∧
       ∀ x ∈ before, rankOf x.host ≠ port) ∧
  ∀ (port : Nat) (s : State) (e : WriteBack), s.handOff = none → s.writeBackFor port = some e →
    s.mayGrant port 3 = true → (s.rankDevices port).Sound → s.MemoriesCanonical →
    ∃ (t : State) (row : Nat), row = s.servingRow port (rowOf e.host) (columnOf e.host) ∧ rankOf e.host = port ∧
      exec (.writeBackGrant port) s = .next (State.finish t) ∧
      s.LineStored t port row (columnOf e.host)
        (match e.data with | some l => { data := l, poison := false } | none => { data := 0, poison := true }) ∧
      t = { s with cells := t.cells, written := t.written, poisoned := t.poisoned,
                   writeBacks := s.writeBacks.filter (fun x => decide (x.host ≠ e.host)),
                   patrolOp := leaveOn port row (columnOf e.host) e.content s.patrolOp,
                   targetedOp := leaveOn port row (columnOf e.host) e.content s.targetedOp,
                   migrationOp := leaveOn port row (columnOf e.host) e.content s.migrationOp,
                   rebuildOp := leaveOn port row (columnOf e.host) e.content s.rebuildOp }

/-! ## Demand path: server writes -/

/-- Server writes at their presentation, and FULL_LINE_WRITE_GRANT (R44, R46, R51, R57): what a write to a line that is
no slot held TAKEN waits for, a mask that names no byte being acknowledged at once; at the grant of a full-line write
the data is written with valid code, the write is acknowledged, a window line is handed to the Order Unit, and the next
access of the port is presented. -/
def Obligations.WritePresentationAsksForGrant : Prop :=
  (∀ (address : Nat) (data : Line) (mask : ByteMask) (s : State),
     (s.handOff = none → address < s.lTotal → s.ready = true → s.access (rankOf address) = .idle →
       s.arrivalsAt (rankOf address) = [] →
       exec (.fullLineWritePresent address data) s = .next (State.finish (s.present (.fullLineWrite address data))) ∧
       exec (.maskedWritePresent address data mask) s =
         .next (State.finish (s.present (.maskedWrite address data mask)))) ∧
     (s.guardedSlot address = none →
       s.present (.fullLineWrite address data) =
         { s with ports := put s.ports (rankOf address) (.fullWaits address data) } ∧
       (mask = 0 → s.present (.maskedWrite address data mask) = { s with replies := s.replies ++ [.ack address] }) ∧
       (mask = BitVec.allOnes 64 → s.present (.maskedWrite address data mask) =
         { s with ports := put s.ports (rankOf address) (.fullWaits address data) }) ∧
       (mask ≠ 0 → mask ≠ BitVec.allOnes 64 → s.findWriteBack address = none →
         s.present (.maskedWrite address data mask) =
           { s with ports := put s.ports (rankOf address) (.mergeWaits address data mask) }) ∧
       (∀ e, mask ≠ 0 → mask ≠ BitVec.allOnes 64 → s.findWriteBack address = some e →
         s.present (.maskedWrite address data mask) =
           { s with ports := put s.ports (rankOf address) (.entryWaits address data mask) }))) ∧
  (∀ (port host : Nat) (data : Line) (s : State), s.handOff = none → s.ready = true →
     s.access port = .fullWaits host data → s.mayGrant port 1 = true →
     exec (.fullLineWriteGrant port) s = .next (State.finish (State.freePort
       { s.hostWrite host { data := data, poison := false } with
         replies := s.replies ++ [.ack host],
         handOff := (if s.inWindow host then
             some { offset := host - s.base, line := data, markDone := false, ackDone := false }
           else none) } port)))

/-- A write presented to a slot held TAKEN is guarded, whatever bytes its mask names (R58, R163): it is acknowledged and
SLOT_GUARD is journaled with the state field the write carried, or TAKEN when its mask does not name byte 0; the array,
the queue, the records and the mirror are unchanged. The record's fields that R163 does not name, rank 0 and row 0 among
them, are the model's choice (log 17). -/
def Obligations.TakenSlotIsGuarded : Prop :=
  ∀ (slot : Nat) (data : Line) (mask : ByteMask) (s : State), slot < 256 → s.base + 64 + slot < s.lTotal →
    (s.slot slot).state = .taken →
    (s.handOff = none → s.ready = true → s.access (rankOf (s.base + 64 + slot)) = .idle →
      s.arrivalsAt (rankOf (s.base + 64 + slot)) = [] →
      exec (.fullLineWritePresent (s.base + 64 + slot) data) s =
        .next (State.finish (s.present (.fullLineWrite (s.base + 64 + slot) data))) ∧
      exec (.maskedWritePresent (s.base + 64 + slot) data mask) s =
        .next (State.finish (s.present (.maskedWrite (s.base + 64 + slot) data mask)))) ∧
    (∃ t, s.present (.fullLineWrite (s.base + 64 + slot) data) = t ∧
      s.Journaled t { time := s.time, kind := .slotGuard slot (slotStateField data), source := .none, host := none,
                      rank := 0, row := 0, erasure := false, devices := [], tried := 0 } ∧
      t = { s with replies := s.replies ++ [.ack (s.base + 64 + slot)], writer := t.writer, waiters := t.waiters,
                   journal := t.journal, counters := t.counters }) ∧
    (∃ t, s.present (.maskedWrite (s.base + 64 + slot) data mask) = t ∧
      s.Journaled t { time := s.time, kind := .slotGuard slot (if mask.getLsbD 0 then slotStateField data else 2),
                      source := .none, host := none, rank := 0, row := 0, erasure := false, devices := [],
                      tried := 0 } ∧
      t = { s with replies := s.replies ++ [.ack (s.base + 64 + slot)], writer := t.writer, waiters := t.waiters,
                   journal := t.journal, counters := t.counters })

/-- MERGE_READ_GRANT and MERGE_DECODE_END (R47 to R50): the merge read starts a decode with the demand budget; at its
end the merged line, in which each byte the mask names is the server's and every other byte the old one, waits for the
write half, and the merge class is reported with source MERGE; where the kept bytes are lost, poison encoding waits, and
the report waits with it (when each is reported: log 11). -/
def Obligations.MergeReadFormsWriteHalf : Prop :=
  (∀ (port host : Nat) (data : Line) (mask : ByteMask) (s : State), s.handOff = none →
     (∀ errors, s.ready = true → s.access port = .mergeWaits host data mask → s.mayGrant port 1 = true →
       ∃ u : State, u = s.applyErrorsHost host errors ∧
         exec (.mergeReadGrant port errors) s = .next (State.finish
           { s with cells := u.cells,
                    ports := put s.ports port
                      (.merging host data mask (u.decodeHost host s.policy.demandBudget) false) })) ∧
     (∀ d orphan old, s.access port = .merging host data mask d orphan → d.classify.data = some old →
       exec (.mergeDecodeEnd port) s = .next (State.finish
         { s.report d .merge s.time with
           ports := put s.ports port
             (.halfWaits host { data := mergeLine old data mask, poison := false } orphan none) })) ∧
     (∀ d orphan, s.access port = .merging host data mask d orphan → d.classify.data = none →
       exec (.mergeDecodeEnd port) s = .next (State.finish
         { s with
           ports := put s.ports port
             (.halfWaits host { data := 0, poison := true } orphan (some { decode := d, ended := s.time })) }))) ∧
  (∀ (old new : Line) (mask : ByteMask) (i : Nat), i < 64 →
     (mergeLine old new mask).extractLsb' (8 * i) 8 =
       if mask.getLsbD i then new.extractLsb' (8 * i) 8 else old.extractLsb' (8 * i) 8)

/-- MASKED_WRITE_HALF_GRANT and MASKED_WRITE_ENTRY_GRANT (R47, R49 to R51, R57, R59): the line is written; a write that
is not absorbed is acknowledged and handed over; an absorbed one is acknowledged and reports its loss, an UNCORRECTABLE
merge as R42 with source MERGE, a POISONED one a POISON_ABSORB record, both with the part time at which the decode
ended; an orphaned pair reports as well, with no reply and no hand-off; a write that found a queue entry merges with its
data, or is absorbed by its poison with a POISON_ABSORB record. Then the next access of the port is presented. What the
model chooses here: the moment of an absorbed write's report (log 11), a merge read where the queue entry has left (log
20), and what the erasure, devices and tried bytes of a POISON_ABSORB record hold, and the time of one made without a
decode (log 44). -/
def Obligations.MaskedWriteCompletes : Prop :=
  (∀ (port host : Nat) (c : Content) (loss : Option MergeLoss) (s : State), s.handOff = none → s.windowTraffic = true →
     port < s.ranks →
     (s.access port = .halfWaits host c false loss →
       ∃ u : State, u = State.reportLoss { s.hostWrite host c with replies := s.replies ++ [.ack host] } loss ∧
         exec (.maskedWriteHalfGrant port) s = .next (State.finish (State.freePort
           { u with handOff := (if c.poison = false ∧ s.inWindow host = true then
                 some { offset := host - s.base, line := c.data, markDone := false, ackDone := false }
               else none) } port))) ∧
     (s.access port = .halfWaits host c true loss →
       exec (.maskedWriteHalfGrant port) s = .next (State.finish
         (((s.hostWrite host c).reportLoss loss).freePort port)))) ∧
  (∀ (s : State) (d : Decode) (t : PartTime), s.reportLoss none = s ∧
     (d.classify.cls = .poisoned → s.reportLoss (some { decode := d, ended := t }) =
       s.handRecord (d.record .poisonAbsorb .merge t)) ∧
     (d.classify.cls = .uncorrectable → s.reportLoss (some { decode := d, ended := t }) = s.report d .merge t)) ∧
  (∀ (port host : Nat) (data : Line) (mask : ByteMask) (s : State) (e : WriteBack), s.handOff = none →
     s.ready = true → s.access port = .entryWaits host data mask → s.mayGrant port 1 = true →
     s.findWriteBack host = some e →
     (∀ old, e.data = some old →
       exec (.maskedWriteEntryGrant port) s = .next (State.finish (State.freePort
         { s.hostWrite host { data := mergeLine old data mask, poison := false } with
           replies := s.replies ++ [.ack host],
           handOff := (if s.inWindow host then
               some { offset := host - s.base, line := mergeLine old data mask, markDone := false, ackDone := false }
             else none) } port))) ∧
     (e.data = none →
       ∃ u : State, u = (s.hostWrite host { data := 0, poison := true }).handRecord
           { time := s.time, kind := .poisonAbsorb, source := .merge, host := some host, rank := rankOf host,
             row := rowOf host, erasure := false, devices := [], tried := 0 } ∧
         exec (.maskedWriteEntryGrant port) s = .next (State.finish (State.freePort
           { u with replies := s.replies ++ [.ack host] } port)))) ∧
  (∀ (port host : Nat) (data : Line) (mask : ByteMask) (s : State), s.handOff = none → s.ready = true →
     s.access port = .entryWaits host data mask → s.mayGrant port 1 = true → s.findWriteBack host = none →
     exec (.maskedWriteEntryGrant port) s = .next (State.finish
       { s with ports := put s.ports port (.mergeWaits host data mask) }))

/-! ## Hand-offs, windows and control-window traffic -/

/-- TAKE_START, the take cursor and room (R164 to R166): the cursor stays on a slot of the posted set and on an empty
set, else it moves to the first slot of the set in ascending order, wrapping from 255 to 0; its POSTED slot has its take
read requested exactly while there is room for its kind and mode: 14 TAKEN slots at most, 4 targeted orders, 8
retirements and 8 RETIRE ROW slots, one QUIESCE, one EXPORT TABLES. -/
def Obligations.TakeStartsAtCursor : Prop :=
  (∀ s : State, s.takeCursor < 256 →
     (s.inPosted s.takeCursor = true → s.settleCursor = s) ∧
     ((∀ i, i < 256 → s.inPosted i = false) → s.settleCursor = s) ∧
     (∀ k, k < 256 → s.inPosted ((s.takeCursor + k) % 256) = true →
       (∀ j, j < k → s.inPosted ((s.takeCursor + j) % 256) = false) →
       s.settleCursor = { s with takeCursor := (s.takeCursor + k) % 256 })) ∧
  (∀ s : State, s.handOff = none → s.ready = true → s.ownRead = none → s.takeCursor < 256 →
     (s.slot s.takeCursor).state = .posted →
     (s.roomAllows (s.slot s.takeCursor).kind (s.slot s.takeCursor).mode = true →
       exec .takeStart s = .next (State.finish
         { s with ownRead := some { reader := .take s.takeCursor, stage := .requested, readTime := s.time } })) ∧
     (s.roomAllows (s.slot s.takeCursor).kind (s.slot s.takeCursor).mode = false →
       exec .takeStart s = .next s.finish)) ∧
  (∀ (s : State) (mode : Nat),
     (∀ kind, 14 ≤ s.takenWhere (fun _ => true) → s.roomAllows kind mode = false) ∧
     (s.takenWhere (fun _ => true) < 14 →
     (s.roomAllows 1 mode = true ↔ s.targeted.length < 4) ∧ (s.roomAllows 2 mode = true ↔ s.targeted.length < 4) ∧
     (s.roomAllows 3 0 = true ↔
       s.migrationQueue.length < 8 ∧ s.takenWhere (fun m => decide (m.kind = 3)) < 8) ∧
     (mode ≠ 0 → s.roomAllows 3 mode = true) ∧ s.roomAllows 4 mode = true ∧ s.roomAllows 5 mode = true ∧
     (s.roomAllows 6 mode = true ↔ s.takenWhere (fun m => decide (m.kind = 6)) = 0) ∧ s.roomAllows 7 mode = true ∧
     (s.roomAllows 8 mode = true ↔ s.takenWhere (fun m => decide (m.kind = 8)) = 0)))

/-- SLOT_POST and SLOT_FREE (R162): the state field of a handed-over slot line sets the slot's mirror; a slot that leaves
the posted set withdraws its take's request. -/
def Obligations.SlotHandOffSetsMirror : Prop :=
  ∀ (s : State) (h : HandOff) (slot : Nat), s.handOff = some h → h.offset = 64 + slot → slot < 256 →
    (slotStateField h.line = 1 → exec .slotPost s = .next (State.finish (State.settleCursor
      { s with handOff := none,
               slots := put s.slots slot
                 { s.slot slot with state := .posted, kind := slotKind h.line, mode := slotMode h.line } }))) ∧
    (slotStateField h.line ≠ 1 → exec .slotFree s = .next (State.finish (State.settleCursor
      { s with handOff := none, slots := put s.slots slot { s.slot slot with state := .free },
               ownRead := if s.takeSlot = some slot then none else s.ownRead })))

/-- WINDOW_ARM (R83 to R85, R89): the end is cut to 4 h after the start; the window is PAST when its end is not later
than its start or has come, else ACTIVE when its start has come, else ARMED (later: log 14); bits of the scope that name
no class are ignored; every outcome but an unclamped ARMED one has its record written; a pace review is made. -/
def Obligations.WindowArmSetsEntry : Prop :=
  (∀ (l : Line) (now : PartTime) (w : WindowEntry), w = armedEntry l now →
     w.start = BitVec.ofNat 48 (lineField l 8 6) ∧ w.scope = BitVec.ofNat 4 (lineField l 1 1) ∧
       w.tag = BitVec.ofNat 16 (lineField l 2 2) ∧
     (laterThan (BitVec.ofNat 48 (lineField l 16 6)) w.start = true →
       14400000000 < durationFromTo w.start (BitVec.ofNat 48 (lineField l 16 6)) →
       w.stop = timeAfter w.start 14400000000) ∧
     (laterThan (BitVec.ofNat 48 (lineField l 16 6)) w.start = false ∨
       durationFromTo w.start (BitVec.ofNat 48 (lineField l 16 6)) ≤ 14400000000 →
       w.stop = BitVec.ofNat 48 (lineField l 16 6)) ∧
     (laterThan w.stop w.start = false ∨ hasReached now w.stop = true → w.state = .past) ∧
     (laterThan w.stop w.start = true → hasReached now w.stop = false → hasReached now w.start = true →
       w.state = .active) ∧
     (laterThan w.stop w.start = true → hasReached now w.stop = false → hasReached now w.start = false →
       w.state = .armed)) ∧
  (∀ (s : State) (h : HandOff) (record : Nat), s.handOff = some h → h.offset = 16 + record → record < 32 →
     windowStateField h.line = 1 →
     ∃ u : State, exec .windowArm s = .next (State.finish u.askReview) ∧
       u = { s with handOff := none, windows := put s.windows record (armedEntry h.line s.time), writer := u.writer,
                    waiters := u.waiters } ∧
       ((armedEntry h.line s.time).state = .armed →
         (armedEntry h.line s.time).stop = BitVec.ofNat 48 (lineField h.line 16 6) →
         u.writer = s.writer ∧ u.waiters = s.waiters) ∧
       ((armedEntry h.line s.time).state ≠ .armed ∨
         (armedEntry h.line s.time).stop ≠ BitVec.ofNat 48 (lineField h.line 16 6) →
         u.recordWriteWaits record = true))

/-- WINDOW_CANCEL, WINDOW_EMPTY, WINDOW_STATE_NOT_ACTED_ON, WINDOW_START and WINDOW_END (R83, R85, R86, R89): CANCEL
empties the entry and its record is written; EMPTY empties it without a write; any other state leaves the entry, and the
record is written from it; an ARMED entry whose start has come becomes ACTIVE; an ACTIVE one whose end has come becomes
PAST, and not before every start that has come is taken, so that a hold handed over at one part time is unbroken (log
33); the record of either is written; each change asks for a pace review (also a CANCEL or EMPTY over an EMPTY entry:
log 34). -/
def Obligations.WindowRecordsChangeState : Prop :=
  (∀ (s : State) (h : HandOff) (record : Nat), s.handOff = some h → h.offset = 16 + record → record < 32 →
     (windowStateField h.line = 4 → ∃ u : State, exec .windowCancel s = .next (State.finish u.askReview) ∧
       u.recordWriteWaits record = true ∧
       u = { s with handOff := none, windows := put s.windows record WindowEntry.emptyEntry, writer := u.writer,
                    waiters := u.waiters }) ∧
     (windowStateField h.line = 0 → exec .windowEmpty s = .next (State.finish (State.askReview
       { s with handOff := none, windows := put s.windows record WindowEntry.emptyEntry }))) ∧
     (windowStateField h.line ≠ 0 → windowStateField h.line ≠ 1 → windowStateField h.line ≠ 4 →
       ∃ t, exec .windowStateNotActedOn s = .next (State.finish t) ∧ t.recordWriteWaits record = true ∧
         t = { s with handOff := none, writer := t.writer, waiters := t.waiters })) ∧
  (∀ (record : Nat) (s : State), s.handOff = none → record < 32 →
     ((s.window record).state = .armed → hasReached s.time (s.window record).start = true →
       ∃ u : State, exec (.windowStart record) s = .next (State.finish u.askReview) ∧
         u.recordWriteWaits record = true ∧
         u = { s with windows := put s.windows record { s.window record with state := .active }, writer := u.writer,
                      waiters := u.waiters }) ∧
     ((s.window record).state = .active → hasReached s.time (s.window record).stop = true →
       (∀ r, r < 32 → (s.window r).state = .armed → hasReached s.time (s.window r).start = false) →
       ∃ u : State, exec (.windowEnd record) s = .next (State.finish u.askReview) ∧
         u.recordWriteWaits record = true ∧
         u = { s with windows := put s.windows record { s.window record with state := .past }, writer := u.writer,
                      waiters := u.waiters }) ∧
     (∀ r, r < 32 → (s.window r).state = .armed → hasReached s.time (s.window r).start = true →
       exec (.windowEnd record) s = .next s.finish))

/-- READ_MARK_WRITE, CAUSE_ACKNOWLEDGE and OTHER_WINDOW_WRITE (R160, R177 to R179): the mark moves forward within W, is
held on a backward move, and is clamped to W beyond it, and a move that takes free above 32 sets the ROOM flag; the
causes the line names leave the pending set, and a change of the set asks for a status write; a line of any other offset
has no meaning and changes nothing. -/
def Obligations.MarkLineSettlesMarkAndCauses : Prop :=
  (∀ (s : State) (h : HandOff) (x m w : Count32), s.handOff = some h → h.offset = 2 → h.markDone = false →
     x = markField h.line → m = s.journal.mark → w = s.journal.published →
     ∃ t, exec .readMarkWrite s = .next (State.finish t) ∧
       (x = m → t.journal.mark = m) ∧
       (1 ≤ (m - x).toNat → (m - x).toNat ≤ 1024 → t.journal.mark = m) ∧
       (1024 < (m - x).toNat → (x - m).toNat ≤ (w - m).toNat → t.journal.mark = x) ∧
       (1024 < (m - x).toNat → (w - m).toNat < (x - m).toNat → t.journal.mark = w) ∧
       (t.journal.mark ≠ m → 32 < t.journalFree → t.journal.roomArmed = true) ∧
       (t.journal.mark = m ∨ t.journalFree ≤ 32 → t.journal.roomArmed = s.journal.roomArmed) ∧
       t = { s with handOff := if h.ackDone then none else some { h with markDone := true },
                    journal := { s.journal with mark := t.journal.mark, roomArmed := t.journal.roomArmed },
                    waiters := t.waiters }) ∧
  (∀ (s : State) (h : HandOff), s.handOff = some h →
     (h.offset = 2 → h.ackDone = false →
       ∃ t, exec .causeAcknowledge s = .next (State.finish t) ∧
         t.journal.causes.order = (s.journal.causes.order && !(h.line.getLsbD 32)) ∧
         t.journal.causes.journal = (s.journal.causes.journal && !(h.line.getLsbD 33)) ∧
         t.journal.causes.uncorrectable = (s.journal.causes.uncorrectable && !(h.line.getLsbD 34)) ∧
         t.journal.causes.room = (s.journal.causes.room && !(h.line.getLsbD 35)) ∧
         (t.journal.causes ≠ s.journal.causes → t.waiters.contains .status = true) ∧
         t = { s with handOff := if h.markDone then none else some { h with ackDone := true },
                      journal := { s.journal with causes := t.journal.causes }, waiters := t.waiters }) ∧
     (h.offset ≠ 2 → h.offset < 16 ∨ 48 ≤ h.offset → h.offset < 64 ∨ 320 ≤ h.offset →
       exec .otherWindowWrite s = .next (State.finish { s with handOff := none })))

/-- CW_WRITER_ADMISSION and what asks the writer for a place (R167, R174, R179; who waits: log 13): with a place the
line write enters at the tail, and a slot's DONE write makes its mirror DONE and raises ORDER; without one the request
waits behind those that wait; the oldest waiting block is admitted when its places are free, a block whose entry is a
row of its own as that row. There is a place exactly when every block that waits has such a row of its own, and a place
is left of the 32 beside the lines held and the places those blocks need (two for the status write); how the places of
waiting blocks count is the model's choice (log 13). -/
def Obligations.WriterEntersOrMakesWait : Prop :=
  (∀ s : State, s.writerHasPlace = true ↔
     (∀ w ∈ s.waiters, w = .status ∨ w = .exportLine ∨ w = .identity ∨ w = .journal) ∧
     s.writer.length + (s.waiters.map fun w => if w = .status then 2 else 1).sum + 1 ≤ 32) ∧
  (∀ (s : State) (item : WriterItem) (slot : Nat) (l : Line),
     (s.writerHasPlace = true → s.requestItem item = { s with writer := s.writer ++ [item] } ∧
       s.writer.length < 32) ∧
     (s.writerHasPlace = false → s.requestItem item = { s with waiters := s.waiters ++ [.item item] }) ∧
     (s.writerHasPlace = true → slot < 256 →
       ((s.requestDone slot l).slot slot).state = .done ∧ (s.requestDone slot l).journal.causes.order = true ∧
         s.requestDone slot l =
           { s with writer := s.writer ++ [.line (64 + slot) l], waiters := (s.requestDone slot l).waiters,
                    slots := put s.slots slot { s.slot slot with state := .done },
                    journal := { s.journal with causes := s.journal.causes.add .order } }) ∧
     (s.writerHasPlace = false → s.requestDone slot l = { s with waiters := s.waiters ++ [.slotDone slot l] })) ∧
  (∀ (s : State) (rest : List Waiter), s.handOff = none → s.writer.length < 32 →
     (∀ item, s.waiters = .item item :: rest → exec .cwWriterAdmission s = .next (State.finish
       { s with waiters := rest, writer := s.writer ++ [item] })) ∧
     (∀ slot l, s.waiters = .slotDone slot l :: rest → slot < 256 →
       ∃ t, exec .cwWriterAdmission s = .next (State.finish t) ∧ (t.slot slot).state = .done ∧
         t.journal.causes.order = true ∧
         t = { s with waiters := t.waiters, writer := s.writer ++ [.line (64 + slot) l],
                      slots := put s.slots slot { s.slot slot with state := .done },
                      journal := { s.journal with causes := s.journal.causes.add .order } }) ∧
     (s.waiters = .journal :: rest → exec .cwWriterAdmission s = exec .stagingDeparture s) ∧
     (s.waiters = .exportLine :: rest → exec .cwWriterAdmission s = exec .exportLineEntry s) ∧
     (s.waiters = .status :: rest → exec .cwWriterAdmission s = exec .statusWrite s) ∧
     (s.waiters = .identity :: rest → exec .cwWriterAdmission s = exec .restartEnd s))

/-- CW_WRITER_GRANT (R45, R85, R174): the writer's oldest write is made with valid code, with the effects of a server
write and no hand-off; a record write takes its content from the mirror entry now, with the fields of section 10.6, an
EMPTY entry's record being zero. -/
def Obligations.WriterGrantWritesOldest : Prop :=
  (∀ w : WindowEntry,
     (w.state = .empty → HoldsFields (windowLine w) []) ∧
     (w.state ≠ .empty → HoldsFields (windowLine w)
       [⟨0, 1, match w.state with | .empty => 0 | .armed => 1 | .active => 2 | .past => 3⟩, ⟨1, 1, w.scope.toNat⟩,
        ⟨2, 2, w.tag.toNat⟩, ⟨8, 6, w.start.toNat⟩, ⟨16, 6, w.stop.toNat⟩])) ∧
  ∀ (s : State) (rest : List WriterItem), s.handOff = none → s.windowTraffic = true →
    s.mayGrant s.windowRank 2 = true →
    (∀ offset l, s.writer = .line offset l :: rest → exec .cwWriterGrant s = .next (State.finish
      (State.hostWrite { s with writer := rest } (s.base + offset) { data := l, poison := false }))) ∧
    (∀ record, s.writer = .windowRecord record :: rest → exec .cwWriterGrant s = .next (State.finish
      (State.hostWrite { s with writer := rest } (s.base + (16 + record))
        { data := windowLine (s.window record), poison := false })))

/-- OWN_READ_GRANT and OWN_READ_DECODE_END (R161, R165): the line is read with the background budget and a take's slot is
held TAKEN from the grant; at the end the reader has the line, or no content, and the read is reported with source
DEMAND. -/
def Obligations.OwnReadServesItsReader : Prop :=
  ∀ (s : State) (o : OwnRead), s.handOff = none → s.ownRead = some o →
    (∀ errors, o.stage = .requested → s.windowTraffic = true → s.writer = [] → s.mayGrant s.windowRank 2 = true →
      ∃ u : State, u = s.applyErrorsHost (s.base + o.reader.offset) errors ∧
        exec (.ownReadGrant errors) s = .next (State.finish
          { s with cells := u.cells,
                   ownRead := some { o with
                     stage := .decoding (u.decodeHost (s.base + o.reader.offset) s.policy.backgroundBudget) false,
                     readTime := s.time },
                   slots := match o.reader with
                     | .take slot => put s.slots slot { s.slot slot with state := .taken }
                     | .scan _ | .window _ | .mark => s.slots })) ∧
    (∀ d stale, o.stage = .decoding d stale →
      ∃ u : State,
        exec .ownReadDecodeEnd s = .next (State.finish (u.report d .demand s.time)) ∧
        u = State.requestUnlessStale { s with ownRead := some { o with stage := .ended d.classify.data } } stale
          (s.base + o.reader.offset) d.classify)

/-! ## Takes and orders -/

/-- The end of a take with its slot in hand (R164, R165), and the lines that say so (R167, section 10.6; what the rules
leave open of them: log 17): the mirror is TAKEN with the kind and mode read, and the cursor moves on from the next
slot; the taken line is the line as read with state TAKEN, outcome and reason zero, the part time of the take and zero
results; a DONE line has its kind and parameters, the outcome, the reason, the part time and the results of its kind. -/
def Obligations.TakeEndHoldsTheOrder : Prop :=
  (∀ (s : State) (slot : Nat) (l : Line), slot < 256 →
     (s.endTake slot l).slot slot =
       { state := .taken, kind := slotKind l, mode := slotMode l, taken := takenLine l s.time } ∧
     (∀ i, i < 256 → i ≠ slot → (s.endTake slot l).slot i = s.slot i) ∧
     s.endTake slot l = State.settleCursor
       { s with slots := (s.endTake slot l).slots, ownRead := none, takeCursor := (slot + 1) % 256 } ∧
     HoldsFields (takenLine l s.time)
       [⟨0, 1, 2⟩, ⟨1, 1, slotKind l⟩, ⟨8, 6, s.time.toNat⟩, ⟨16, 16, lineField l 16 16⟩]) ∧
  (∀ (l : Line) (now : PartTime) (o : OrderOutcome) (r : OrderReason) (results : List FieldValue),
     (∀ f ∈ results, 32 ≤ f.off ∧ f.off + f.bytes ≤ 64) →
     results.Pairwise (fun f g => f.off + f.bytes ≤ g.off) →
     HoldsFields (doneLine l now o r results)
       ([⟨0, 1, 3⟩, ⟨1, 1, slotKind l⟩, ⟨2, 1, o.code⟩, ⟨3, 1, r.code⟩, ⟨8, 6, now.toNat⟩,
         ⟨16, 16, lineField l 16 16⟩] ++ results)) ∧
  [OrderOutcome.ok, .okDegraded, .refused, .abandoned].map OrderOutcome.code = [1, 2, 3, 4] ∧
  [OrderReason.none, .clamped, .badKind, .badLine, .badRank, .badRow, .badDevice, .already, .noSpare, .markExists,
    .notInUse, .retained].map OrderReason.code = [0, 1, 2, 3, 4, 5, 6, 7, 8, 9, 10, 11]

/-- TAKE_UNUSABLE_LINE, TAKE_NOT_POSTED, TAKE_UNKNOWN_KIND and TAKE_LACK_OF_ROOM (R165, steps 1 to 4; room also judged
for an unchanged kind and mode: log 12): the slot leaves the set with its mirror FREE, no slot write is made, and the
cursor moves on; or the order is refused with BAD_KIND; or the mirror returns to POSTED with the kind and mode read, and
the cursor stops. -/
def Obligations.UndispatchedTakesEnd : Prop :=
  (∀ (s : State) (o : OwnRead) (slot : Nat) (line : Option Line), s.handOff = none → slot < 256 →
     s.ownRead = some o → o.reader = .take slot → o.stage = .ended line →
     ∃ t, t = State.settleCursor { s with slots := put s.slots slot { s.slot slot with state := .free },
                                          ownRead := none, takeCursor := (slot + 1) % 256 } ∧
       (t.slot slot).state = .free ∧ t.writer = s.writer ∧
       (line = none → exec .takeUnusableLine s = .next (State.finish t)) ∧
       (∀ l, line = some l → slotStateField l ≠ 1 → exec .takeNotPosted s = .next (State.finish t))) ∧
  (∀ (s : State) (slot : Nat) (l : Line), s.handOff = none → slot < 256 → s.TakeReads slot l → slotStateField l = 1 →
     slotKind l = 0 ∨ 8 < slotKind l →
     exec .takeUnknownKind s = .next (State.finish
       ((s.endTake slot l).requestDone slot (doneLine l s.time .refused .badKind [])))) ∧
  (∀ (s : State) (slot : Nat) (l : Line), s.handOff = none → slot < 256 → s.TakeReads slot l → slotStateField l = 1 →
     1 ≤ slotKind l → slotKind l ≤ 8 → s.roomAllows (slotKind l) (slotMode l) = false →
     exec .takeLackOfRoom s = .next (State.finish
       { s with ownRead := none,
                slots := put s.slots slot
                  { s.slot slot with state := .posted, kind := slotKind l, mode := slotMode l } }))

/-- SCRUB_RANGE and PROBE_LINE (R115, R116): a line at or above L_total is refused with BAD_LINE; else the order joins the
targeted queue with its range, budget and reason, and its slot is written TAKEN. -/
def Obligations.TargetedOrderIsQueued : Prop :=
  ∀ (s : State) (slot : Nat) (l : Line) (first count budget : Nat),
    first = lineField l 16 4 → count = lineField l 20 4 → budget = lineField l 24 1 →
    (s.DispatchDue slot l 1 → s.lTotal ≤ first → exec .scrubRange s = .next (State.finish
      ((s.endTake slot l).requestDone slot (doneLine l s.time .refused .badLine [])))) ∧
    (s.DispatchDue slot l 1 → first < s.lTotal →
      ∃ o : TargetedOrder, exec .scrubRange s = .next (State.finish (State.requestItem
          { s.endTake slot l with targeted := s.targeted ++ [o] } (.line (64 + slot) (takenLine l s.time)))) ∧
        o = { slot := slot, kind := .scrubRange, firstLine := first,
              endLine := if count = 0 then s.lTotal else min s.lTotal (first + count), cursor := first,
              budget := min 8 budget, urgent := decide (lineField l 25 1 ≠ 0),
              clamped := decide ((count ≠ 0 ∧ s.lTotal < first + count) ∨ 8 < budget),
              counts := { visited := 0, erased := 0, poisoned := 0, corrected := 0, deepCorrected := 0,
                          uncorrectable := 0, writesDropped := 0 } }) ∧
    (s.DispatchDue slot l 2 → s.lTotal ≤ first → exec .probeLine s = .next (State.finish
      ((s.endTake slot l).requestDone slot (doneLine l s.time .refused .badLine [])))) ∧
    (s.DispatchDue slot l 2 → first < s.lTotal →
      ∃ o : TargetedOrder, exec .probeLine s = .next (State.finish (State.requestItem
          { s.endTake slot l with targeted := s.targeted ++ [o] } (.line (64 + slot) (takenLine l s.time)))) ∧
        o = { slot := slot, kind := .probeLine, firstLine := first, endLine := first + 1, cursor := first,
              budget := min 8 budget, urgent := true, clamped := decide (8 < budget),
              counts := { visited := 0, erased := 0, poisoned := 0, corrected := 0, deepCorrected := 0,
                          uncorrectable := 0, writesDropped := 0 } })

/-- RETIRE_ROW_MIGRATE (R70, R130, R132, R165): the first check that fails refuses the order; an order that passes them all
joins the migration queue, its row's fault entry becomes PENDING, and its slot is written TAKEN. That an order whose mode
names neither MIGRATE nor RESTORE is carried out by this command, and refused by it, is the model's choice (log 19). -/
def Obligations.RetireRowIsCheckedInOrder : Prop :=
  ∀ (s u : State) (slot : Nat) (l : Line) (rank row : Nat), s.DispatchDue slot l 3 → slotMode l ≠ 1 →
    u = s.endTake slot l → rank = lineField l 16 1 → row = lineField l 20 4 →
    (s.ranks ≤ rank → exec .retireRowMigrate s = .next (State.finish
      (u.requestDone slot (doneLine l s.time .refused .badRank [])))) ∧
    (rank < s.ranks → 262144 ≤ row → exec .retireRowMigrate s = .next (State.finish
      (u.requestDone slot (doneLine l s.time .refused .badRow [])))) ∧
    (rank < s.ranks → row < 262144 → slotMode l ≠ 0 → exec .retireRowMigrate s = .next (State.finish
      (u.requestDone slot (doneLine l s.time .refused .badKind [])))) ∧
    (rank < s.ranks → row < 262144 → slotMode l = 0 → s.rowMigrating rank row = true ∨ s.rowQueued rank row = true →
      exec .retireRowMigrate s = .next (State.finish
        (u.requestDone slot (doneLine l s.time .refused .already [])))) ∧
    (rank < s.ranks → row < 262144 → slotMode l = 0 → s.rowMigrating rank row = false → s.rowQueued rank row = false →
      s.freeSpares rank ≤ s.waitingCount rank → exec .retireRowMigrate s = .next (State.finish
        (u.requestDone slot (doneLine l s.time .refused .noSpare [])))) ∧
    (rank < s.ranks → row < 262144 → slotMode l = 0 → s.rowMigrating rank row = false → s.rowQueued rank row = false →
      s.waitingCount rank < s.freeSpares rank →
      exec .retireRowMigrate s = .next (State.finish (State.requestItem
        (State.startMigration
          { u with table := s.table.map (fun e =>
                     if e.keyed rank row then { e with retire := .pending } else e),
                   migrationQueue := s.migrationQueue ++
                     [{ rank := rank, row := row, origin := .order, slot := some slot }] })
        (.line (64 + slot) (takenLine l s.time)))))

/-- The start of a migration (R127, R132): with none in progress the oldest retirement leaves the queue, the rank's FREE
spare row of lowest index becomes IN_USE, and the row's remap entry is created or changed with cursor 0; every other spare
row, every other row's remap entry and all else is as it was, and with a migration in progress nothing starts. -/
def Obligations.MigrationStartsWithOldest : Prop :=
  ∀ (s : State) (q : Retirement) (rest : List Retirement) (i : Nat),
    (∀ m, s.migration = some m → s.startMigration = s) ∧
    (s.migration = none → s.migrationQueue = q :: rest → q.rank < 4 → i < 128 → s.spareState q.rank i = .free →
      (∀ j, j < i → s.spareState q.rank j ≠ .free) →
      ∃ t, t = s.startMigration ∧ t.migrationQueue = rest ∧
        t.migration = some { rank := q.rank, row := q.row, origin := q.origin, slot := q.slot, corrected := 0,
                             deepCorrected := 0, uncorrectable := 0, poisoned := 0, copiesDropped := 0 } ∧
        t.spareState q.rank i = .inUse ∧
        (∀ r j, ¬ (r = q.rank ∧ j = i) → t.spareState r j = s.spareState r j) ∧
        (∀ r w, ¬ (r = q.rank ∧ w = q.row) → t.findRemap r w = s.findRemap r w) ∧
        (s.findRemap q.rank q.row = none →
          t.remaps = s.remaps ++ [{ rank := q.rank, row := q.row, spare := i, earlier := none, state := .migrating,
                                    cursor := 0, origin := q.origin }]) ∧
        (∀ e, s.findRemap q.rank q.row = some e →
          t.findRemap q.rank q.row =
            some { e with spare := i, earlier := some e.spare, state := .migrating, cursor := 0, origin := q.origin }) ∧
        t = { s with migrationQueue := t.migrationQueue, migration := t.migration, spares := t.spares,
                     remaps := t.remaps })

/-- RETIRE_ROW_RESTORE (R71, R127, R140; no earlier spare row is written as 255: log 17): the first check that fails
refuses the order; else the FREE spare row of lowest index serves the row at once, the row's fault entry is removed,
ROW_RETIRED is journaled with origin RESTORE, and the slot is written DONE with the spare row index. -/
def Obligations.RestoreRetiresAtOnce : Prop :=
  (∀ (s : State) (rank : Nat),
     (∀ i, s.lowestFree rank = some i ↔ i < 128 ∧ s.spareState rank i = .free ∧
       ∀ j, j < i → s.spareState rank j ≠ .free) ∧
     (s.lowestFree rank = none ↔ ∀ i, i < 128 → s.spareState rank i ≠ .free) ∧
     s.freeSpares rank = Set.ncard {i | i < 128 ∧ s.spareState rank i = .free} ∧
     s.waitingCount rank = (s.migrationQueue.filter fun q => decide (q.rank = rank)).length) ∧
  ∀ (s u : State) (slot : Nat) (l : Line) (rank row i : Nat), s.DispatchDue slot l 3 → slotMode l = 1 →
    u = s.endTake slot l → rank = lineField l 16 1 → row = lineField l 20 4 →
    (s.ranks ≤ rank → exec .retireRowRestore s = .next (State.finish
      (u.requestDone slot (doneLine l s.time .refused .badRank [])))) ∧
    (rank < s.ranks → 262144 ≤ row → exec .retireRowRestore s = .next (State.finish
      (u.requestDone slot (doneLine l s.time .refused .badRow [])))) ∧
    (rank < s.ranks → row < 262144 → s.findRemap rank row = none → s.rowQueued rank row = false →
      s.freeSpares rank ≤ s.waitingCount rank → exec .retireRowRestore s = .next (State.finish
        (u.requestDone slot (doneLine l s.time .refused .noSpare [])))) ∧
    (rank < s.ranks → row < 262144 → (s.findRemap rank row).isSome = true ∨ s.rowQueued rank row = true →
      exec .retireRowRestore s = .next (State.finish
        (u.requestDone slot (doneLine l s.time .refused .already [])))) ∧
    (rank < s.ranks → row < 262144 → s.findRemap rank row = none → s.rowQueued rank row = false →
      s.waitingCount rank < s.freeSpares rank → rank < 4 → s.lowestFree rank = some i →
      ∃ v : State,
        v = { u with spares := (u.setSpareState rank i .inUse).spares,
                     remaps := s.remaps ++ [{ rank := rank, row := row, spare := i, earlier := none, state := .active,
                                              cursor := 128, origin := .restore }] } ∧
        v.servingRow rank row 0 = 262144 + i ∧
        exec .retireRowRestore s = .next (State.finish
          (((v.removeEntry rank row).handPlain (.rowRetired i .restore row 0 0 0 0 0) none rank row []).requestDone slot
            (doneLine l s.time .ok .none [byteField 32 i, byteField 33 255]))))

/-- MARK_DEVICE_REBUILD and MARK_DEVICE_ERASE_ONLY (R147, R148; a mode that names none is carried out as the REBUILD
row, log 19): the checks in their order; a refused order is written DONE; else the device is marked, and the slot is
written DONE with the position, whether a rebuild was started, and OK_DEGRADED with NO_SPARE where device 19 is no
longer SPARE. -/
def Obligations.MarkOrderMarksDevice : Prop :=
  (∀ (s : State) (l : Line) (rank device : Nat), slotKind l = 4 → rank = lineField l 16 1 → device = lineField l 17 1 →
     (s.ranks ≤ rank → s.markCheck l = some .badRank) ∧
     (rank < s.ranks → 20 ≤ device ∨ (s.rankDevices rank).stateOf device = .replaced →
       s.markCheck l = some .badDevice) ∧
     (rank < s.ranks → device < 20 → (s.rankDevices rank).stateOf device ≠ .replaced →
       (2 < slotMode l → s.markCheck l = some .badKind) ∧
       (slotMode l ≤ 2 → device = 19 → (s.rankDevices rank).stateOf 19 = .spare →
         s.markCheck l = some .notInUse) ∧
       (slotMode l ≤ 2 → ¬ (device = 19 ∧ (s.rankDevices rank).stateOf 19 = .spare) →
         ((s.rankDevices rank).markedDevice.isSome = true → s.markCheck l = some .markExists) ∧
         ((s.rankDevices rank).markedDevice = none → slotMode l = 2 → (s.rankDevices rank).stateOf 19 ≠ .spare →
           s.markCheck l = some .noSpare) ∧
         ((s.rankDevices rank).markedDevice = none → slotMode l ≠ 2 ∨ (s.rankDevices rank).stateOf 19 = .spare →
           s.markCheck l = none)))) ∧
  (∀ (s u : State) (slot : Nat) (l : Line) (rank device m : Nat), s.DispatchDue slot l 4 → u = s.endTake slot l →
     rank = lineField l 16 1 → device = lineField l 17 1 →
     (∀ r, slotMode l ≠ 1 → slotMode l ≠ 2 → s.markCheck l = some r → exec .markDeviceRebuild s = .next (State.finish
       (u.requestDone slot (doneLine l s.time .refused r [])))) ∧
     (∀ r, slotMode l = 1 → s.markCheck l = some r → exec .markDeviceEraseOnly s = .next (State.finish
       (u.requestDone slot (doneLine l s.time .refused r [])))) ∧
     (slotMode l = 0 → s.markCheck l = none → (s.rankDevices rank).positionOf device = some m →
       (s.rankDevices rank).stateOf 19 = .spare → exec .markDeviceRebuild s = .next (State.finish
         ((u.markDevice rank device .rebuild .order).requestDone slot
           (doneLine l s.time .ok .none [byteField 32 m, byteField 33 1, ⟨36, 4, 0⟩])))) ∧
     (slotMode l = 0 → s.markCheck l = none → (s.rankDevices rank).positionOf device = some m →
       (s.rankDevices rank).stateOf 19 ≠ .spare → exec .markDeviceRebuild s = .next (State.finish
         ((u.markDevice rank device .rebuild .order).requestDone slot
           (doneLine l s.time .okDegraded .noSpare [byteField 32 m, byteField 33 0, ⟨36, 4, 0⟩])))) ∧
     (slotMode l = 1 → s.markCheck l = none → (s.rankDevices rank).positionOf device = some m →
       exec .markDeviceEraseOnly s = .next (State.finish
         ((u.markDevice rank device .eraseOnly .order).requestDone slot
           (doneLine l s.time .ok .none [byteField 32 m, byteField 33 0, ⟨36, 4, 0⟩])))))

/-- MARK_DEVICE_RESTORE (R150; the rebuild record stays as it was: log 31): a refused order is written DONE; else the
device is REPLACED, device 19 is ACTIVE and carries its position at once, the table is told, DEVICE_MARKED is journaled
(row 0, which R150 does not carry: log 17), and the slot is written DONE. -/
def Obligations.RestoreMarkMovesPosition : Prop :=
  ∀ (s u : State) (slot : Nat) (l : Line) (rank device m : Nat), s.DispatchDue slot l 4 → u = s.endTake slot l →
    slotMode l = 2 → rank = lineField l 16 1 → device = lineField l 17 1 →
    (∀ r, s.markCheck l = some r → exec .markDeviceRestore s = .next (State.finish
      (u.requestDone slot (doneLine l s.time .refused r [])))) ∧
    (s.markCheck l = none → (s.rankDevices rank).Sound → (s.rankDevices rank).positionOf device = some m → rank < 4 →
      ∃ v : State, v.rankDevices rank =
          { s.rankDevices rank with states := (v.rankDevices rank).states, posMap := (v.rankDevices rank).posMap } ∧
        (v.rankDevices rank).stateOf device = .replaced ∧ (v.rankDevices rank).stateOf 19 = .active ∧
        (∀ d, d < 19 → d ≠ device → (v.rankDevices rank).stateOf d = (s.rankDevices rank).stateOf d) ∧
        (v.rankDevices rank).carrier m = 19 ∧
        (∀ p, p < 19 → p ≠ m → (v.rankDevices rank).carrier p = (s.rankDevices rank).carrier p) ∧
        (∀ r, r < 4 → r ≠ rank → v.rankDevices r = s.rankDevices r) ∧ v = { u with devices := v.devices } ∧
        exec .markDeviceRestore s = .next (State.finish
          (((v.stripDevice rank device).handPlain
            (.deviceMarked m .restore .order false false (s.tally rank device)) none rank 0 [device]).requestDone slot
            (doneLine l s.time .ok .none [byteField 32 m, byteField 33 0, ⟨36, 4, 0⟩]))))

/-- A marking in mode REBUILD or ERASE_ONLY (R74, R76, R148): the device is MARKED and keeps its position; a rebuild
starts only in mode REBUILD with device 19 SPARE; entries of set exactly that device go, others lose it; its tally is 0,
its suspect flag clear, and the rank's other flags are cleared exactly where the recomputed tally is below the mark
threshold (R74); DEVICE_MARKED is journaled with the tally it had (row 0, which R148 does not carry: log 17). That a
marking which starts no rebuild leaves the rebuild cursor, start time and four counts as they stand is the model's
choice (log 31). -/
def Obligations.MarkingActsAsOne : Prop :=
  ∀ (s t : State) (rank device m : Nat) (mode : MarkMode) (origin : Origin), rank < 4 → device < 20 →
    2 ≤ s.policy.markThreshold → mode ≠ .restore → (s.rankDevices rank).positionOf device = some m →
    t = s.markDevice rank device mode origin →
    (t.rankDevices rank).stateOf device = .marked ∧
    (∀ d, d < 20 → d ≠ device → (t.rankDevices rank).stateOf d = (s.rankDevices rank).stateOf d) ∧
    (t.rankDevices rank).posMap = (s.rankDevices rank).posMap ∧
    (mode = .rebuild → (s.rankDevices rank).stateOf 19 = .spare → (t.rankDevices rank).inFlight = true ∧
      (t.rankDevices rank).cursor = 0 ∧ (t.rankDevices rank).startTime = s.time ∧
      (t.rankDevices rank).corrected = 0 ∧ (t.rankDevices rank).uncorrectable = 0 ∧
      (t.rankDevices rank).poisoned = 0 ∧ (t.rankDevices rank).writesDropped = 0) ∧
    (mode = .eraseOnly ∨ (s.rankDevices rank).stateOf 19 ≠ .spare →
      (t.rankDevices rank).inFlight = (s.rankDevices rank).inFlight ∧
      (t.rankDevices rank).cursor = (s.rankDevices rank).cursor ∧
      (t.rankDevices rank).startTime = (s.rankDevices rank).startTime ∧
      (t.rankDevices rank).corrected = (s.rankDevices rank).corrected ∧
      (t.rankDevices rank).uncorrectable = (s.rankDevices rank).uncorrectable ∧
      (t.rankDevices rank).poisoned = (s.rankDevices rank).poisoned ∧
      (t.rankDevices rank).writesDropped = (s.rankDevices rank).writesDropped) ∧
    (∀ r, r < 4 → r ≠ rank → t.rankDevices r = s.rankDevices r) ∧
    t.tally rank device = 0 ∧ t.isSuspect rank device = false ∧
    (∀ d, d < 20 → t.isSuspect rank d = (s.isSuspect rank d && decide (s.policy.markThreshold ≤ t.tally rank d))) ∧
    (∀ r d, r < 4 → d < 20 → r ≠ rank → t.isSuspect r d = s.isSuspect r d) ∧
    (∀ e, e ∈ t.table ↔ ∃ x ∈ s.table, (x.rank ≠ rank ∧ e = x) ∨
      (x.rank = rank ∧ x.devices ≠ addToSet 0 device ∧ e = { x with devices := dropFromSet x.devices device })) ∧
    (∃ u : State, u = { s with devices := t.devices, table := t.table, suspects := t.suspects } ∧
      t = u.handPlain
        (.deviceMarked m mode origin (decide (mode = .rebuild) && decide ((s.rankDevices rank).stateOf 19 = .spare))
          (decide (mode = .rebuild) && decide ((s.rankDevices rank).stateOf 19 ≠ .spare)) (s.tally rank device))
        none rank 0 [device])

/-- SET_POLICY (R109, R168, R178, section 10.6): each value is kept in its range, and outside it goes to the nearer
limit; the record replaces the one in force as a whole; credit and owed are cut to the new B; the slot is written DONE
with the record put in force, CLAMPED when a value was changed. The count meets the new N after the examination's
records (log 36). -/
def Obligations.SetPolicyClampsAndActs : Prop :=
  ∀ (s : State) (slot : Nat) (l : Line) (p : Policy), s.DispatchDue slot l 5 → p = clampPolicy (policyOfLine l) →
    ∃ t u : State,
      exec .setPolicy s = .next (State.finish (t.requestDone slot
        (policyDoneLine s.time (if p = policyOfLine l then .none else .clamped) p))) ∧
      u = State.review { s.endTake slot l with
        policy := p,
        patrol := { s.patrol with credit := min s.patrol.credit (p.opsPerInterval * 256),
                                  owed := min s.patrol.owed p.opsPerInterval } } ∧
      t = (u.examineAll).checkCoalesce ∧
      (u.examineAll.journal.coalesce < p.coalesceCount → u.examineAll.checkCoalesce = u.examineAll) ∧
      (p.coalesceCount ≤ u.examineAll.journal.coalesce → t.journal.causes.journal = true ∧ t.journal.coalesce = 0 ∧
        t.journal.holdoff = none) ∧
      HoldsFields (policyDoneLine s.time (if p = policyOfLine l then .none else .clamped) p)
        [⟨0, 1, 3⟩, ⟨1, 1, 5⟩, ⟨2, 1, 1⟩, ⟨3, 1, if p = policyOfLine l then 0 else 1⟩, ⟨8, 6, s.time.toNat⟩,
         ⟨16, 1, p.patrolEnable⟩, ⟨17, 1, p.opsPerInterval⟩, ⟨18, 1, p.markThreshold⟩, ⟨19, 1, p.autoRetire⟩,
         ⟨20, 1, p.autoMark⟩, ⟨21, 1, p.demandBudget⟩, ⟨22, 1, p.backgroundBudget⟩, ⟨23, 1, p.writeBackEnable⟩,
         ⟨24, 1, p.coalesceCount⟩, ⟨26, 2, p.minRate⟩, ⟨28, 2, p.decayPeriod⟩, ⟨30, 2, p.retireThreshold⟩,
         ⟨32, 4, p.patrolPeriod⟩, ⟨36, 2, p.holdoff⟩, ⟨38, 2, p.statusInterval⟩] ∧
      policyOfLine l =
        { patrolEnable := lineField l 16 1, opsPerInterval := lineField l 17 1, markThreshold := lineField l 18 1,
          autoRetire := lineField l 19 1, autoMark := lineField l 20 1, demandBudget := lineField l 21 1,
          backgroundBudget := lineField l 22 1, writeBackEnable := lineField l 23 1, coalesceCount := lineField l 24 1,
          minRate := lineField l 26 2, decayPeriod := lineField l 28 2, retireThreshold := lineField l 30 2,
          patrolPeriod := lineField l 32 4, holdoff := lineField l 36 2, statusInterval := lineField l 38 2 } ∧
      p =
        { patrolEnable := max 0 (min 1 (lineField l 16 1)), opsPerInterval := max 1 (min 64 (lineField l 17 1)),
          markThreshold := max 2 (min 64 (lineField l 18 1)), autoRetire := max 0 (min 1 (lineField l 19 1)),
          autoMark := max 0 (min 1 (lineField l 20 1)), demandBudget := max 0 (min 2 (lineField l 21 1)),
          backgroundBudget := max 0 (min 8 (lineField l 22 1)), writeBackEnable := max 0 (min 1 (lineField l 23 1)),
          coalesceCount := max 1 (min 64 (lineField l 24 1)), minRate := max 1 (min 16384 (lineField l 26 2)),
          decayPeriod := max 1 (min 65535 (lineField l 28 2)),
          retireThreshold := max 8 (min 1023 (lineField l 30 2)),
          patrolPeriod := max 60 (min 604800 (lineField l 32 4)), holdoff := max 10 (min 65535 (lineField l 36 2)),
          statusInterval := max 100 (min 65535 (lineField l 38 2)) } ∧
      t.policy = p ∧ p.patrolEnable ≤ 1 ∧ p.autoRetire ≤ 1 ∧ p.autoMark ≤ 1 ∧ p.writeBackEnable ≤ 1 ∧
      1 ≤ p.opsPerInterval ∧ p.opsPerInterval ≤ 64 ∧ 2 ≤ p.markThreshold ∧ p.markThreshold ≤ 64 ∧
      p.demandBudget ≤ 2 ∧ p.backgroundBudget ≤ 8 ∧ 1 ≤ p.coalesceCount ∧ p.coalesceCount ≤ 64 ∧
      1 ≤ p.minRate ∧ p.minRate ≤ 16384 ∧ 1 ≤ p.decayPeriod ∧ p.decayPeriod ≤ 65535 ∧ 8 ≤ p.retireThreshold ∧
      p.retireThreshold ≤ 1023 ∧ 60 ≤ p.patrolPeriod ∧ p.patrolPeriod ≤ 604800 ∧ 10 ≤ p.holdoff ∧
      p.holdoff ≤ 65535 ∧ 100 ≤ p.statusInterval ∧ p.statusInterval ≤ 65535

/-- QUIESCE and RESUME (R169, R170): with the flag clear and no line open QUIESCE sets the flag and is done; with a line
open it waits, TAKEN, and is done when a record becomes NONE with no other open; with the flag set it is done. RESUME
clears the flag, and abandons a waiting QUIESCE first. -/
def Obligations.QuiesceAndResumeSetFlag : Prop :=
  ∀ (s : State) (slot : Nat) (l : Line),
    (s.quiesceSlot = none ∨ s.noOpenLine = false → s.checkQuiesce = s) ∧
    (∀ i, s.quiesceSlot = some i → s.noOpenLine = true → s.checkQuiesce =
      State.requestDone { s with quiesceSlot := none } i (doneLine (s.slot i).taken s.time .ok .none [])) ∧
    (s.DispatchDue slot l 6 → s.quiesced = true → exec .quiesce s = .next (State.finish
      ((s.endTake slot l).requestDone slot (doneLine l s.time .ok .none [])))) ∧
    (s.DispatchDue slot l 6 → s.quiesced = false → s.noOpenLine = true → exec .quiesce s = .next (State.finish
      (State.requestDone { s.endTake slot l with quiesced := true } slot (doneLine l s.time .ok .none [])))) ∧
    (s.DispatchDue slot l 6 → s.quiesced = false → s.noOpenLine = false → exec .quiesce s = .next (State.finish
      (State.requestItem { s.endTake slot l with quiesced := true, quiesceSlot := some slot }
        (.line (64 + slot) (takenLine l s.time))))) ∧
    (s.DispatchDue slot l 7 → s.quiesceSlot = none → exec .resume s = .next (State.finish
      (State.requestDone { s.endTake slot l with quiesced := false } slot (doneLine l s.time .ok .none [])))) ∧
    (∀ q u : State, ∀ i, s.DispatchDue slot l 7 → s.quiesceSlot = some i →
      q = { s.endTake slot l with quiesced := false, quiesceSlot := none } →
      u = q.requestDone i (doneLine (q.slot i).taken s.time .abandoned .none []) →
      exec .resume s = .next (State.finish (u.requestDone slot (doneLine l s.time .ok .none []))))

/-- EXPORT_TABLES and EXPORT_LINE_ENTRY (R79, R142, R158, R171, section 10.6; a retirement's slot byte where it has no
slot, and the cursor byte of one that waits, are unstated values: log 18): the export number rises by one, the snapshot
is taken and the slot stays TAKEN; its lines, in ascending offset and with the fields of section 10.6, enter the writer
one at a time, and after the last the slot is written DONE with the number and the two entry counts. The model's
choices: the slot's TAKEN write asks for its place before the first line (log 38); the snapshot is gone as the last line
enters, also when the DONE write must wait (log 32); the number goes on past 4,294,967,295, with its low 4 bytes written
(log 30). -/
def Obligations.ExportWritesItsSnapshot : Prop :=
  (∃ slotOfNone cursorOfWaiting : Nat, ∀ (s : State) (number : Nat),
     ∃ (header : Line) (map tally spare : Nat → Line) (remaps : List RemapEntry) (entries : List FaultEntry)
       (retirements : List (List FieldValue)),
       s.exportLines number =
         [(0, header)] ++ (List.range s.ranks).flatMap (fun r => [(1 + 2 * r, map r), (2 + 2 * r, tally r)]) ++
           (List.range s.ranks).map (fun r => (9 + r, spare r)) ++
           (List.range 3).map (fun i => (13 + i, recordLine 16 ((retirements.drop (4 * i)).take 4))) ++
           (List.range ((remaps.length + 3) / 4)).map (fun i => (16 + i, recordLine 16
             (((remaps.map fun e =>
               [⟨0, 1, e.rank⟩, ⟨1, 1, match e.state with | .migrating => 0 | .active => 1⟩, ⟨2, 1, e.origin.code⟩,
                ⟨3, 1, e.cursor⟩, ⟨4, 1, e.spare⟩, ⟨5, 1, e.earlier.getD 255⟩, ⟨8, 4, e.row⟩]).drop (4 * i)).take 4))) ++
           (List.range ((entries.length + 1) / 2)).map (fun i => (256 + i, recordLine 32
             (((entries.map fun e =>
               [⟨0, 1, e.rank⟩, ⟨1, 1, match e.retire with | .none => 0 | .advised => 1 | .pending => 2⟩, ⟨2, 2, e.score⟩,
                ⟨4, 4, e.row⟩, ⟨8, 2, e.events⟩, ⟨12, 4, e.devices.toNat⟩, ⟨16, 6, e.firstSeen.toNat⟩,
                ⟨24, 6, e.lastSeen.toNat⟩]).drop (2 * i)).take 2))) ∧
       retirements =
         (match s.migration with
          | none => []
          | some m => [[⟨0, 1, m.rank⟩, ⟨1, 1, m.origin.code⟩, ⟨2, 1, m.slot.getD slotOfNone⟩, ⟨3, 1, 1⟩,
              ⟨4, 1, ((s.findRemap m.rank m.row).map RemapEntry.cursor).getD 0⟩, ⟨8, 4, m.row⟩]]) ++
         s.migrationQueue.map (fun q => [⟨0, 1, q.rank⟩, ⟨1, 1, q.origin.code⟩, ⟨2, 1, q.slot.getD slotOfNone⟩,
           ⟨3, 1, 0⟩, ⟨4, 1, cursorOfWaiting⟩, ⟨8, 4, q.row⟩]) ∧
       remaps.Perm s.remaps ∧ remaps.Pairwise (fun a b => a.rank < b.rank ∨ (a.rank = b.rank ∧ a.row ≤ b.row)) ∧
       entries.Perm s.table ∧ entries.Pairwise (fun a b => a.rank < b.rank ∨ (a.rank = b.rank ∧ a.row ≤ b.row)) ∧
       HoldsFields header [⟨0, 4, number⟩, ⟨4, 6, s.time.toNat⟩, ⟨10, 2, s.table.length⟩, ⟨12, 2, s.remaps.length⟩,
         ⟨14, 1, retirements.length⟩, ⟨15, 1, s.ranks⟩, ⟨16, 4, s.counters.untrackedEvents⟩] ∧
       ∀ (r : Nat) (d : RankDevices), d = s.rankDevices r →
         HoldsFields (map r)
           ((List.range 20).map (fun x => ⟨x, 1, match d.stateOf x with
               | .active => 0 | .spare => 1 | .marked => 2 | .replaced => 3⟩) ++
            (List.range 19).map (fun p => ⟨20 + p, 1, d.carrier p⟩) ++
            [⟨39, 1, if d.inFlight then 1 else 0⟩, ⟨40, 4, d.cursor⟩, ⟨44, 6, d.startTime.toNat⟩]) ∧
         HoldsFields (tally r)
           ((List.range 20).map (fun x => ⟨2 * x, 2, s.tally r x⟩) ++
            [⟨40, 3, (nth s.suspects r 0).toNat⟩, ⟨44, 4, d.corrected⟩, ⟨48, 4, d.uncorrectable⟩, ⟨52, 4, d.poisoned⟩,
             ⟨56, 4, d.writesDropped⟩]) ∧
         (∀ x, x < 20 → (nth s.suspects r 0).getLsbD x = s.isSuspect r x) ∧
         (∀ b, 32 ≤ b → b < 64 → lineField (spare r) b 1 = 0) ∧
         ∀ x, x < 128 → lineField (spare r) (x / 4) 1 / 4 ^ (x % 4) % 4 =
           match s.spareState r x with | .free => 0 | .inUse => 1 | .discarded => 2) ∧
  (∀ (size : Nat) (records : List (List FieldValue)), size * records.length ≤ 64 →
     (∀ fs ∈ records, fs.Pairwise (fun f g => f.off + f.bytes ≤ g.off) ∧ ∀ f ∈ fs, f.off + f.bytes ≤ size) →
     HoldsFields (recordLine size records)
       (records.zipIdx.flatMap fun x => x.1.map fun f => ⟨size * x.2 + f.off, f.bytes, f.value⟩)) ∧
  [Origin.order, .auto, .restore].map Origin.code = [0, 1, 2] ∧
  ∀ (s : State) (slot : Nat) (l : Line),
    (s.DispatchDue slot l 8 →
      ∃ t u : State, exec .exportTables s = .next (State.finish t) ∧
        u = { s.endTake slot l with
          exportNumber := s.exportNumber + 1,
          exportJob := some { slot := slot, lines := (s.endTake slot l).exportLines (s.exportNumber + 1),
                              faultEntries := s.table.length, remapEntries := s.remaps.length } } ∧
        t = { u.requestItem (.line (64 + slot) (takenLine l s.time)) with
          waiters := (u.requestItem (.line (64 + slot) (takenLine l s.time))).waiters ++ [.exportLine] }) ∧
    (∀ j offset line next rest, s.handOff = none → s.mayEnter .exportLine = true → s.exportJob = some j →
      j.lines = (offset, line) :: next :: rest →
      exec .exportLineEntry s = .next (State.finish
        { s with writer := s.writer ++ [.line (4096 + offset) line], exportJob := some { j with lines := next :: rest },
                 waiters := s.waiters.erase .exportLine ++ [.exportLine] })) ∧
    (∀ j offset line, s.handOff = none → s.mayEnter .exportLine = true → s.exportJob = some j →
      j.lines = [(offset, line)] →
      exec .exportLineEntry s = .next (State.finish (State.requestDone
        { s with writer := s.writer ++ [.line (4096 + offset) line], exportJob := none,
                 waiters := s.waiters.erase .exportLine }
        j.slot (doneLine (s.slot j.slot).taken s.time .ok .none
          [⟨32, 4, s.exportNumber⟩, ⟨36, 2, j.faultEntries⟩, ⟨38, 2, j.remapEntries⟩]))))

/-! ## Faults, decay, pacing and patrol -/

/-- One scored event (R63 to R65, R77): an entry of the key is raised, saturating; a new entry is created while there is
room; a full table evicts its victim when that weighs no more than the event, else the event is untracked. Then the
entry's retire state is examined (R68, R69, R131): at the threshold it is retired internally, or ADVISED with the
condition that failed, and an ADVISED one is retired once none fails. Then the devices that the event added are examined
by descending tally (R73 to R75, R151): marked where auto-mark allows it, else made suspect once. The model's choices:
which devices an event examines, and that after a rebuild a set flag counts as clear but makes no second DEVICE_SUSPECT,
whatever keeps the device unmarked (log 22); row 0 in DEVICE_SUSPECT, which R73 does not carry (log 17); the examination
at a SET POLICY takes the ranks in ascending order (log 35). -/
def Obligations.ScoredEventUpdatesTable : Prop :=
  (∀ (s : State) (rank row weight : Nat) (named : List Nat) (t : PartTime),
     (∀ e, s.findEntry rank row = some e →
       s.scoredEvent rank row weight named t = State.afterEvent
         { s with table := s.table.map fun x => if x.keyed rank row then
             { x with score := min 1023 (x.score + weight), events := min 65535 (x.events + 1),
                      devices := addAll x.devices (s.joiningDevices rank named), lastSeen := laterOf x.lastSeen t }
             else x }
         rank row ((s.joiningDevices rank named).filter fun d => !inSet e.devices d)) ∧
     (s.findEntry rank row = none → s.table.length < 1024 →
       s.scoredEvent rank row weight named t = State.afterEvent
         { s with
           table := insertEntry
             { rank := rank, row := row, score := weight, events := 1,
               devices := addAll 0 (s.joiningDevices rank named), firstSeen := t, lastSeen := t,
               retire := if s.rowQueued rank row || s.rowMigrating rank row then .pending else .none } s.table }
         rank row (s.joiningDevices rank named)) ∧
     (s.findEntry rank row = none → 1024 ≤ s.table.length →
       (∀ e ∈ s.table, e.retire = .none → weight < e.score) →
       s.scoredEvent rank row weight named t =
         { s with counters := { s.counters with untrackedEvents := bump s.counters.untrackedEvents } }) ∧
     (∀ v, s.findEntry rank row = none → 1024 ≤ s.table.length → v ∈ s.table → v.retire = .none → v.score ≤ weight →
       (∀ e ∈ s.table, e.retire = .none → e ≠ v → v.weaker e = true) → s.table.Nodup →
       s.scoredEvent rank row weight named t =
         State.createEntry (s.removeEntry v.rank v.row) rank row weight (s.joiningDevices rank named) t)) ∧
  (∀ (s : State) (rank row weight : Nat) (devices : List Nat) (t : PartTime),
     s.createEntry rank row weight devices t = State.afterEvent
       { s with
         table := insertEntry
           { rank := rank, row := row, score := weight, events := 1, devices := addAll 0 devices, firstSeen := t,
             lastSeen := t, retire := if s.rowQueued rank row || s.rowMigrating rank row then .pending else .none }
           s.table }
       rank row devices ∧
     (∃ f, s.removeEntry rank row = { s with table := s.table.filter (fun e => !e.keyed rank row), suspects := f }) ∧
     (∀ d, rank < 4 → d < 20 → (s.removeEntry rank row).isSuspect rank d =
       (s.isSuspect rank d && decide (s.policy.markThreshold ≤ (s.removeEntry rank row).tally rank d)))) ∧
  (∀ (s : State) (rank row : Nat) (risen : List Nat),
     s.afterEvent rank row risen = (s.examineRetire rank row).examineDevices rank (fun d => risen.contains d) false ∧
     (s.policy.autoRetire ≠ 1 → s.retireObstacle rank = some 1) ∧
     (s.policy.autoRetire = 1 → s.freeSpares rank ≤ s.waitingCount rank → s.retireObstacle rank = some 2) ∧
     (s.policy.autoRetire = 1 → s.waitingCount rank < s.freeSpares rank → 8 ≤ s.migrationQueue.length →
       s.retireObstacle rank = some 3) ∧
     (s.policy.autoRetire = 1 → s.waitingCount rank < s.freeSpares rank → s.migrationQueue.length < 8 →
       s.retireObstacle rank = none) ∧
     s.retireInternally rank row = State.startMigration
       { s with table := s.table.map (fun e => if e.keyed rank row then { e with retire := .pending } else e),
                migrationQueue := s.migrationQueue ++ [{ rank := rank, row := row, origin := .auto, slot := none }] } ∧
     (s.findEntry rank row = none → s.examineRetire rank row = s) ∧
     (∀ e, s.findEntry rank row = some e →
       (e.retire = .pending → s.examineRetire rank row = s) ∧
       (e.retire = .advised → s.retireObstacle rank = none → s.examineRetire rank row = s.retireInternally rank row) ∧
       (e.retire = .advised → s.retireObstacle rank ≠ none → s.examineRetire rank row = s) ∧
       (e.retire = .none → e.score < s.policy.retireThreshold → s.examineRetire rank row = s) ∧
       (e.retire = .none → s.policy.retireThreshold ≤ e.score → s.retireObstacle rank = none →
         s.examineRetire rank row = s.retireInternally rank row) ∧
       (∀ c, e.retire = .none → s.policy.retireThreshold ≤ e.score → s.retireObstacle rank = some c →
         s.examineRetire rank row = State.handRecord
           { s with table := s.table.map fun x => if x.keyed rank row then { x with retire := .advised } else x }
           { time := s.time, kind := .retireAdvised e.score c, source := .none, host := none, rank := rank, row := row,
             erasure := false, devices := [], tried := 0 }))) ∧
  (∀ (s : State) (rank device : Nat) (again : Bool),
     (s.tally rank device < s.policy.markThreshold → s.examineDevice rank device again = s) ∧
     (s.isSuspect rank device = true → again = false → s.examineDevice rank device again = s) ∧
     (s.policy.markThreshold ≤ s.tally rank device → s.isSuspect rank device = false ∨ again = true →
       ((s.rankDevices rank).stateOf device = .marked ∨ (s.rankDevices rank).stateOf device = .replaced →
         s.examineDevice rank device again = s) ∧
       ((s.rankDevices rank).stateOf device = .active → s.policy.autoMark = 1 →
         (s.rankDevices rank).markedDevice = none →
         s.examineDevice rank device again = s.markDevice rank device .rebuild .auto) ∧
       ((s.rankDevices rank).stateOf device = .spare ∨ ((s.rankDevices rank).stateOf device = .active ∧
           (s.policy.autoMark ≠ 1 ∨ (s.rankDevices rank).markedDevice.isSome = true)) →
         (s.isSuspect rank device = true → s.examineDevice rank device again = s) ∧
         (s.isSuspect rank device = false → rank < 4 → device < 20 →
           ∃ u : State, s.examineDevice rank device again = u.handRecord
               { time := s.time, kind := .deviceSuspect (s.tally rank device), source := .none, host := none,
                 rank := rank, row := 0, erasure := false, devices := [device], tried := 0 } ∧
             u.isSuspect rank device = true ∧
             (∀ r d, r < 4 → d < 20 → ¬ (r = rank ∧ d = device) → u.isSuspect r d = s.isSuspect r d) ∧
             u = { s with suspects := u.suspects })))) ∧
  (∀ (s : State) (rank : Nat) (which : Nat → Bool) (again : Bool), ∃ order : List Nat,
     (∀ d, d ∈ order ↔ d < 20 ∧ which d = true) ∧
     order.Pairwise (fun a b => s.tally rank b < s.tally rank a ∨ (s.tally rank a = s.tally rank b ∧ a < b)) ∧
     s.examineDevices rank which again = order.foldl (fun u d => u.examineDevice rank d again) s) ∧
  (∀ s : State, ∃ u : State,
     s.examineAll = (List.range s.ranks).foldl (fun v r => v.examineDevices r (fun _ => true) false) u ∧
     u = { s with suspects := u.suspects } ∧
     ∀ r d, r < 4 → d < 20 → u.isSuspect r d =
       (s.isSuspect r d && (decide (s.ranks ≤ r) || decide (s.policy.markThreshold ≤ s.tally r d))))

/-- DECAY_TICK (R66, R67): every score is halved; ADVISED entries below the retire threshold return to NONE; NONE entries
at 0 are removed; the next tick is one decay period later. -/
def Obligations.DecayHalvesEveryScore : Prop :=
  ∀ s : State, s.handOff = none → hasReached s.time s.decayTick = true →
    ∃ t, exec .decayTick s = .next (State.finish t) ∧
      t.decayTick = s.decayTick + BitVec.ofNat 48 (s.policy.decayPeriod * 1000000) ∧
      (∀ e, e ∈ t.table ↔ ∃ x ∈ s.table, e = { x with
          score := x.score / 2,
          retire := if x.retire = .advised ∧ x.score / 2 < s.policy.retireThreshold then .none else x.retire } ∧
        ¬ (e.score = 0 ∧ e.retire = .none)) ∧
      (∀ r d, r < s.ranks → r < 4 → d < 20 → t.tally r d < s.policy.markThreshold → t.isSuspect r d = false) ∧
      (∀ r d, r < 4 → d < 20 → s.policy.markThreshold ≤ t.tally r d → t.isSuspect r d = s.isSuspect r d) ∧
      t = { s with table := t.table, decayTick := t.decayTick, suspects := t.suspects }

/-- A pace review (R104 to R106): the rate that would visit the remaining lines in the unheld intervals left, rounded up
and bounded by the min rate and rate_max, with the at-risk flag. The time left is that from now to E, and 0 once E has come
(R105; later: log 14); the held time ahead is the number of its microseconds that lie in the span of some ARMED or ACTIVE
window whose scope holds PATROL, an ACTIVE span beginning now, each microsecond counted once (R90). A review that an event
asks for is made while the port is READY, and not during a restart (R111, log 23). -/
def Obligations.ReviewSetsRate : Prop :=
  (∀ s : State, (s.ready = true → s.askReview = s.review) ∧ (s.ready = false → s.askReview = s) ∧
     (laterThan s.patrol.passEnd s.time = true → s.timeLeft = (s.patrol.passEnd - s.time).toNat) ∧
     (laterThan s.patrol.passEnd s.time = false → s.timeLeft = 0) ∧
     s.heldTimeAhead = Set.ncard {k : Nat | k < s.timeLeft ∧ ∃ i, i < 32 ∧
       ((s.window i).state = .armed ∨ (s.window i).state = .active) ∧ (s.window i).scope.getLsbD 0 = true ∧
       laterThan (s.window i).stop s.time = true ∧ k < ((s.window i).stop - s.time).toNat ∧
       ((s.window i).state = .armed → laterThan (s.window i).start s.time = true →
         ((s.window i).start - s.time).toNat ≤ k)}) ∧
  ∀ (s : State) (lines intervals top : Nat), lines = s.lTotal - s.patrol.cursor →
    intervals = s.timeLeft / 1000 - s.heldTimeAhead / 1000 → top = min 16384 (s.policy.opsPerInterval * 256) →
    (lines = 0 → s.review = s) ∧
    (1 ≤ lines → intervals = 0 →
      s.review = { s with patrol := { s.patrol with rate := top, atRisk := true } }) ∧
    (∀ raw, 1 ≤ lines → 1 ≤ intervals → lines * 256 ≤ raw * intervals → raw * intervals < lines * 256 + intervals →
      s.review = { s with patrol := { s.patrol with rate := min top (max s.policy.minRate raw),
                                                    atRisk := decide (top < raw) } })

/-- PACE_INTERVAL_START, PERIODIC_PACE_REVIEW and PASS_LATE (R18, R103, R104, R107): a due interval starts the counts
afresh and, while patrol accrues, moves whole visits from credit to owed within their caps; a 1,000th interval's review
comes first; E that has come with lines left makes the pass late once (the rank and row of the PASS_LATE record, both 0:
log 17). -/
def Obligations.PaceIntervalAccruesCredit : Prop :=
  ∀ (s : State) (start : PartTime), s.handOff = none →
    (∀ (u : State) (credit : Nat), s.nextInterval = some start → hasReached s.time start = true →
      u = (if isThousandth start = true ∧ s.reviewed = false then s.askReview else s) →
      credit = min (s.policy.opsPerInterval * 256) (u.patrol.credit + u.patrol.rate) →
      exec .paceIntervalStart s = .next (State.finish
        { s with counts := { migration := 0, rebuild := 0, targeted := 0, limit := s.policy.opsPerInterval },
                 patrol := if s.ready = true ∧ s.policy.patrolEnable = 1 ∧ s.held .patrol = false then
                     { u.patrol with credit := credit % 256,
                                     owed := min s.policy.opsPerInterval (u.patrol.owed + credit / 256) }
                   else u.patrol,
                 nextInterval := some (nextPaceBoundary start), reviewed := false })) ∧
    (s.nextInterval = some start → hasReached s.time start = true → isThousandth start = true → s.reviewed = false →
      exec .periodicPaceReview s = .next (State.finish { s.askReview with reviewed := true })) ∧
    (s.ready = true → hasReached s.time s.patrol.passEnd = true → s.patrol.cursor < s.lTotal → s.patrol.late = false →
      ∃ u : State, exec .passLate s = .next (State.finish u.review) ∧
        u = State.handRecord { s with patrol := { s.patrol with late := true } }
          { time := s.time, kind := .passLate s.patrol.passNumber s.patrol.passEnd s.patrol.cursor
              (s.lTotal - s.patrol.cursor),
            source := .none, host := none, rank := 0, row := 0, erasure := false, devices := [], tried := 0 })

/-- PATROL_READ_GRANT, PATROL_DECODE_END and PATROL_WRITE_GRANT (R95 to R99): a visit uses one owed visit and reads the
cursor's line; at the decode's end it reports with source PATROL and counts in the pass, then ends, or waits to write; a
write goes to the open physical line, or is dropped when its record was closed, and the visit ends either way; the end
of the last host line's visit journals PASS_DONE and starts the next pass, credit and owed carried on. The pass counts
rise by class and stop at 4,294,967,295 (R93); what is written is the decoded data with valid code, else poison encoding. A
QUIESCE that the visit completes is done first, and PASS_DONE has rank 0 and row 0 (the model's choices, log 37 and
log 17). -/
def Obligations.PatrolVisitReadsAndRepairs : Prop :=
  (∀ p : Patrol,
     p.counted .corrected = { p with corrected := min 4294967295 (p.corrected + 1) } ∧
     p.counted .deepCorrected = { p with deepCorrected := min 4294967295 (p.deepCorrected + 1) } ∧
     p.counted .uncorrectable = { p with uncorrectable := min 4294967295 (p.uncorrectable + 1) } ∧
     p.counted .clean = p ∧ p.counted .erased = p ∧ p.counted .poisoned = p) ∧
  (∀ r : DecodeResult, (∀ l, r.data = some l → r.content = { data := l, poison := false }) ∧
     (r.data = none → r.content = { data := 0, poison := true })) ∧
  (∀ s : State, s.handOff = none →
     (∀ errors, s.patrolRequests = true → s.mayGrant (rankOf s.patrol.cursor) 8 = true →
       ∃ (u : State) (d : Decode), u = s.applyErrorsHost s.patrol.cursor errors ∧
         d = u.decodeHost s.patrol.cursor s.policy.backgroundBudget ∧
         exec (.patrolReadGrant errors) s = .next (State.finish
           { s with cells := u.cells,
                    patrolOp := some { isOpen := true, rank := rankOf s.patrol.cursor, row := d.row,
                                       column := columnOf s.patrol.cursor, host := some s.patrol.cursor,
                                       stage := .decoding d, override := none, slot := none },
                    patrol := { s.patrol with owed := s.patrol.owed - 1 } })) ∧
     (∀ op d, s.patrolOp = some op → op.stage = .decoding d →
       ∃ u : State,
         u = { s.report d .patrol s.time with patrol := (s.report d .patrol s.time).patrol.counted d.classify.cls } ∧
         (d.classify.cls = .corrected ∨ d.classify.cls = .deepCorrected ∨ d.classify.cls = .uncorrectable →
           exec .patrolDecodeEnd s = .next (State.finish
             { u with patrolOp := some { op with stage := .writing d.classify.content } })) ∧
         (d.classify.cls = .clean ∨ d.classify.cls = .erased ∨ d.classify.cls = .poisoned →
           exec .patrolDecodeEnd s = .next (State.finish (State.checkQuiesce { u with patrolOp := none }).endVisit))) ∧
     (∀ op c, s.patrolOp = some op → op.stage = .writing c → s.mayGrant op.rank 8 = true →
       (s.rankDevices op.rank).Sound → s.MemoriesCanonical →
       ∃ u : State,
         exec .patrolWriteGrant s = .next (State.finish (State.checkQuiesce { u with patrolOp := none }).endVisit) ∧
         (op.isOpen = false → u = s) ∧
         (op.isOpen = true → s.LineStored u op.rank op.row op.column (op.override.getD c) ∧
           u = { s with cells := u.cells, written := u.written, poisoned := u.poisoned,
                        rebuildOp := leaveOn op.rank op.row op.column (op.override.getD c) s.rebuildOp }))) ∧
  (∀ s : State,
     (s.patrol.cursor + 1 < s.lTotal →
       s.endVisit = { s with patrol := { s.patrol with cursor := s.patrol.cursor + 1 } }) ∧
     (s.patrol.cursor + 1 = s.lTotal → s.patrol.passNumber < 4294967295 →
       ∃ u : State, s.endVisit = u.review ∧
         u = { s.handRecord { time := s.time,
                              kind := .passDone s.patrol.passNumber s.patrol.passStart s.patrol.late s.patrol.corrected
                                s.patrol.deepCorrected s.patrol.uncorrectable,
                              source := .none, host := none, rank := 0, row := 0, erasure := false, devices := [],
                              tried := 0 } with
           patrol := { s.patrol with
             passNumber := s.patrol.passNumber + 1, cursor := 0, passStart := s.time,
             passEnd := timeAfter s.time (s.policy.patrolPeriod * 1000000), corrected := 0, deepCorrected := 0,
             uncorrectable := 0, late := false } }))

/-! ## Targeted work, migration and rebuild -/

/-- SCRUB_VISIT_READ_GRANT, SCRUB_VISIT_DECODE_END and SCRUB_VISIT_WRITE_GRANT (R118 to R121, R124; visited rises at the
decode's end: log 27): a visit reads the order's cursor line with the order's budget, reports with source TARGETED and in
the order's results, repairs as patrol does, and advances the range cursor; a dropped write is counted; at the end line
the order leaves the queue and its slot is written DONE with its seven counts. A QUIESCE that the visit completes is done
first (the model's choice, log 37). Every visit raises visited, and the count of its class (R120). -/
def Obligations.ScrubVisitsItsRange : Prop :=
  (∀ c : ScrubCounts,
     c.counted .clean = { c with visited := c.visited + 1 } ∧
     c.counted .erased = { c with visited := c.visited + 1, erased := c.erased + 1 } ∧
     c.counted .poisoned = { c with visited := c.visited + 1, poisoned := c.poisoned + 1 } ∧
     c.counted .corrected = { c with visited := c.visited + 1, corrected := c.corrected + 1 } ∧
     c.counted .deepCorrected = { c with visited := c.visited + 1, deepCorrected := c.deepCorrected + 1 } ∧
     c.counted .uncorrectable = { c with visited := c.visited + 1, uncorrectable := c.uncorrectable + 1 }) ∧
  (∀ r : DecodeResult, (∀ l, r.data = some l → r.content = { data := l, poison := false }) ∧
     (r.data = none → r.content = { data := 0, poison := true })) ∧
  (∀ (s : State) (o : TargetedOrder), s.handOff = none → o.kind = .scrubRange →
     (∀ errors, s.targetedRequest = some o → s.mayGrant (rankOf o.cursor) (if o.urgent then 4 else 7) = true →
       ∃ (u : State) (d : Decode), u = s.applyErrorsHost o.cursor errors ∧ d = u.decodeHost o.cursor o.budget ∧
         exec (.scrubVisitReadGrant errors) s = .next (State.finish
           { s with cells := u.cells,
                    targetedOp := some { isOpen := true, rank := rankOf o.cursor, row := d.row,
                                         column := columnOf o.cursor, host := some o.cursor, stage := .decoding d,
                                         override := none, slot := some o.slot },
                    counts := { s.counts with
                      targeted := if o.urgent then s.counts.targeted else s.counts.targeted + 1 } })) ∧
     (∀ op d, s.targetedOp = some op → s.orderUnderWay = some o → op.slot = some o.slot → op.stage = .decoding d →
       ∃ u : State, u = State.changeOrder (s.report d .targeted s.time) o.slot
           (fun x => { x with counts := x.counts.counted d.classify.cls }) ∧
         (d.classify.cls = .corrected ∨ d.classify.cls = .deepCorrected ∨ d.classify.cls = .uncorrectable →
           exec .scrubVisitDecodeEnd s = .next (State.finish
             { u with targetedOp := some { op with stage := .writing d.classify.content } })) ∧
         (d.classify.cls = .clean ∨ d.classify.cls = .erased ∨ d.classify.cls = .poisoned →
           exec .scrubVisitDecodeEnd s = .next (State.finish (u.releaseScrub o.slot)))) ∧
     (∀ op c, s.targetedOp = some op → s.orderUnderWay = some o → op.slot = some o.slot → op.stage = .writing c →
       s.mayGrant op.rank (if o.urgent then 4 else 7) = true → (s.rankDevices op.rank).Sound → s.MemoriesCanonical →
       ∃ u : State, exec .scrubVisitWriteGrant s = .next (State.finish (u.releaseScrub o.slot)) ∧
         (op.isOpen = true → s.LineStored u op.rank op.row op.column (op.override.getD c) ∧
           u = { s with cells := u.cells, written := u.written, poisoned := u.poisoned,
                        rebuildOp := leaveOn op.rank op.row op.column (op.override.getD c) s.rebuildOp }) ∧
         (op.isOpen = false → u = s.changeOrder o.slot
           (fun x => { x with counts := { x.counts with writesDropped := x.counts.writesDropped + 1 } })))) ∧
  (∀ (s q : State) (o : TargetedOrder), q = State.checkQuiesce { s with targetedOp := none } →
     s.orderOf o.slot = some o →
     (o.cursor + 1 < o.endLine → s.releaseScrub o.slot =
       { q with targeted := s.targeted.map fun x => if x.slot = o.slot then { x with cursor := x.cursor + 1 } else x }) ∧
     (o.endLine ≤ o.cursor + 1 → ∃ u : State, s.releaseScrub o.slot = u.requestDone o.slot
         (doneLine (q.slot o.slot).taken s.time .ok (if o.clamped then .clamped else .none)
           [⟨32, 4, o.counts.visited⟩, ⟨36, 4, o.counts.erased⟩, ⟨40, 4, o.counts.poisoned⟩,
            ⟨44, 4, o.counts.corrected⟩, ⟨48, 4, o.counts.deepCorrected⟩, ⟨52, 4, o.counts.uncorrectable⟩,
            ⟨56, 4, o.counts.writesDropped⟩]) ∧
       (∀ x, x ∈ u.targeted ↔ x ∈ s.targeted ∧ x.slot ≠ o.slot) ∧ u = { q with targeted := u.targeted }))

/-- PROBE_READ_GRANT and PROBE_DECODE_END (R122, R123): the probed line is read with the probe's budget, reported with
source PROBE and released without a write, and its slot is written DONE with what the decode found, the class by its code
of section 10.6. A QUIESCE that this completes is done first (the model's choice, log 37). -/
def Obligations.ProbeReportsWithoutWriting : Prop :=
  [LineClass.clean, .erased, .corrected, .deepCorrected, .uncorrectable, .poisoned].map LineClass.code =
    [0, 1, 2, 3, 4, 5] ∧
  ∀ (s : State) (o : TargetedOrder), s.handOff = none → o.kind = .probeLine →
    (∀ errors, s.targetedRequest = some o → s.mayGrant (rankOf o.cursor) (if o.urgent then 4 else 7) = true →
      ∃ (u : State) (d : Decode), u = s.applyErrorsHost o.cursor errors ∧ d = u.decodeHost o.cursor o.budget ∧
        exec (.probeReadGrant errors) s = .next (State.finish
          { s with cells := u.cells,
                   targetedOp := some { isOpen := true, rank := rankOf o.cursor, row := d.row,
                                        column := columnOf o.cursor, host := some o.cursor, stage := .decoding d,
                                        override := none, slot := some o.slot } })) ∧
    (∀ op d, s.targetedOp = some op → s.orderUnderWay = some o → op.slot = some o.slot → op.stage = .decoding d →
      ∃ u q : State, u = s.report d .probe s.time ∧ q = State.checkQuiesce { u with targetedOp := none } ∧
        exec .probeDecodeEnd s = .next (State.finish (State.requestDone
          { q with targeted := s.targeted.filter fun x => decide (x.slot ≠ o.slot) }
          o.slot (doneLine (q.slot o.slot).taken s.time .ok (if o.clamped then .clamped else .none)
            [byteField 32 d.classify.cls.code, byteField 33 ((d.classify.devices[0]?).getD 255),
             byteField 34 ((d.classify.devices[1]?).getD 255), byteField 35 d.classify.tried,
             byteField 36 (if d.classify.erasure then 1 else 0), byteField 37 d.rank, ⟨40, 4, d.row⟩,
             byteField 44 d.column, timeField 48 s.time]))) ∧
        u.cells = s.cells ∧ u.written = s.written ∧ u.poisoned = s.poisoned)

/-- COPY_READ_GRANT, COPY_DECODE_END and COPY_WRITE_GRANT (R133 to R135, R139): the old physical row is read at the
cursor, what is found is reported with source MIGRATION and counted, and the copy write goes to the spare line, or is
dropped and counted when its record was closed; the cursor advances; at column 127 the remap entry becomes ACTIVE, an
earlier spare row is DISCARDED, the row's fault entry is removed, ROW_RETIRED is journaled, the slot is written DONE,
and the oldest retirement that waits starts. The counts rise by class (R134), also past 128 where a column is decoded
again after a warm reset, and their result bytes hold the low 8 bits (the model's choice, log 42); a QUIESCE that this
completes is done first (the model's choice, log 37). -/
def Obligations.CopyMovesOneColumn : Prop :=
  (∀ m : Migration,
     m.counted .corrected = { m with corrected := m.corrected + 1 } ∧
     m.counted .deepCorrected = { m with deepCorrected := m.deepCorrected + 1 } ∧
     m.counted .uncorrectable = { m with uncorrectable := m.uncorrectable + 1 } ∧
     m.counted .poisoned = { m with poisoned := m.poisoned + 1 } ∧
     m.counted .clean = m ∧ m.counted .erased = m) ∧
  (∀ r : DecodeResult, (∀ l, r.data = some l → r.content = { data := l, poison := false }) ∧
     (r.data = none → r.content = { data := 0, poison := true })) ∧
  (∀ (s : State) (e : RemapEntry), s.handOff = none →
     (∀ errors, s.migrationRequest = some e → s.mayGrant e.rank 5 = true →
       ∃ (u : State) (d : Decode), u = s.applyErrors e.rank e.oldRow e.cursor errors ∧
         d = u.decodeOf e.rank e.oldRow e.cursor (some (hostLineOf e.rank e.row e.cursor)) s.policy.backgroundBudget ∧
         exec (.copyReadGrant errors) s = .next (State.finish
           { s with cells := u.cells,
                    migrationOp := some { isOpen := true, rank := e.rank, row := e.oldRow, column := e.cursor,
                                          host := some (hostLineOf e.rank e.row e.cursor), stage := .decoding d,
                                          override := none, slot := none },
                    counts := { s.counts with migration := s.counts.migration + 1 } })) ∧
     (∀ op d, s.migrationOp = some op → op.stage = .decoding d →
       ∃ u : State, u = s.report d .migration s.time ∧
         exec .copyDecodeEnd s = .next (State.finish
           { u with migration := u.migration.map (fun m => m.counted d.classify.cls),
                    migrationOp := some { op with stage := .writing d.classify.content } })) ∧
     (∀ op c, s.migrationOp = some op → op.stage = .writing c → s.migratingEntry = some e → op.rank = e.rank →
       s.mayGrant e.rank 5 = true → (s.rankDevices e.rank).Sound → s.MemoriesCanonical →
       ∃ u : State, exec .copyWriteGrant s = .next (State.finish (u.endCopy e)) ∧
         (op.isOpen = true → s.LineStored u e.rank (262144 + e.spare) e.cursor (op.override.getD c) ∧
           u = { s with cells := u.cells, written := u.written, poisoned := u.poisoned,
                        patrolOp := closeIf (fun r => r.isOn e.rank (262144 + e.spare) e.cursor) s.patrolOp,
                        targetedOp := closeIf (fun r => r.isOn e.rank (262144 + e.spare) e.cursor) s.targetedOp,
                        rebuildOp := closeIf (fun r => r.isOn e.rank (262144 + e.spare) e.cursor) s.rebuildOp }) ∧
         (op.isOpen = false → u = { s with
           migration := s.migration.map (fun m => { m with copiesDropped := m.copiesDropped + 1 }) }))) ∧
  (∀ (s q : State) (e : RemapEntry), q = State.checkQuiesce { s with migrationOp := none } →
     (e.cursor + 1 < 128 → s.endCopy e =
       { q with remaps := s.remaps.map fun x => if x.rank = e.rank ∧ x.row = e.row then
                  { x with cursor := x.cursor + 1 } else x }) ∧
     (∀ m, 128 ≤ e.cursor + 1 → s.migration = some m →
       ∃ u v w : State,
         u = { q with remaps := s.remaps.map fun x => if x.rank = e.rank ∧ x.row = e.row then
                        { x with state := .active, cursor := 128, earlier := none } else x,
                      spares := match e.earlier with
                        | some i => (s.setSpareState e.rank i .discarded).spares
                        | none => s.spares } ∧
         v = (u.removeEntry e.rank e.row).handPlain (.rowRetired e.spare m.origin e.oldRow m.corrected m.deepCorrected
           m.uncorrectable m.poisoned m.copiesDropped) none e.rank e.row [] ∧
         w = (match m.slot with
           | some slot => v.requestDone slot (doneLine (v.slot slot).taken s.time .ok .none
               [byteField 32 e.spare, byteField 33 (e.earlier.getD 255), byteField 34 m.corrected,
                byteField 35 m.deepCorrected, byteField 36 m.uncorrectable, byteField 37 m.poisoned,
                byteField 38 m.copiesDropped])
           | none => v) ∧
         s.endCopy e = State.startMigration { w with migration := none }))

/-- REBUILD_READ_GRANT, REBUILD_DECODE_END and REBUILD_WRITE_GRANT (R152 to R154, R156): the chosen rank's line at its
cursor is read, reported with source REBUILD and counted, and rewritten, or its write is dropped and counted when its
record was closed; the cursor is then past the line; at the last line the MARKED device is REPLACED, device 19 is ACTIVE
and carries its position, REBUILD_DONE is journaled (row 0, which R156 does not carry: log 17), and every device is
examined; the start time, the four counts and the other ranks stay. A QUIESCE that this completes is done first, and the
counts, which rise by class (R153), go on past R156's range (the model's choices, log 37 and log 39). -/
def Obligations.RebuildRewritesOneLine : Prop :=
  (∀ r : RankDevices,
     r.counted .corrected = { r with corrected := r.corrected + 1 } ∧
     r.counted .uncorrectable = { r with uncorrectable := r.uncorrectable + 1 } ∧
     r.counted .poisoned = { r with poisoned := r.poisoned + 1 } ∧
     r.counted .clean = r ∧ r.counted .erased = r ∧ r.counted .deepCorrected = r) ∧
  (∀ r : DecodeResult, (∀ l, r.data = some l → r.content = { data := l, poison := false }) ∧
     (r.data = none → r.content = { data := 0, poison := true })) ∧
  (∀ s : State, s.handOff = none →
     (∀ errors rank index, s.currentChoice = some rank → s.mayGrant rank 6 = true →
       index = (s.rankDevices rank).cursor →
       ∃ (u : State) (d : Decode), u = s.applyErrors rank (index / 128) (index % 128) errors ∧
         d = u.decodeOf rank (index / 128) (index % 128) (s.servedHost rank (index / 128) (index % 128))
           s.policy.backgroundBudget ∧
         exec (.rebuildReadGrant errors) s = .next (State.finish
           { s with cells := u.cells,
                    rebuildOp := some { isOpen := true, rank := rank, row := index / 128, column := index % 128,
                                        host := s.servedHost rank (index / 128) (index % 128), stage := .decoding d,
                                        override := none, slot := none },
                    counts := { s.counts with rebuild := s.counts.rebuild + 1 }, lastRebuilt := rank })) ∧
     (∀ op d, s.rebuildOp = some op → op.stage = .decoding d →
       ∃ u : State, u = s.report d .rebuild s.time ∧
         exec .rebuildDecodeEnd s = .next (State.finish
           { u with devices := put u.devices d.rank ((u.rankDevices d.rank).counted d.classify.cls),
                    rebuildOp := some { op with stage := .writing d.classify.content } })) ∧
     (∀ op c, s.rebuildOp = some op → op.stage = .writing c → s.mayGrant op.rank 6 = true →
       (s.rankDevices op.rank).Sound → s.MemoriesCanonical →
       ∃ u : State, exec .rebuildWriteGrant s = .next (State.finish (u.endRebuildLine op)) ∧
         (op.isOpen = true → s.LineStored u op.rank op.row op.column (op.override.getD c) ∧
           u = { s with cells := u.cells, written := u.written, poisoned := u.poisoned }) ∧
         (op.isOpen = false → u = s.setRankDevices op.rank
           { s.rankDevices op.rank with writesDropped := (s.rankDevices op.rank).writesDropped + 1 }))) ∧
  (∀ (s q : State) (op : OpenLine) (index : Nat), q = State.checkQuiesce { s with rebuildOp := none } → op.rank < 4 →
     index = op.row * 128 + op.column →
     (index + 1 < 33570816 → s.endRebuildLine op =
       { q with devices := put s.devices op.rank { s.rankDevices op.rank with cursor := index + 1 } }) ∧
     (∀ d m, 33570816 ≤ index + 1 → (s.rankDevices op.rank).markedDevice = some d → d < 19 →
       (s.rankDevices op.rank).positionOf d = some m →
       ∃ (u : State) (r : RankDevices), r = s.rankDevices op.rank ∧
         (u.rankDevices op.rank).stateOf d = .replaced ∧ (u.rankDevices op.rank).stateOf 19 = .active ∧
         (∀ x, x < 19 → x ≠ d → (u.rankDevices op.rank).stateOf x = r.stateOf x) ∧
         (u.rankDevices op.rank).carrier m = 19 ∧
         (∀ p, p < 19 → p ≠ m → (u.rankDevices op.rank).carrier p = r.carrier p) ∧
         (u.rankDevices op.rank).inFlight = false ∧ (u.rankDevices op.rank).cursor = index + 1 ∧
         (u.rankDevices op.rank).startTime = r.startTime ∧ (u.rankDevices op.rank).corrected = r.corrected ∧
         (u.rankDevices op.rank).uncorrectable = r.uncorrectable ∧ (u.rankDevices op.rank).poisoned = r.poisoned ∧
         (u.rankDevices op.rank).writesDropped = r.writesDropped ∧
         (∀ x, x < 4 → x ≠ op.rank → u.rankDevices x = s.rankDevices x) ∧
         u = { q with devices := u.devices } ∧
         s.endRebuildLine op = ((u.handPlain (.rebuildDone m r.startTime r.corrected r.uncorrectable r.poisoned
           r.writesDropped) none op.rank 0 [d]).examineDevices op.rank (fun _ => true) true)))

/-! ## Journal, notice and status -/

/-- What becomes of a record handed to the Journal (R175, R176, R178): with staging empty, a place and room it is
published under sequence W, which rises by one, in a journal line with the fields of section 10.6 (those a record does
not carry: log 17); a corrected kind without room is withheld; it joins a staging list that is not empty or that must
take it, and is held when that is full. Room is free above 32 for CORRECTED and DEEP_CORRECTED and above 0 for every other
kind. The first publication after a raise starts the holdoff timer at the holdoff in force, a later one below the coalesce
count leaves it running, and the one that reaches the count raises JOURNAL and stops it. -/
def Obligations.RecordIsPublishedStagedOrHeld : Prop :=
  (∀ (r : JournalRecord) (sequence : Count32), ∃ (kind : Nat) (data : List FieldValue),
     HoldsFields (journalLine r sequence)
       ([⟨0, 4, sequence.toNat⟩, ⟨4, 6, r.time.toNat⟩, ⟨10, 1, kind⟩, ⟨11, 1, r.source.code⟩,
         ⟨12, 4, r.host.getD 4294967295⟩, ⟨16, 1, r.rank⟩, ⟨17, 1, if r.erasure then 1 else 0⟩,
         ⟨20, 1, (r.devices[0]?).getD 255⟩, ⟨21, 1, (r.devices[1]?).getD 255⟩, ⟨22, 1, r.tried⟩, ⟨24, 4, r.row⟩] ++ data) ∧
     match r.kind with
     | .corrected => kind = 1 ∧ data = []
     | .deepCorrected => kind = 2 ∧ data = []
     | .uncorrectable => kind = 3 ∧ data = []
     | .poisonAbsorb => kind = 4 ∧ data = []
     | .rowRetired spare origin oldRow c d u p x => kind = 5 ∧
         data = [⟨32, 1, spare⟩, ⟨33, 1, origin.code⟩, ⟨36, 4, oldRow⟩, ⟨40, 1, c⟩, ⟨41, 1, d⟩, ⟨42, 1, u⟩, ⟨43, 1, p⟩,
           ⟨44, 1, x⟩]
     | .retireAdvised score condition => kind = 6 ∧ data = [⟨32, 2, score⟩, ⟨34, 1, condition⟩]
     | .deviceMarked position mode origin started noSpare tally => kind = 7 ∧
         data = [⟨32, 1, position⟩, ⟨33, 1, match mode with | .rebuild => 0 | .eraseOnly => 1 | .restore => 2⟩,
           ⟨34, 1, origin.code⟩, ⟨35, 1, if started then 1 else 0⟩, ⟨36, 1, if noSpare then 8 else 0⟩, ⟨38, 2, tally⟩]
     | .deviceSuspect tally => kind = 8 ∧ data = [⟨32, 2, tally⟩]
     | .rebuildDone position startTime c u p w => kind = 9 ∧
         data = [⟨32, 1, position⟩, ⟨40, 6, startTime.toNat⟩, ⟨48, 4, c⟩, ⟨52, 4, u⟩, ⟨56, 4, p⟩, ⟨60, 4, w⟩]
     | .passDone number start late c d u => kind = 10 ∧
         data = [⟨32, 4, number⟩, ⟨36, 6, start.toNat⟩, ⟨42, 1, if late then 1 else 0⟩, ⟨44, 4, c⟩, ⟨48, 4, d⟩,
           ⟨52, 4, u⟩]
     | .passLate number passEnd cursor remaining => kind = 11 ∧
         data = [⟨32, 4, number⟩, ⟨36, 6, passEnd.toNat⟩, ⟨44, 4, cursor⟩, ⟨48, 4, remaining⟩]
     | .slotGuard slot stateField => kind = 12 ∧ data = [⟨32, 1, slot⟩, ⟨33, 1, stateField⟩]) ∧
  [Source.none, .demand, .merge, .patrol, .targeted, .probe, .migration, .rebuild].map Source.code =
    [0, 1, 2, 3, 4, 5, 6, 7] ∧
  [Origin.order, .auto, .restore].map Origin.code = [0, 1, 2] ∧
  (∀ (s : State) (k : RecordKind),
     (k.isCorrectedKind = true ↔ k = .corrected ∨ k = .deepCorrected) ∧
     (k = .corrected ∨ k = .deepCorrected → (s.roomFor k = true ↔ 32 < s.journalFree)) ∧
     (k ≠ .corrected → k ≠ .deepCorrected → (s.roomFor k = true ↔ 0 < s.journalFree)) ∧
     s.journalFree = 1024 - (s.journal.published - s.journal.mark).toNat) ∧
  ∀ (s : State) (r : JournalRecord),
    (s.journal.staging = [] → s.writerHasPlace = true → s.roomFor r.kind = true →
      (s.handRecord r).writer = s.writer ++
        [.line (1024 + s.journal.published.toNat % 1024) (journalLine r s.journal.published)] ∧
      (s.handRecord r).journal.published = s.journal.published + 1 ∧
      (s.handRecord r).journal.staging = [] ∧ (s.handRecord r).counters = s.counters ∧
      (s.journal.coalesce + 1 < s.policy.coalesceCount →
        (s.handRecord r).journal.coalesce = s.journal.coalesce + 1 ∧
        (s.journal.coalesce = 0 →
          (s.handRecord r).journal.holdoff = some (timeAfter s.time s.policy.holdoff)) ∧
        (s.journal.coalesce ≠ 0 → (s.handRecord r).journal.holdoff = s.journal.holdoff)) ∧
      (s.policy.coalesceCount ≤ s.journal.coalesce + 1 →
        (s.handRecord r).journal.causes.journal = true ∧ (s.handRecord r).journal.coalesce = 0 ∧
          (s.handRecord r).journal.holdoff = none) ∧
      (s.journalFree = 33 → s.journal.roomArmed = true → (s.handRecord r).journal.causes.room = true ∧
        (s.handRecord r).journal.roomArmed = false)) ∧
    (s.journal.staging = [] → r.kind.isCorrectedKind = true → s.journalFree ≤ 32 → s.handRecord r =
      { s with counters := { s.counters with journalHeld := bump s.counters.journalHeld } }) ∧
    (s.journal.staging = [] → s.writerHasPlace = false ∨ s.journalFree = 0 →
      r.kind.isCorrectedKind = false ∨ 32 < s.journalFree →
      (s.handRecord r).journal.staging = [r] ∧ (s.handRecord r).writer = s.writer ∧
        (s.handRecord r).journal.published = s.journal.published) ∧
    (s.journal.staging ≠ [] → s.journal.staging.length < 16 →
      (s.handRecord r).journal.staging = s.journal.staging ++ [r] ∧ (s.handRecord r).writer = s.writer ∧
        (s.handRecord r).journal.published = s.journal.published) ∧
    (16 ≤ s.journal.staging.length → s.handRecord r =
      { s with counters := { s.counters with journalHeld := bump s.counters.journalHeld } }) ∧
    s.handRecord r = { s with writer := (s.handRecord r).writer, waiters := (s.handRecord r).waiters,
                              journal := (s.handRecord r).journal, counters := (s.handRecord r).counters }

/-- STAGING_DEPARTURE, HOLDOFF_EXPIRY, STATUS_TIMER_EXPIRY and STATUS_WRITE (R100, R142, R158, R174, R176, R178 to
R180): the head of staging is withheld when it is of a corrected kind and free is 32 or less, else published when the
writer admits the Journal's line, and counts, starts the holdoff timer or raises JOURNAL as every publication does; the
holdoff's expiry raises JOURNAL; the status timer's asks for a status write; a status write enters its two lines
together, formed now, and sets the timer for one status interval. The notice line is asserted exactly when a cause is
pending. The two status lines have the fields of section 10.6 (the time of a last uncorrectable line that is absent: log
18; the rebuild state and cursor of an unpopulated rank: log 43). -/
def Obligations.StagingAndTimersAct : Prop :=
  (∃ timeOfNone : Nat, ∀ s : State,
     HoldsFields s.statusPart1
       ([⟨0, 6, s.time.toNat⟩, ⟨6, 1, match s.resetCause with | .powerOn => 1 | .warm => 2⟩,
         ⟨7, 1, (if s.journal.causes.order then 1 else 0) + (if s.journal.causes.journal then 2 else 0) +
           (if s.journal.causes.uncorrectable then 4 else 0) + (if s.journal.causes.room then 8 else 0)⟩,
         ⟨8, 4, s.journal.published.toNat⟩, ⟨12, 1, s.takeCursor⟩,
         ⟨13, 1, if s.policy.patrolEnable = 0 then 0 else if s.held .patrol then 2 else if s.patrol.late then 3 else 1⟩,
         ⟨14, 1, (if s.patrol.late then 1 else 0) + (if s.patrol.atRisk then 2 else 0) + (if s.quiesced then 4 else 0)⟩,
         ⟨15, 1, s.targeted.length⟩, ⟨16, 4, s.patrol.passNumber⟩, ⟨20, 4, s.patrol.cursor⟩,
         ⟨24, 4, s.lTotal - s.patrol.cursor⟩, ⟨28, 2, s.patrol.rate⟩,
         ⟨30, 1, if s.migration.isNone then 0 else if s.held .migration then 2 else 1⟩,
         ⟨31, 1, s.migrationQueue.length⟩, ⟨32, 1, match s.migration with | none => 255 | some m => m.rank⟩,
         ⟨33, 1, match s.migration with
           | none => 255 | some m => ((s.findRemap m.rank m.row).map RemapEntry.cursor).getD 255⟩,
         ⟨36, 4, match s.migration with | none => 4294967295 | some m => m.row⟩] ++
        (List.range 4).map (fun r => ⟨40 + r, 1, if (s.rankDevices r).markedDevice.isNone then 0
          else if (s.rankDevices r).inFlight then (if s.held .rebuild then 2 else 1) else 3⟩) ++
        (List.range 4).map (fun r => ⟨44 + 4 * r, 4, (s.rankDevices r).cursor⟩)) ∧
     HoldsFields s.statusPart2
       [⟨0, 6, s.time.toNat⟩, ⟨8, 4, match s.lastUncorrectable with | none => 4294967295 | some x => x.1⟩,
        ⟨12, 6, match s.lastUncorrectable with | none => timeOfNone | some x => x.2.toNat⟩,
        ⟨20, 4, s.counters.corrected⟩, ⟨24, 4, s.counters.deepCorrected⟩, ⟨28, 4, s.counters.uncorrectable⟩,
        ⟨32, 4, s.counters.erasedReads⟩, ⟨36, 4, s.counters.writeBacksSkipped⟩, ⟨40, 4, s.counters.untrackedEvents⟩,
        ⟨44, 4, s.counters.journalHeld⟩]) ∧
  (∀ (s : State) (r : JournalRecord) (rest : List JournalRecord), s.handOff = none → s.journal.staging = r :: rest →
     (r.kind.isCorrectedKind = true → s.journalFree ≤ 32 →
       ∃ t, exec .stagingDeparture s = .next (State.finish t) ∧ t.journal.staging = rest ∧
         t.journal.published = s.journal.published ∧ t.writer = s.writer ∧
         t.counters = { s.counters with journalHeld := bump s.counters.journalHeld } ∧
         t = { s with waiters := t.waiters, journal := t.journal, counters := t.counters }) ∧
     (s.mayEnter .journal = true → s.roomFor r.kind = true →
       ∃ t, exec .stagingDeparture s = .next (State.finish t) ∧ t.journal.staging = rest ∧
         t.writer = s.writer ++
           [.line (1024 + s.journal.published.toNat % 1024) (journalLine r s.journal.published)] ∧
         t.journal.published = s.journal.published + 1 ∧
         (s.journal.coalesce + 1 < s.policy.coalesceCount → t.journal.coalesce = s.journal.coalesce + 1 ∧
           (s.journal.coalesce = 0 → t.journal.holdoff = some (timeAfter s.time s.policy.holdoff)) ∧
           (s.journal.coalesce ≠ 0 → t.journal.holdoff = s.journal.holdoff)) ∧
         (s.policy.coalesceCount ≤ s.journal.coalesce + 1 → t.journal.causes.journal = true ∧
           t.journal.coalesce = 0 ∧ t.journal.holdoff = none) ∧
         t = { s with writer := t.writer, waiters := t.waiters, journal := t.journal })) ∧
  (∀ s : State, s.handOff = none →
     (∀ t, s.journal.holdoff = some t → hasReached s.time t = true →
       ∃ u : State, exec .holdoffExpiry s = .next (State.finish u) ∧ u.journal.causes.journal = true ∧
         u.noticeLine = true ∧
         u = { s with journal := { s.journal with coalesce := 0, holdoff := none,
                                                  causes := { s.journal.causes with journal := true } },
                      waiters := u.waiters }) ∧
     (∀ t, s.journal.statusTimer = some t → hasReached s.time t = true →
       ∃ u : State, exec .statusTimerExpiry s = .next (State.finish u) ∧ u.waiters.contains .status = true ∧
         u = { s with journal := { s.journal with statusTimer := none }, waiters := u.waiters }) ∧
     (s.waiters.head? = some .status → s.writer.length + 2 ≤ 32 →
       exec .statusWrite s = .next (State.finish
         { s with waiters := s.waiters.erase .status,
                  writer := s.writer ++ [.line 1 (State.statusPart1 { s with waiters := s.waiters.erase .status }),
                                         .line 3 (State.statusPart2 { s with waiters := s.waiters.erase .status })],
                  journal := { s.journal with
                    statusTimer := some (timeAfter s.time s.policy.statusInterval) } })) ∧
     (s.noticeLine = true ↔ s.journal.causes.order = true ∨ s.journal.causes.journal = true ∨
       s.journal.causes.uncorrectable = true ∨ s.journal.causes.room = true))

/-! ## Invariants -/

/-- Every step keeps the three memories in canonical form. -/
def Obligations.StepsKeepMemoryCanonical : Prop :=
  ∀ s t : State, s.MemoriesCanonical → step s = .next t → t.MemoriesCanonical

/-- Every step keeps every queue within its places (R52, R115, R129, R174, R176), accesses waiting on a rank port only
behind one that has not received its grants (R37), the host lines of the write-back queue distinct (R52), and the slots
held TAKEN at 14 or fewer (R164, R166). -/
def Obligations.StepsKeepQueuesBounded : Prop :=
  ∀ s t : State, step s = .next t →
    (s.QueuesBounded → t.QueuesBounded) ∧ (s.AccessesInOrder → t.AccessesInOrder) ∧
      (s.WriteBacksDistinct → t.WriteBacksDistinct) ∧ (s.SlotsHeldInRange → t.SlotsHeldInRange)

/-- Every step keeps W - M between 0 and 1024 (R175), the policy, credit, owed and rate in their ranges (R107, R168), and
the pass cursor, pass number and pass counts in theirs (R93). -/
def Obligations.StepsKeepJournalAndPacerRanges : Prop :=
  ∀ s t : State, step s = .next t →
    (s.JournalInRange → t.JournalInRange) ∧ (s.PacerInRange → t.PacerInRange) ∧ (s.PassInRange → t.PassInRange)

/-- Every step keeps the Line Fault Table's bounds and distinct keys (R61); and it keeps, together, the remap entries with
their spare rows and the migration queue sound: distinct host rows, distinct spare rows that are the IN_USE ones, one
MIGRATING entry at most, a FREE spare row for every retirement that waits, and a fault entry PENDING exactly while a
retirement of its row waits or migrates (R70, R127 to R129, R132). -/
def Obligations.StepsKeepTableSound : Prop :=
  ∀ s t : State, step s = .next t →
    (s.TableSound → t.TableSound) ∧
      (s.RemapsSound → s.RetirementsSound → t.RemapsSound ∧ t.RetirementsSound)

/-- Every step keeps every rank's device states and position map sound (R145). -/
def Obligations.StepsKeepDevicesSound : Prop :=
  ∀ s t : State, s.DevicesSound → step s = .next t → t.DevicesSound

/-- The invariants hold after power-on reset. -/
def Obligations.InvariantsHoldAtReset : Prop :=
  State.reset.MemoriesCanonical ∧ State.reset.QueuesBounded ∧ State.reset.JournalInRange ∧
    State.reset.PacerInRange ∧ State.reset.TableSound ∧ State.reset.DevicesSound ∧ State.reset.AccessesInOrder ∧
    State.reset.WriteBacksDistinct ∧ State.reset.SlotsHeldInRange ∧ State.reset.PassInRange ∧
    State.reset.RemapsSound ∧ State.reset.RetirementsSound

/-! ## The arbiter -/

/-- The arbiter (R17 to R19, R87, R95, R117, R119, R133, R152, R174): a class is held by quiesce or by an ACTIVE window
of its scope; each engine's request stands exactly while its conditions hold (the rebuild's choice of rank, once made,
is kept: log 29); a port may be granted at a precedence when no pair holds it and nothing of higher precedence claims
it. That a grant command which the arbiter would not give changes nothing is the model's choice (log 1). -/
def Obligations.ArbiterGrantsByPrecedence : Prop :=
  (∀ (s : State) (c : WorkClass),
     (s.heldByWindow c = true ↔ ∃ i, i < 32 ∧ (s.window i).state = .active ∧ (s.window i).scope.getLsbD
       (match c with | .patrol => 0 | .migration => 1 | .rebuild => 2 | .targeted => 3) = true) ∧
     (s.held c = true ↔ s.heldByWindow c = true ∨ s.quiesced = true)) ∧
  (∀ s : State,
     (s.patrolRequests = true ↔ s.ready = true ∧ s.policy.patrolEnable = 1 ∧ s.held .patrol = false ∧
       1 ≤ s.patrol.owed ∧ s.patrolOp = none ∧ s.patrol.cursor < s.lTotal) ∧
     (∀ o, s.targetedRequest = some o ↔ s.ready = true ∧ s.targetedOp = none ∧ s.quiesced = false ∧
       ((∃ before after, s.targeted = before ++ o :: after ∧ o.urgent = true ∧ ∀ x ∈ before, x.urgent = false) ∨
        ((∀ x ∈ s.targeted, x.urgent = false) ∧ s.targeted.head? = some o ∧ s.heldByWindow .targeted = false ∧
          s.counts.targeted < s.counts.limit))) ∧
     (∀ e, s.migrationRequest = some e ↔ s.ready = true ∧ s.held .migration = false ∧
       s.counts.migration < s.counts.limit ∧ s.migrationOp = none ∧ e.cursor < 128 ∧
       ∃ m, s.migration = some m ∧ s.findRemap m.rank m.row = some e)) ∧
  (∀ (s : State) (rebuilding : Nat → Prop),
     (∀ r, rebuilding r ↔ r < s.ranks ∧ (s.rankDevices r).inFlight = true ∧ (s.rankDevices r).cursor < 33570816) →
     (∀ r, s.currentChoice = some r → s.ready = true ∧ s.held .rebuild = false ∧ s.counts.rebuild < s.counts.limit ∧
       s.rebuildOp = none ∧ rebuilding r) ∧
     (s.ready = true → s.held .rebuild = false → s.counts.rebuild < s.counts.limit → s.rebuildOp = none →
       (∀ r, s.rebuildChoice = some r → rebuilding r → s.currentChoice = some r) ∧
       (∀ k, (∀ r, s.rebuildChoice = some r → ¬ rebuilding r) → k < 4 → rebuilding ((s.lastRebuilt + 1 + k) % 4) →
         (∀ j, j < k → ¬ rebuilding ((s.lastRebuilt + 1 + j) % 4)) →
         s.currentChoice = some ((s.lastRebuilt + 1 + k) % 4)))) ∧
  (∀ (s : State) (port : Nat) (waitsToWrite : Option OpenLine → Prop),
     (∀ x, waitsToWrite x ↔ ∃ op c, x = some op ∧ op.stage = .writing c ∧ op.rank = port) →
     (∀ k, s.mayGrant port k = true ↔ port < s.ranks ∧
       (∀ h d m x o, s.access port ≠ .merging h d m x o) ∧ (∀ h c o x, s.access port ≠ .halfWaits h c o x) ∧
       ∀ j, j < k → s.claims port j = false) ∧
     (s.claims port 1 = true ↔ s.ready = true ∧ ((∃ h, s.access port = .readWaits h) ∨
       (∃ h d, s.access port = .fullWaits h d) ∨ (∃ h d m, s.access port = .mergeWaits h d m) ∨
       ∃ h d m, s.access port = .entryWaits h d m)) ∧
     (s.claims port 2 = true ↔ (s.ready = true ∨ s.restarting = true) ∧ port = rankOf s.base ∧
       (s.writer ≠ [] ∨ ∃ o, s.ownRead = some o ∧ o.stage = .requested)) ∧
     (s.claims port 3 = true ↔ s.ready = true ∧ ∃ e ∈ s.writeBacks, rankOf e.host = port) ∧
     (∀ urgent, s.claims port (if urgent then 4 else 7) = true ↔
       (∃ o, s.targetedRequest = some o ∧ o.urgent = urgent ∧ rankOf o.cursor = port) ∨
       (waitsToWrite s.targetedOp ∧ ∃ o, s.orderUnderWay = some o ∧ o.urgent = urgent)) ∧
     (s.claims port 5 = true ↔ (∃ e, s.migrationRequest = some e ∧ e.rank = port) ∨ waitsToWrite s.migrationOp) ∧
     (s.claims port 6 = true ↔ s.currentChoice = some port ∨ waitsToWrite s.rebuildOp) ∧
     (s.claims port 8 = true ↔ (s.patrolRequests = true ∧ rankOf s.patrol.cursor = port) ∨ waitsToWrite s.patrolOp) ∧
     s.claims port 0 = false) ∧
  (∀ (s : State) (errors : List SliceError), s.handOff = none →
     (∀ port, s.mayGrant port 1 = false → exec (.serverReadGrant port errors) s = .next s.finish ∧
       exec (.fullLineWriteGrant port) s = .next s.finish ∧ exec (.mergeReadGrant port errors) s = .next s.finish ∧
       exec (.maskedWriteEntryGrant port) s = .next s.finish) ∧
     (s.mayGrant s.windowRank 2 = false → exec .cwWriterGrant s = .next s.finish) ∧
     (s.mayGrant s.windowRank 2 = false ∨ s.writer ≠ [] → exec (.ownReadGrant errors) s = .next s.finish) ∧
     (∀ port, s.mayGrant port 3 = false → exec (.writeBackGrant port) s = .next s.finish) ∧
     ((∀ o, s.targetedRequest = some o → s.mayGrant (rankOf o.cursor) (if o.urgent then 4 else 7) = false) →
       exec (.scrubVisitReadGrant errors) s = .next s.finish ∧ exec (.probeReadGrant errors) s = .next s.finish) ∧
     ((∀ e, s.migrationRequest = some e → s.mayGrant e.rank 5 = false) →
       exec (.copyReadGrant errors) s = .next s.finish) ∧
     ((∀ r, s.currentChoice = some r → s.mayGrant r 6 = false) →
       exec (.rebuildReadGrant errors) s = .next s.finish) ∧
     (s.patrolRequests = false ∨ s.mayGrant (rankOf s.patrol.cursor) 8 = false →
       exec (.patrolReadGrant errors) s = .next s.finish) ∧
     (∀ op o, s.targetedOp = some op → s.orderUnderWay = some o →
       s.mayGrant op.rank (if o.urgent then 4 else 7) = false →
       exec .scrubVisitWriteGrant s = .next s.finish) ∧
     (∀ op, s.migrationOp = some op → s.mayGrant op.rank 5 = false → exec .copyWriteGrant s = .next s.finish) ∧
     (∀ op, s.rebuildOp = some op → s.mayGrant op.rank 6 = false → exec .rebuildWriteGrant s = .next s.finish) ∧
     (∀ op, s.patrolOp = some op → s.mayGrant op.rank 8 = false → exec .patrolWriteGrant s = .next s.finish))

end Statements
end

