-- ==== Sys2Proof/Laws/State.lean ====
section
/-! SUPPORT. Laws of State's updates: what each setter writes, and, field by field, what it leaves. -/

namespace Sys2Proof.Machine

/-! ## Vectors by index -/

/-- An element written is read back. -/
theorem nth_put_same {α : Type} {n : Nat} (v : Vector α n) (i : Nat) (x d : α) (h : i < n) :
    nth (put v i x) i d = x := by
  simp [nth, put, h]

/-- Every other element is as before. -/
theorem nth_put_other {α : Type} {n : Nat} (v : Vector α n) (i j : Nat) (x d : α) (h : j ≠ i) :
    nth (put v i x) j d = nth v j d := by
  simp only [nth, put]
  by_cases hj : j < n
  · simp [hj, Ne.symm h]
  · simp [hj]

/-- Writing outside the vector writes nothing. -/
theorem put_outside {α : Type} {n : Nat} (v : Vector α n) (i : Nat) (x : α) (h : n ≤ i) : put v i x = v := by
  simp [put, Vector.setIfInBounds_eq_of_size_le h]

/-! ## The setters -/

@[simp] theorem State.setRankDevices_devices (s : State) (rank : Nat) (d : RankDevices) :
    (s.setRankDevices rank d).devices = put s.devices rank d := rfl

/-- Replacing the device map of a rank leaves every other field. -/
@[simp] theorem State.setRankDevices_leaves (s : State) (rank : Nat) (d : RankDevices) :
    (s.setRankDevices rank d).pending = s.pending ∧ (s.setRankDevices rank d).time = s.time ∧
    (s.setRankDevices rank d).ranks = s.ranks ∧ (s.setRankDevices rank d).base = s.base ∧
    (s.setRankDevices rank d).phase = s.phase ∧ (s.setRankDevices rank d).initCursor = s.initCursor ∧
    (s.setRankDevices rank d).resetCause = s.resetCause ∧ (s.setRankDevices rank d).cells = s.cells ∧
    (s.setRankDevices rank d).written = s.written ∧ (s.setRankDevices rank d).poisoned = s.poisoned ∧
    (s.setRankDevices rank d).patrolOp = s.patrolOp ∧ (s.setRankDevices rank d).targetedOp = s.targetedOp ∧
    (s.setRankDevices rank d).migrationOp = s.migrationOp ∧ (s.setRankDevices rank d).rebuildOp = s.rebuildOp ∧
    (s.setRankDevices rank d).counts = s.counts ∧ (s.setRankDevices rank d).ports = s.ports ∧
    (s.setRankDevices rank d).arrivals = s.arrivals ∧ (s.setRankDevices rank d).reads = s.reads ∧
    (s.setRankDevices rank d).writeBacks = s.writeBacks ∧ (s.setRankDevices rank d).replies = s.replies ∧
    (s.setRankDevices rank d).handOff = s.handOff ∧ (s.setRankDevices rank d).table = s.table ∧
    (s.setRankDevices rank d).suspects = s.suspects ∧ (s.setRankDevices rank d).decayTick = s.decayTick ∧
    (s.setRankDevices rank d).windows = s.windows ∧ (s.setRankDevices rank d).patrol = s.patrol ∧
    (s.setRankDevices rank d).nextInterval = s.nextInterval ∧ (s.setRankDevices rank d).reviewed = s.reviewed ∧
    (s.setRankDevices rank d).targeted = s.targeted ∧ (s.setRankDevices rank d).spares = s.spares ∧
    (s.setRankDevices rank d).remaps = s.remaps ∧ (s.setRankDevices rank d).migrationQueue = s.migrationQueue ∧
    (s.setRankDevices rank d).migration = s.migration ∧ (s.setRankDevices rank d).retained = s.retained ∧
    (s.setRankDevices rank d).lastRebuilt = s.lastRebuilt ∧ (s.setRankDevices rank d).rebuildChoice = s.rebuildChoice ∧
    (s.setRankDevices rank d).slots = s.slots ∧ (s.setRankDevices rank d).takeCursor = s.takeCursor ∧
    (s.setRankDevices rank d).ownRead = s.ownRead ∧ (s.setRankDevices rank d).quiesced = s.quiesced ∧
    (s.setRankDevices rank d).quiesceSlot = s.quiesceSlot ∧ (s.setRankDevices rank d).policy = s.policy ∧
    (s.setRankDevices rank d).exportJob = s.exportJob ∧ (s.setRankDevices rank d).exportNumber = s.exportNumber ∧
    (s.setRankDevices rank d).writer = s.writer ∧ (s.setRankDevices rank d).waiters = s.waiters ∧
    (s.setRankDevices rank d).journal = s.journal ∧ (s.setRankDevices rank d).counters = s.counters ∧
    (s.setRankDevices rank d).lastUncorrectable = s.lastUncorrectable :=
  ⟨rfl, rfl, rfl, rfl, rfl, rfl, rfl, rfl, rfl, rfl, rfl, rfl, rfl, rfl, rfl, rfl, rfl, rfl, rfl, rfl, rfl, rfl, rfl,
   rfl, rfl, rfl, rfl, rfl, rfl, rfl, rfl, rfl, rfl, rfl, rfl, rfl, rfl, rfl, rfl, rfl, rfl, rfl, rfl, rfl, rfl, rfl,
   rfl, rfl, rfl⟩

@[simp] theorem State.setSpareState_spares (s : State) (rank index : Nat) (x : SpareState) :
    (s.setSpareState rank index x).spares = put s.spares rank (put (nth s.spares rank (Vector.replicate 128 .discarded)) index x) := rfl

/-- Changing the state of a spare row leaves every other field. -/
@[simp] theorem State.setSpareState_leaves (s : State) (rank index : Nat) (x : SpareState) :
    (s.setSpareState rank index x).pending = s.pending ∧ (s.setSpareState rank index x).time = s.time ∧
    (s.setSpareState rank index x).ranks = s.ranks ∧ (s.setSpareState rank index x).base = s.base ∧
    (s.setSpareState rank index x).phase = s.phase ∧ (s.setSpareState rank index x).initCursor = s.initCursor ∧
    (s.setSpareState rank index x).resetCause = s.resetCause ∧ (s.setSpareState rank index x).cells = s.cells ∧
    (s.setSpareState rank index x).written = s.written ∧ (s.setSpareState rank index x).poisoned = s.poisoned ∧
    (s.setSpareState rank index x).patrolOp = s.patrolOp ∧ (s.setSpareState rank index x).targetedOp = s.targetedOp ∧
    (s.setSpareState rank index x).migrationOp = s.migrationOp ∧
    (s.setSpareState rank index x).rebuildOp = s.rebuildOp ∧ (s.setSpareState rank index x).counts = s.counts ∧
    (s.setSpareState rank index x).ports = s.ports ∧ (s.setSpareState rank index x).arrivals = s.arrivals ∧
    (s.setSpareState rank index x).reads = s.reads ∧ (s.setSpareState rank index x).writeBacks = s.writeBacks ∧
    (s.setSpareState rank index x).replies = s.replies ∧ (s.setSpareState rank index x).handOff = s.handOff ∧
    (s.setSpareState rank index x).table = s.table ∧ (s.setSpareState rank index x).suspects = s.suspects ∧
    (s.setSpareState rank index x).decayTick = s.decayTick ∧ (s.setSpareState rank index x).windows = s.windows ∧
    (s.setSpareState rank index x).patrol = s.patrol ∧ (s.setSpareState rank index x).nextInterval = s.nextInterval ∧
    (s.setSpareState rank index x).reviewed = s.reviewed ∧ (s.setSpareState rank index x).targeted = s.targeted ∧
    (s.setSpareState rank index x).remaps = s.remaps ∧
    (s.setSpareState rank index x).migrationQueue = s.migrationQueue ∧
    (s.setSpareState rank index x).migration = s.migration ∧ (s.setSpareState rank index x).retained = s.retained ∧
    (s.setSpareState rank index x).devices = s.devices ∧ (s.setSpareState rank index x).lastRebuilt = s.lastRebuilt ∧
    (s.setSpareState rank index x).rebuildChoice = s.rebuildChoice ∧ (s.setSpareState rank index x).slots = s.slots ∧
    (s.setSpareState rank index x).takeCursor = s.takeCursor ∧ (s.setSpareState rank index x).ownRead = s.ownRead ∧
    (s.setSpareState rank index x).quiesced = s.quiesced ∧ (s.setSpareState rank index x).quiesceSlot = s.quiesceSlot ∧
    (s.setSpareState rank index x).policy = s.policy ∧ (s.setSpareState rank index x).exportJob = s.exportJob ∧
    (s.setSpareState rank index x).exportNumber = s.exportNumber ∧ (s.setSpareState rank index x).writer = s.writer ∧
    (s.setSpareState rank index x).waiters = s.waiters ∧ (s.setSpareState rank index x).journal = s.journal ∧
    (s.setSpareState rank index x).counters = s.counters ∧
    (s.setSpareState rank index x).lastUncorrectable = s.lastUncorrectable :=
  ⟨rfl, rfl, rfl, rfl, rfl, rfl, rfl, rfl, rfl, rfl, rfl, rfl, rfl, rfl, rfl, rfl, rfl, rfl, rfl, rfl, rfl, rfl, rfl,
   rfl, rfl, rfl, rfl, rfl, rfl, rfl, rfl, rfl, rfl, rfl, rfl, rfl, rfl, rfl, rfl, rfl, rfl, rfl, rfl, rfl, rfl, rfl,
   rfl, rfl, rfl⟩

@[simp] theorem State.setAccess_ports (s : State) (port : Nat) (a : PortAccess) :
    (s.setAccess port a).ports = put s.ports port a := rfl

/-- Replacing the server access of a port leaves every other field. -/
@[simp] theorem State.setAccess_leaves (s : State) (port : Nat) (a : PortAccess) :
    (s.setAccess port a).pending = s.pending ∧ (s.setAccess port a).time = s.time ∧
    (s.setAccess port a).ranks = s.ranks ∧ (s.setAccess port a).base = s.base ∧ (s.setAccess port a).phase = s.phase ∧
    (s.setAccess port a).initCursor = s.initCursor ∧ (s.setAccess port a).resetCause = s.resetCause ∧
    (s.setAccess port a).cells = s.cells ∧ (s.setAccess port a).written = s.written ∧
    (s.setAccess port a).poisoned = s.poisoned ∧ (s.setAccess port a).patrolOp = s.patrolOp ∧
    (s.setAccess port a).targetedOp = s.targetedOp ∧ (s.setAccess port a).migrationOp = s.migrationOp ∧
    (s.setAccess port a).rebuildOp = s.rebuildOp ∧ (s.setAccess port a).counts = s.counts ∧
    (s.setAccess port a).arrivals = s.arrivals ∧ (s.setAccess port a).reads = s.reads ∧
    (s.setAccess port a).writeBacks = s.writeBacks ∧ (s.setAccess port a).replies = s.replies ∧
    (s.setAccess port a).handOff = s.handOff ∧ (s.setAccess port a).table = s.table ∧
    (s.setAccess port a).suspects = s.suspects ∧ (s.setAccess port a).decayTick = s.decayTick ∧
    (s.setAccess port a).windows = s.windows ∧ (s.setAccess port a).patrol = s.patrol ∧
    (s.setAccess port a).nextInterval = s.nextInterval ∧ (s.setAccess port a).reviewed = s.reviewed ∧
    (s.setAccess port a).targeted = s.targeted ∧ (s.setAccess port a).spares = s.spares ∧
    (s.setAccess port a).remaps = s.remaps ∧ (s.setAccess port a).migrationQueue = s.migrationQueue ∧
    (s.setAccess port a).migration = s.migration ∧ (s.setAccess port a).retained = s.retained ∧
    (s.setAccess port a).devices = s.devices ∧ (s.setAccess port a).lastRebuilt = s.lastRebuilt ∧
    (s.setAccess port a).rebuildChoice = s.rebuildChoice ∧ (s.setAccess port a).slots = s.slots ∧
    (s.setAccess port a).takeCursor = s.takeCursor ∧ (s.setAccess port a).ownRead = s.ownRead ∧
    (s.setAccess port a).quiesced = s.quiesced ∧ (s.setAccess port a).quiesceSlot = s.quiesceSlot ∧
    (s.setAccess port a).policy = s.policy ∧ (s.setAccess port a).exportJob = s.exportJob ∧
    (s.setAccess port a).exportNumber = s.exportNumber ∧ (s.setAccess port a).writer = s.writer ∧
    (s.setAccess port a).waiters = s.waiters ∧ (s.setAccess port a).journal = s.journal ∧
    (s.setAccess port a).counters = s.counters ∧ (s.setAccess port a).lastUncorrectable = s.lastUncorrectable :=
  ⟨rfl, rfl, rfl, rfl, rfl, rfl, rfl, rfl, rfl, rfl, rfl, rfl, rfl, rfl, rfl, rfl, rfl, rfl, rfl, rfl, rfl, rfl, rfl,
   rfl, rfl, rfl, rfl, rfl, rfl, rfl, rfl, rfl, rfl, rfl, rfl, rfl, rfl, rfl, rfl, rfl, rfl, rfl, rfl, rfl, rfl, rfl,
   rfl, rfl, rfl⟩

@[simp] theorem State.setArrivals_arrivals (s : State) (port : Nat) (l : List ServerAccess) :
    (s.setArrivals port l).arrivals = put s.arrivals port l := rfl

/-- Replacing the accesses that wait on a port leaves every other field. -/
@[simp] theorem State.setArrivals_leaves (s : State) (port : Nat) (l : List ServerAccess) :
    (s.setArrivals port l).pending = s.pending ∧ (s.setArrivals port l).time = s.time ∧
    (s.setArrivals port l).ranks = s.ranks ∧ (s.setArrivals port l).base = s.base ∧
    (s.setArrivals port l).phase = s.phase ∧ (s.setArrivals port l).initCursor = s.initCursor ∧
    (s.setArrivals port l).resetCause = s.resetCause ∧ (s.setArrivals port l).cells = s.cells ∧
    (s.setArrivals port l).written = s.written ∧ (s.setArrivals port l).poisoned = s.poisoned ∧
    (s.setArrivals port l).patrolOp = s.patrolOp ∧ (s.setArrivals port l).targetedOp = s.targetedOp ∧
    (s.setArrivals port l).migrationOp = s.migrationOp ∧ (s.setArrivals port l).rebuildOp = s.rebuildOp ∧
    (s.setArrivals port l).counts = s.counts ∧ (s.setArrivals port l).ports = s.ports ∧
    (s.setArrivals port l).reads = s.reads ∧ (s.setArrivals port l).writeBacks = s.writeBacks ∧
    (s.setArrivals port l).replies = s.replies ∧ (s.setArrivals port l).handOff = s.handOff ∧
    (s.setArrivals port l).table = s.table ∧ (s.setArrivals port l).suspects = s.suspects ∧
    (s.setArrivals port l).decayTick = s.decayTick ∧ (s.setArrivals port l).windows = s.windows ∧
    (s.setArrivals port l).patrol = s.patrol ∧ (s.setArrivals port l).nextInterval = s.nextInterval ∧
    (s.setArrivals port l).reviewed = s.reviewed ∧ (s.setArrivals port l).targeted = s.targeted ∧
    (s.setArrivals port l).spares = s.spares ∧ (s.setArrivals port l).remaps = s.remaps ∧
    (s.setArrivals port l).migrationQueue = s.migrationQueue ∧ (s.setArrivals port l).migration = s.migration ∧
    (s.setArrivals port l).retained = s.retained ∧ (s.setArrivals port l).devices = s.devices ∧
    (s.setArrivals port l).lastRebuilt = s.lastRebuilt ∧ (s.setArrivals port l).rebuildChoice = s.rebuildChoice ∧
    (s.setArrivals port l).slots = s.slots ∧ (s.setArrivals port l).takeCursor = s.takeCursor ∧
    (s.setArrivals port l).ownRead = s.ownRead ∧ (s.setArrivals port l).quiesced = s.quiesced ∧
    (s.setArrivals port l).quiesceSlot = s.quiesceSlot ∧ (s.setArrivals port l).policy = s.policy ∧
    (s.setArrivals port l).exportJob = s.exportJob ∧ (s.setArrivals port l).exportNumber = s.exportNumber ∧
    (s.setArrivals port l).writer = s.writer ∧ (s.setArrivals port l).waiters = s.waiters ∧
    (s.setArrivals port l).journal = s.journal ∧ (s.setArrivals port l).counters = s.counters ∧
    (s.setArrivals port l).lastUncorrectable = s.lastUncorrectable :=
  ⟨rfl, rfl, rfl, rfl, rfl, rfl, rfl, rfl, rfl, rfl, rfl, rfl, rfl, rfl, rfl, rfl, rfl, rfl, rfl, rfl, rfl, rfl, rfl,
   rfl, rfl, rfl, rfl, rfl, rfl, rfl, rfl, rfl, rfl, rfl, rfl, rfl, rfl, rfl, rfl, rfl, rfl, rfl, rfl, rfl, rfl, rfl,
   rfl, rfl, rfl⟩

/-- The accesses that wait on a port are read back, and those of every other port are as before. -/
theorem State.arrivalsAt_setArrivals (s : State) (port p : Nat) (l : List ServerAccess) :
    (s.setArrivals port l).arrivalsAt p = if p = port ∧ port < 4 then l else s.arrivalsAt p := by
  unfold State.arrivalsAt State.setArrivals
  split
  · next h => rw [h.1]; exact nth_put_same _ _ _ _ h.2
  · next h =>
    by_cases hp : p = port
    · rw [put_outside _ _ _ (by omega)]
    · exact nth_put_other _ _ _ _ _ hp

/-- Where no access waits, writing that none waits changes nothing. -/
theorem State.setArrivals_nil (s : State) (port : Nat) (h : s.arrivalsAt port = []) : s.setArrivals port [] = s := by
  have e : put s.arrivals port [] = s.arrivals := by
    apply Vector.ext
    intro i hi
    by_cases hp : port = i
    · subst hp
      have : s.arrivals[port] = [] := by simpa [State.arrivalsAt, nth, hi] using h
      simp [put, this]
    · simp [put, hp]
  unfold State.setArrivals
  rw [e]

/-- Replacing the accesses that wait on a port leaves every access presented. -/
@[simp] theorem State.setArrivals_access (s : State) (port p : Nat) (l : List ServerAccess) :
    (s.setArrivals port l).access p = s.access p := rfl

@[simp] theorem State.setSlot_slots (s : State) (i : Nat) (m : SlotMirror) :
    (s.setSlot i m).slots = put s.slots i m := rfl

/-- Replacing the mirror of a slot leaves every other field. -/
@[simp] theorem State.setSlot_leaves (s : State) (i : Nat) (m : SlotMirror) :
    (s.setSlot i m).pending = s.pending ∧ (s.setSlot i m).time = s.time ∧ (s.setSlot i m).ranks = s.ranks ∧
    (s.setSlot i m).base = s.base ∧ (s.setSlot i m).phase = s.phase ∧ (s.setSlot i m).initCursor = s.initCursor ∧
    (s.setSlot i m).resetCause = s.resetCause ∧ (s.setSlot i m).cells = s.cells ∧ (s.setSlot i m).written = s.written ∧
    (s.setSlot i m).poisoned = s.poisoned ∧ (s.setSlot i m).patrolOp = s.patrolOp ∧
    (s.setSlot i m).targetedOp = s.targetedOp ∧ (s.setSlot i m).migrationOp = s.migrationOp ∧
    (s.setSlot i m).rebuildOp = s.rebuildOp ∧ (s.setSlot i m).counts = s.counts ∧ (s.setSlot i m).ports = s.ports ∧
    (s.setSlot i m).arrivals = s.arrivals ∧ (s.setSlot i m).reads = s.reads ∧
    (s.setSlot i m).writeBacks = s.writeBacks ∧ (s.setSlot i m).replies = s.replies ∧
    (s.setSlot i m).handOff = s.handOff ∧ (s.setSlot i m).table = s.table ∧ (s.setSlot i m).suspects = s.suspects ∧
    (s.setSlot i m).decayTick = s.decayTick ∧ (s.setSlot i m).windows = s.windows ∧ (s.setSlot i m).patrol = s.patrol ∧
    (s.setSlot i m).nextInterval = s.nextInterval ∧ (s.setSlot i m).reviewed = s.reviewed ∧
    (s.setSlot i m).targeted = s.targeted ∧ (s.setSlot i m).spares = s.spares ∧ (s.setSlot i m).remaps = s.remaps ∧
    (s.setSlot i m).migrationQueue = s.migrationQueue ∧ (s.setSlot i m).migration = s.migration ∧
    (s.setSlot i m).retained = s.retained ∧ (s.setSlot i m).devices = s.devices ∧
    (s.setSlot i m).lastRebuilt = s.lastRebuilt ∧ (s.setSlot i m).rebuildChoice = s.rebuildChoice ∧
    (s.setSlot i m).takeCursor = s.takeCursor ∧ (s.setSlot i m).ownRead = s.ownRead ∧
    (s.setSlot i m).quiesced = s.quiesced ∧ (s.setSlot i m).quiesceSlot = s.quiesceSlot ∧
    (s.setSlot i m).policy = s.policy ∧ (s.setSlot i m).exportJob = s.exportJob ∧
    (s.setSlot i m).exportNumber = s.exportNumber ∧ (s.setSlot i m).writer = s.writer ∧
    (s.setSlot i m).waiters = s.waiters ∧ (s.setSlot i m).journal = s.journal ∧ (s.setSlot i m).counters = s.counters ∧
    (s.setSlot i m).lastUncorrectable = s.lastUncorrectable :=
  ⟨rfl, rfl, rfl, rfl, rfl, rfl, rfl, rfl, rfl, rfl, rfl, rfl, rfl, rfl, rfl, rfl, rfl, rfl, rfl, rfl, rfl, rfl, rfl,
   rfl, rfl, rfl, rfl, rfl, rfl, rfl, rfl, rfl, rfl, rfl, rfl, rfl, rfl, rfl, rfl, rfl, rfl, rfl, rfl, rfl, rfl, rfl,
   rfl, rfl, rfl⟩

@[simp] theorem State.setWindow_windows (s : State) (i : Nat) (w : WindowEntry) :
    (s.setWindow i w).windows = put s.windows i w := rfl

/-- Replacing a window mirror entry leaves every other field. -/
@[simp] theorem State.setWindow_leaves (s : State) (i : Nat) (w : WindowEntry) :
    (s.setWindow i w).pending = s.pending ∧ (s.setWindow i w).time = s.time ∧ (s.setWindow i w).ranks = s.ranks ∧
    (s.setWindow i w).base = s.base ∧ (s.setWindow i w).phase = s.phase ∧ (s.setWindow i w).initCursor = s.initCursor ∧
    (s.setWindow i w).resetCause = s.resetCause ∧ (s.setWindow i w).cells = s.cells ∧
    (s.setWindow i w).written = s.written ∧ (s.setWindow i w).poisoned = s.poisoned ∧
    (s.setWindow i w).patrolOp = s.patrolOp ∧ (s.setWindow i w).targetedOp = s.targetedOp ∧
    (s.setWindow i w).migrationOp = s.migrationOp ∧ (s.setWindow i w).rebuildOp = s.rebuildOp ∧
    (s.setWindow i w).counts = s.counts ∧ (s.setWindow i w).ports = s.ports ∧ (s.setWindow i w).arrivals = s.arrivals ∧
    (s.setWindow i w).reads = s.reads ∧ (s.setWindow i w).writeBacks = s.writeBacks ∧
    (s.setWindow i w).replies = s.replies ∧ (s.setWindow i w).handOff = s.handOff ∧ (s.setWindow i w).table = s.table ∧
    (s.setWindow i w).suspects = s.suspects ∧ (s.setWindow i w).decayTick = s.decayTick ∧
    (s.setWindow i w).patrol = s.patrol ∧ (s.setWindow i w).nextInterval = s.nextInterval ∧
    (s.setWindow i w).reviewed = s.reviewed ∧ (s.setWindow i w).targeted = s.targeted ∧
    (s.setWindow i w).spares = s.spares ∧ (s.setWindow i w).remaps = s.remaps ∧
    (s.setWindow i w).migrationQueue = s.migrationQueue ∧ (s.setWindow i w).migration = s.migration ∧
    (s.setWindow i w).retained = s.retained ∧ (s.setWindow i w).devices = s.devices ∧
    (s.setWindow i w).lastRebuilt = s.lastRebuilt ∧ (s.setWindow i w).rebuildChoice = s.rebuildChoice ∧
    (s.setWindow i w).slots = s.slots ∧ (s.setWindow i w).takeCursor = s.takeCursor ∧
    (s.setWindow i w).ownRead = s.ownRead ∧ (s.setWindow i w).quiesced = s.quiesced ∧
    (s.setWindow i w).quiesceSlot = s.quiesceSlot ∧ (s.setWindow i w).policy = s.policy ∧
    (s.setWindow i w).exportJob = s.exportJob ∧ (s.setWindow i w).exportNumber = s.exportNumber ∧
    (s.setWindow i w).writer = s.writer ∧ (s.setWindow i w).waiters = s.waiters ∧
    (s.setWindow i w).journal = s.journal ∧ (s.setWindow i w).counters = s.counters ∧
    (s.setWindow i w).lastUncorrectable = s.lastUncorrectable :=
  ⟨rfl, rfl, rfl, rfl, rfl, rfl, rfl, rfl, rfl, rfl, rfl, rfl, rfl, rfl, rfl, rfl, rfl, rfl, rfl, rfl, rfl, rfl, rfl,
   rfl, rfl, rfl, rfl, rfl, rfl, rfl, rfl, rfl, rfl, rfl, rfl, rfl, rfl, rfl, rfl, rfl, rfl, rfl, rfl, rfl, rfl, rfl,
   rfl, rfl, rfl⟩

@[simp] theorem State.reply_replies (s : State) (r : Reply) :
    (s.reply r).replies = s.replies ++ [r] := rfl

/-- Giving a reply leaves every other field. -/
@[simp] theorem State.reply_leaves (s : State) (r : Reply) :
    (s.reply r).pending = s.pending ∧ (s.reply r).time = s.time ∧ (s.reply r).ranks = s.ranks ∧
    (s.reply r).base = s.base ∧ (s.reply r).phase = s.phase ∧ (s.reply r).initCursor = s.initCursor ∧
    (s.reply r).resetCause = s.resetCause ∧ (s.reply r).cells = s.cells ∧ (s.reply r).written = s.written ∧
    (s.reply r).poisoned = s.poisoned ∧ (s.reply r).patrolOp = s.patrolOp ∧ (s.reply r).targetedOp = s.targetedOp ∧
    (s.reply r).migrationOp = s.migrationOp ∧ (s.reply r).rebuildOp = s.rebuildOp ∧ (s.reply r).counts = s.counts ∧
    (s.reply r).ports = s.ports ∧ (s.reply r).arrivals = s.arrivals ∧ (s.reply r).reads = s.reads ∧
    (s.reply r).writeBacks = s.writeBacks ∧ (s.reply r).handOff = s.handOff ∧ (s.reply r).table = s.table ∧
    (s.reply r).suspects = s.suspects ∧ (s.reply r).decayTick = s.decayTick ∧ (s.reply r).windows = s.windows ∧
    (s.reply r).patrol = s.patrol ∧ (s.reply r).nextInterval = s.nextInterval ∧ (s.reply r).reviewed = s.reviewed ∧
    (s.reply r).targeted = s.targeted ∧ (s.reply r).spares = s.spares ∧ (s.reply r).remaps = s.remaps ∧
    (s.reply r).migrationQueue = s.migrationQueue ∧ (s.reply r).migration = s.migration ∧
    (s.reply r).retained = s.retained ∧ (s.reply r).devices = s.devices ∧ (s.reply r).lastRebuilt = s.lastRebuilt ∧
    (s.reply r).rebuildChoice = s.rebuildChoice ∧ (s.reply r).slots = s.slots ∧ (s.reply r).takeCursor = s.takeCursor ∧
    (s.reply r).ownRead = s.ownRead ∧ (s.reply r).quiesced = s.quiesced ∧ (s.reply r).quiesceSlot = s.quiesceSlot ∧
    (s.reply r).policy = s.policy ∧ (s.reply r).exportJob = s.exportJob ∧ (s.reply r).exportNumber = s.exportNumber ∧
    (s.reply r).writer = s.writer ∧ (s.reply r).waiters = s.waiters ∧ (s.reply r).journal = s.journal ∧
    (s.reply r).counters = s.counters ∧ (s.reply r).lastUncorrectable = s.lastUncorrectable :=
  ⟨rfl, rfl, rfl, rfl, rfl, rfl, rfl, rfl, rfl, rfl, rfl, rfl, rfl, rfl, rfl, rfl, rfl, rfl, rfl, rfl, rfl, rfl, rfl,
   rfl, rfl, rfl, rfl, rfl, rfl, rfl, rfl, rfl, rfl, rfl, rfl, rfl, rfl, rfl, rfl, rfl, rfl, rfl, rfl, rfl, rfl, rfl,
   rfl, rfl, rfl⟩

@[simp] theorem State.enterWriter_writer (s : State) (w : WriterItem) :
    (s.enterWriter w).writer = s.writer ++ [w] := rfl

/-- A line write that enters the writer leaves every other field. -/
@[simp] theorem State.enterWriter_leaves (s : State) (w : WriterItem) :
    (s.enterWriter w).pending = s.pending ∧ (s.enterWriter w).time = s.time ∧ (s.enterWriter w).ranks = s.ranks ∧
    (s.enterWriter w).base = s.base ∧ (s.enterWriter w).phase = s.phase ∧ (s.enterWriter w).initCursor = s.initCursor ∧
    (s.enterWriter w).resetCause = s.resetCause ∧ (s.enterWriter w).cells = s.cells ∧
    (s.enterWriter w).written = s.written ∧ (s.enterWriter w).poisoned = s.poisoned ∧
    (s.enterWriter w).patrolOp = s.patrolOp ∧ (s.enterWriter w).targetedOp = s.targetedOp ∧
    (s.enterWriter w).migrationOp = s.migrationOp ∧ (s.enterWriter w).rebuildOp = s.rebuildOp ∧
    (s.enterWriter w).counts = s.counts ∧ (s.enterWriter w).ports = s.ports ∧ (s.enterWriter w).arrivals = s.arrivals ∧
    (s.enterWriter w).reads = s.reads ∧ (s.enterWriter w).writeBacks = s.writeBacks ∧
    (s.enterWriter w).replies = s.replies ∧ (s.enterWriter w).handOff = s.handOff ∧ (s.enterWriter w).table = s.table ∧
    (s.enterWriter w).suspects = s.suspects ∧ (s.enterWriter w).decayTick = s.decayTick ∧
    (s.enterWriter w).windows = s.windows ∧ (s.enterWriter w).patrol = s.patrol ∧
    (s.enterWriter w).nextInterval = s.nextInterval ∧ (s.enterWriter w).reviewed = s.reviewed ∧
    (s.enterWriter w).targeted = s.targeted ∧ (s.enterWriter w).spares = s.spares ∧
    (s.enterWriter w).remaps = s.remaps ∧ (s.enterWriter w).migrationQueue = s.migrationQueue ∧
    (s.enterWriter w).migration = s.migration ∧ (s.enterWriter w).retained = s.retained ∧
    (s.enterWriter w).devices = s.devices ∧ (s.enterWriter w).lastRebuilt = s.lastRebuilt ∧
    (s.enterWriter w).rebuildChoice = s.rebuildChoice ∧ (s.enterWriter w).slots = s.slots ∧
    (s.enterWriter w).takeCursor = s.takeCursor ∧ (s.enterWriter w).ownRead = s.ownRead ∧
    (s.enterWriter w).quiesced = s.quiesced ∧ (s.enterWriter w).quiesceSlot = s.quiesceSlot ∧
    (s.enterWriter w).policy = s.policy ∧ (s.enterWriter w).exportJob = s.exportJob ∧
    (s.enterWriter w).exportNumber = s.exportNumber ∧ (s.enterWriter w).waiters = s.waiters ∧
    (s.enterWriter w).journal = s.journal ∧ (s.enterWriter w).counters = s.counters ∧
    (s.enterWriter w).lastUncorrectable = s.lastUncorrectable :=
  ⟨rfl, rfl, rfl, rfl, rfl, rfl, rfl, rfl, rfl, rfl, rfl, rfl, rfl, rfl, rfl, rfl, rfl, rfl, rfl, rfl, rfl, rfl, rfl,
   rfl, rfl, rfl, rfl, rfl, rfl, rfl, rfl, rfl, rfl, rfl, rfl, rfl, rfl, rfl, rfl, rfl, rfl, rfl, rfl, rfl, rfl, rfl,
   rfl, rfl, rfl⟩

@[simp] theorem State.await_waiters (s : State) (w : Waiter) :
    (s.await w).waiters = s.waiters ++ [w] := rfl

/-- A block that begins to wait leaves every other field. -/
@[simp] theorem State.await_leaves (s : State) (w : Waiter) :
    (s.await w).pending = s.pending ∧ (s.await w).time = s.time ∧ (s.await w).ranks = s.ranks ∧
    (s.await w).base = s.base ∧ (s.await w).phase = s.phase ∧ (s.await w).initCursor = s.initCursor ∧
    (s.await w).resetCause = s.resetCause ∧ (s.await w).cells = s.cells ∧ (s.await w).written = s.written ∧
    (s.await w).poisoned = s.poisoned ∧ (s.await w).patrolOp = s.patrolOp ∧ (s.await w).targetedOp = s.targetedOp ∧
    (s.await w).migrationOp = s.migrationOp ∧ (s.await w).rebuildOp = s.rebuildOp ∧ (s.await w).counts = s.counts ∧
    (s.await w).ports = s.ports ∧ (s.await w).arrivals = s.arrivals ∧ (s.await w).reads = s.reads ∧
    (s.await w).writeBacks = s.writeBacks ∧ (s.await w).replies = s.replies ∧ (s.await w).handOff = s.handOff ∧
    (s.await w).table = s.table ∧ (s.await w).suspects = s.suspects ∧ (s.await w).decayTick = s.decayTick ∧
    (s.await w).windows = s.windows ∧ (s.await w).patrol = s.patrol ∧ (s.await w).nextInterval = s.nextInterval ∧
    (s.await w).reviewed = s.reviewed ∧ (s.await w).targeted = s.targeted ∧ (s.await w).spares = s.spares ∧
    (s.await w).remaps = s.remaps ∧ (s.await w).migrationQueue = s.migrationQueue ∧
    (s.await w).migration = s.migration ∧ (s.await w).retained = s.retained ∧ (s.await w).devices = s.devices ∧
    (s.await w).lastRebuilt = s.lastRebuilt ∧ (s.await w).rebuildChoice = s.rebuildChoice ∧
    (s.await w).slots = s.slots ∧ (s.await w).takeCursor = s.takeCursor ∧ (s.await w).ownRead = s.ownRead ∧
    (s.await w).quiesced = s.quiesced ∧ (s.await w).quiesceSlot = s.quiesceSlot ∧ (s.await w).policy = s.policy ∧
    (s.await w).exportJob = s.exportJob ∧ (s.await w).exportNumber = s.exportNumber ∧ (s.await w).writer = s.writer ∧
    (s.await w).journal = s.journal ∧ (s.await w).counters = s.counters ∧
    (s.await w).lastUncorrectable = s.lastUncorrectable :=
  ⟨rfl, rfl, rfl, rfl, rfl, rfl, rfl, rfl, rfl, rfl, rfl, rfl, rfl, rfl, rfl, rfl, rfl, rfl, rfl, rfl, rfl, rfl, rfl,
   rfl, rfl, rfl, rfl, rfl, rfl, rfl, rfl, rfl, rfl, rfl, rfl, rfl, rfl, rfl, rfl, rfl, rfl, rfl, rfl, rfl, rfl, rfl,
   rfl, rfl, rfl⟩

@[simp] theorem State.stopAwaiting_waiters (s : State) (w : Waiter) :
    (s.stopAwaiting w).waiters = s.waiters.erase w := rfl

/-- A block that waits no longer leaves every other field. -/
@[simp] theorem State.stopAwaiting_leaves (s : State) (w : Waiter) :
    (s.stopAwaiting w).pending = s.pending ∧ (s.stopAwaiting w).time = s.time ∧ (s.stopAwaiting w).ranks = s.ranks ∧
    (s.stopAwaiting w).base = s.base ∧ (s.stopAwaiting w).phase = s.phase ∧
    (s.stopAwaiting w).initCursor = s.initCursor ∧ (s.stopAwaiting w).resetCause = s.resetCause ∧
    (s.stopAwaiting w).cells = s.cells ∧ (s.stopAwaiting w).written = s.written ∧
    (s.stopAwaiting w).poisoned = s.poisoned ∧ (s.stopAwaiting w).patrolOp = s.patrolOp ∧
    (s.stopAwaiting w).targetedOp = s.targetedOp ∧ (s.stopAwaiting w).migrationOp = s.migrationOp ∧
    (s.stopAwaiting w).rebuildOp = s.rebuildOp ∧ (s.stopAwaiting w).counts = s.counts ∧
    (s.stopAwaiting w).ports = s.ports ∧ (s.stopAwaiting w).arrivals = s.arrivals ∧
    (s.stopAwaiting w).reads = s.reads ∧ (s.stopAwaiting w).writeBacks = s.writeBacks ∧
    (s.stopAwaiting w).replies = s.replies ∧ (s.stopAwaiting w).handOff = s.handOff ∧
    (s.stopAwaiting w).table = s.table ∧ (s.stopAwaiting w).suspects = s.suspects ∧
    (s.stopAwaiting w).decayTick = s.decayTick ∧ (s.stopAwaiting w).windows = s.windows ∧
    (s.stopAwaiting w).patrol = s.patrol ∧ (s.stopAwaiting w).nextInterval = s.nextInterval ∧
    (s.stopAwaiting w).reviewed = s.reviewed ∧ (s.stopAwaiting w).targeted = s.targeted ∧
    (s.stopAwaiting w).spares = s.spares ∧ (s.stopAwaiting w).remaps = s.remaps ∧
    (s.stopAwaiting w).migrationQueue = s.migrationQueue ∧ (s.stopAwaiting w).migration = s.migration ∧
    (s.stopAwaiting w).retained = s.retained ∧ (s.stopAwaiting w).devices = s.devices ∧
    (s.stopAwaiting w).lastRebuilt = s.lastRebuilt ∧ (s.stopAwaiting w).rebuildChoice = s.rebuildChoice ∧
    (s.stopAwaiting w).slots = s.slots ∧ (s.stopAwaiting w).takeCursor = s.takeCursor ∧
    (s.stopAwaiting w).ownRead = s.ownRead ∧ (s.stopAwaiting w).quiesced = s.quiesced ∧
    (s.stopAwaiting w).quiesceSlot = s.quiesceSlot ∧ (s.stopAwaiting w).policy = s.policy ∧
    (s.stopAwaiting w).exportJob = s.exportJob ∧ (s.stopAwaiting w).exportNumber = s.exportNumber ∧
    (s.stopAwaiting w).writer = s.writer ∧ (s.stopAwaiting w).journal = s.journal ∧
    (s.stopAwaiting w).counters = s.counters ∧ (s.stopAwaiting w).lastUncorrectable = s.lastUncorrectable :=
  ⟨rfl, rfl, rfl, rfl, rfl, rfl, rfl, rfl, rfl, rfl, rfl, rfl, rfl, rfl, rfl, rfl, rfl, rfl, rfl, rfl, rfl, rfl, rfl,
   rfl, rfl, rfl, rfl, rfl, rfl, rfl, rfl, rfl, rfl, rfl, rfl, rfl, rfl, rfl, rfl, rfl, rfl, rfl, rfl, rfl, rfl, rfl,
   rfl, rfl, rfl⟩

@[simp] theorem State.setSuspects_suspects (s : State) (rank : Nat) (f : DeviceSet) :
    (s.setSuspects rank f).suspects = put s.suspects rank f := rfl

/-- Putting a rank's suspect flags in place leaves every other field. -/
@[simp] theorem State.setSuspects_leaves (s : State) (rank : Nat) (f : DeviceSet) :
    (s.setSuspects rank f).pending = s.pending ∧ (s.setSuspects rank f).time = s.time ∧
    (s.setSuspects rank f).ranks = s.ranks ∧ (s.setSuspects rank f).base = s.base ∧
    (s.setSuspects rank f).phase = s.phase ∧ (s.setSuspects rank f).initCursor = s.initCursor ∧
    (s.setSuspects rank f).resetCause = s.resetCause ∧ (s.setSuspects rank f).cells = s.cells ∧
    (s.setSuspects rank f).written = s.written ∧ (s.setSuspects rank f).poisoned = s.poisoned ∧
    (s.setSuspects rank f).patrolOp = s.patrolOp ∧ (s.setSuspects rank f).targetedOp = s.targetedOp ∧
    (s.setSuspects rank f).migrationOp = s.migrationOp ∧ (s.setSuspects rank f).rebuildOp = s.rebuildOp ∧
    (s.setSuspects rank f).counts = s.counts ∧ (s.setSuspects rank f).ports = s.ports ∧
    (s.setSuspects rank f).arrivals = s.arrivals ∧ (s.setSuspects rank f).reads = s.reads ∧
    (s.setSuspects rank f).writeBacks = s.writeBacks ∧ (s.setSuspects rank f).replies = s.replies ∧
    (s.setSuspects rank f).handOff = s.handOff ∧ (s.setSuspects rank f).table = s.table ∧
    (s.setSuspects rank f).decayTick = s.decayTick ∧ (s.setSuspects rank f).windows = s.windows ∧
    (s.setSuspects rank f).patrol = s.patrol ∧ (s.setSuspects rank f).nextInterval = s.nextInterval ∧
    (s.setSuspects rank f).reviewed = s.reviewed ∧ (s.setSuspects rank f).targeted = s.targeted ∧
    (s.setSuspects rank f).spares = s.spares ∧ (s.setSuspects rank f).remaps = s.remaps ∧
    (s.setSuspects rank f).migrationQueue = s.migrationQueue ∧ (s.setSuspects rank f).migration = s.migration ∧
    (s.setSuspects rank f).retained = s.retained ∧ (s.setSuspects rank f).devices = s.devices ∧
    (s.setSuspects rank f).lastRebuilt = s.lastRebuilt ∧ (s.setSuspects rank f).rebuildChoice = s.rebuildChoice ∧
    (s.setSuspects rank f).slots = s.slots ∧ (s.setSuspects rank f).takeCursor = s.takeCursor ∧
    (s.setSuspects rank f).ownRead = s.ownRead ∧ (s.setSuspects rank f).quiesced = s.quiesced ∧
    (s.setSuspects rank f).quiesceSlot = s.quiesceSlot ∧ (s.setSuspects rank f).policy = s.policy ∧
    (s.setSuspects rank f).exportJob = s.exportJob ∧ (s.setSuspects rank f).exportNumber = s.exportNumber ∧
    (s.setSuspects rank f).writer = s.writer ∧ (s.setSuspects rank f).waiters = s.waiters ∧
    (s.setSuspects rank f).journal = s.journal ∧ (s.setSuspects rank f).counters = s.counters ∧
    (s.setSuspects rank f).lastUncorrectable = s.lastUncorrectable :=
  ⟨rfl, rfl, rfl, rfl, rfl, rfl, rfl, rfl, rfl, rfl, rfl, rfl, rfl, rfl, rfl, rfl, rfl, rfl, rfl, rfl, rfl, rfl, rfl,
   rfl, rfl, rfl, rfl, rfl, rfl, rfl, rfl, rfl, rfl, rfl, rfl, rfl, rfl, rfl, rfl, rfl, rfl, rfl, rfl, rfl, rfl, rfl,
   rfl, rfl, rfl⟩

@[simp] theorem State.storeSlice_cells (s : State) (rank index device : Nat) (v : Slice) :
    (s.storeSlice rank index device v).cells = Memory.writeBytes s.cells (sliceAddress rank index device) 4 v.toNat := rfl

/-- Putting a slice on a device leaves every other field. -/
@[simp] theorem State.storeSlice_leaves (s : State) (rank index device : Nat) (v : Slice) :
    (s.storeSlice rank index device v).pending = s.pending ∧ (s.storeSlice rank index device v).time = s.time ∧
    (s.storeSlice rank index device v).ranks = s.ranks ∧ (s.storeSlice rank index device v).base = s.base ∧
    (s.storeSlice rank index device v).phase = s.phase ∧ (s.storeSlice rank index device v).initCursor = s.initCursor ∧
    (s.storeSlice rank index device v).resetCause = s.resetCause ∧
    (s.storeSlice rank index device v).written = s.written ∧ (s.storeSlice rank index device v).poisoned = s.poisoned ∧
    (s.storeSlice rank index device v).patrolOp = s.patrolOp ∧
    (s.storeSlice rank index device v).targetedOp = s.targetedOp ∧
    (s.storeSlice rank index device v).migrationOp = s.migrationOp ∧
    (s.storeSlice rank index device v).rebuildOp = s.rebuildOp ∧ (s.storeSlice rank index device v).counts = s.counts ∧
    (s.storeSlice rank index device v).ports = s.ports ∧ (s.storeSlice rank index device v).arrivals = s.arrivals ∧
    (s.storeSlice rank index device v).reads = s.reads ∧ (s.storeSlice rank index device v).writeBacks = s.writeBacks ∧
    (s.storeSlice rank index device v).replies = s.replies ∧ (s.storeSlice rank index device v).handOff = s.handOff ∧
    (s.storeSlice rank index device v).table = s.table ∧ (s.storeSlice rank index device v).suspects = s.suspects ∧
    (s.storeSlice rank index device v).decayTick = s.decayTick ∧
    (s.storeSlice rank index device v).windows = s.windows ∧ (s.storeSlice rank index device v).patrol = s.patrol ∧
    (s.storeSlice rank index device v).nextInterval = s.nextInterval ∧
    (s.storeSlice rank index device v).reviewed = s.reviewed ∧
    (s.storeSlice rank index device v).targeted = s.targeted ∧ (s.storeSlice rank index device v).spares = s.spares ∧
    (s.storeSlice rank index device v).remaps = s.remaps ∧
    (s.storeSlice rank index device v).migrationQueue = s.migrationQueue ∧
    (s.storeSlice rank index device v).migration = s.migration ∧
    (s.storeSlice rank index device v).retained = s.retained ∧ (s.storeSlice rank index device v).devices = s.devices ∧
    (s.storeSlice rank index device v).lastRebuilt = s.lastRebuilt ∧
    (s.storeSlice rank index device v).rebuildChoice = s.rebuildChoice ∧
    (s.storeSlice rank index device v).slots = s.slots ∧ (s.storeSlice rank index device v).takeCursor = s.takeCursor ∧
    (s.storeSlice rank index device v).ownRead = s.ownRead ∧ (s.storeSlice rank index device v).quiesced = s.quiesced ∧
    (s.storeSlice rank index device v).quiesceSlot = s.quiesceSlot ∧
    (s.storeSlice rank index device v).policy = s.policy ∧ (s.storeSlice rank index device v).exportJob = s.exportJob ∧
    (s.storeSlice rank index device v).exportNumber = s.exportNumber ∧
    (s.storeSlice rank index device v).writer = s.writer ∧ (s.storeSlice rank index device v).waiters = s.waiters ∧
    (s.storeSlice rank index device v).journal = s.journal ∧ (s.storeSlice rank index device v).counters = s.counters ∧
    (s.storeSlice rank index device v).lastUncorrectable = s.lastUncorrectable :=
  ⟨rfl, rfl, rfl, rfl, rfl, rfl, rfl, rfl, rfl, rfl, rfl, rfl, rfl, rfl, rfl, rfl, rfl, rfl, rfl, rfl, rfl, rfl, rfl,
   rfl, rfl, rfl, rfl, rfl, rfl, rfl, rfl, rfl, rfl, rfl, rfl, rfl, rfl, rfl, rfl, rfl, rfl, rfl, rfl, rfl, rfl, rfl,
   rfl, rfl, rfl⟩

end Sys2Proof.Machine
end

