-- ==== Sys2Proof/Laws/Frame.lean ====
section
/-! SUPPORT. Frames: for each shared operation, the fields it can change, said once. A caller obtains the equation and
reads any other field off it. -/

namespace Sys2Proof.Machine

/-! ## The array -/

theorem State.placeSlices_frame (s : State) (rank index : Nat) (c : Content) (ts : List (Nat × Nat)) :
    ∃ m, s.placeSlices rank index c ts = { s with cells := m } := by
  unfold State.placeSlices
  induction ts generalizing s with
  | nil => exact ⟨s.cells, rfl⟩
  | cons t ts ih =>
    obtain ⟨m, h⟩ := ih (s.storeSlice rank index t.2 (encodeSlice c t.1))
    exact ⟨m, by rw [List.foldl_cons, h]; rfl⟩

theorem State.writeLine_frame (s : State) (rank row column : Nat) (c : Content) :
    ∃ m w p, s.writeLine rank row column c = { s with cells := m, written := w, poisoned := p } := by
  unfold State.writeLine
  generalize (s.rankDevices rank).writeTo (physIndex row column) = ts
  generalize physIndex row column = i
  obtain ⟨m, h⟩ := State.placeSlices_frame (s.recordContent rank i c) rank i c ts
  rw [h]
  unfold State.recordContent
  exact ⟨m, _, _, rfl⟩

theorem State.applyErrors_frame (s : State) (rank row column : Nat) (errors : List SliceError) :
    ∃ m, s.applyErrors rank row column errors = { s with cells := m } := by
  unfold State.applyErrors
  generalize (errors.filter fun e => decide (e.device < Config.devicesPerRank)) = es
  induction es generalizing s with
  | nil => exact ⟨s.cells, rfl⟩
  | cons e es ih =>
    obtain ⟨m, h⟩ := ih (s.storeSlice rank (physIndex row column) e.device
      (s.storedSlice rank (physIndex row column) e.device ^^^ e.pattern))
    exact ⟨m, by rw [List.foldl_cons, h]; rfl⟩

theorem State.applyErrorsHost_frame (s : State) (host : Nat) (errors : List SliceError) :
    ∃ m, s.applyErrorsHost host errors = { s with cells := m } :=
  State.applyErrors_frame s _ _ _ errors

theorem State.hostLineWrites_frame (s : State) (host : Nat) (c : Content) :
    ∃ m w p a b r, s.hostLineWrites host c =
      { s with cells := m, written := w, poisoned := p, patrolOp := a, targetedOp := b, rebuildOp := r } := by
  unfold State.hostLineWrites
  obtain ⟨m, w, p, h⟩ := State.writeLine_frame s (rankOf host) (s.servingRow (rankOf host) (rowOf host) (columnOf host))
    (columnOf host) c
  simp only [h]
  split
  · split
    · exact ⟨_, _, _, _, _, _, rfl⟩
    · next e _ =>
      obtain ⟨m', w', p', h'⟩ := State.writeLine_frame { s with cells := m, written := w, poisoned := p } (rankOf host)
        (spareRow e.spare) (columnOf host) c
      rw [h']
      exact ⟨_, _, _, _, _, _, rfl⟩
  · exact ⟨_, _, _, _, _, _, rfl⟩

/-- A write granted to a host line changes the array, the open records, the write-back queue and the stale marks. -/
theorem State.hostWrite_frame (s : State) (host : Nat) (c : Content) :
    ∃ m w p a b g r q rd o, s.hostWrite host c =
      { s with cells := m, written := w, poisoned := p, patrolOp := a, targetedOp := b, migrationOp := g,
               rebuildOp := r, writeBacks := q, reads := rd, ownRead := o } := by
  unfold State.hostWrite
  obtain ⟨m, w, p, a, b, r, h⟩ := State.hostLineWrites_frame s host c
  rw [h]
  exact ⟨_, _, _, _, _, _, _, _, _, _, rfl⟩

/-! ## Causes and the writer -/

theorem State.askStatus_frame (s : State) : ∃ w, s.askStatus = { s with waiters := w } := by
  unfold State.askStatus
  split
  · exact ⟨s.waiters, rfl⟩
  · exact ⟨_, rfl⟩

theorem State.setCauses_frame (s : State) (c : CauseSet) :
    ∃ j w, s.setCauses c = { s with journal := j, waiters := w } := by
  unfold State.setCauses
  split
  · exact ⟨s.journal, s.waiters, rfl⟩
  · obtain ⟨w, h⟩ := State.askStatus_frame { s with journal := { s.journal with causes := c } }
    exact ⟨_, w, h⟩

theorem State.raiseCause_frame (s : State) (c : Cause) :
    ∃ j w, s.raiseCause c = { s with journal := j, waiters := w } :=
  State.setCauses_frame s _

theorem State.acknowledge_frame (s : State) (c : CauseSet) :
    ∃ j w, s.acknowledge c = { s with journal := j, waiters := w } :=
  State.setCauses_frame s _

theorem State.requestItem_frame (s : State) (i : WriterItem) :
    ∃ q w, s.requestItem i = { s with writer := q, waiters := w } := by
  unfold State.requestItem
  split
  · exact ⟨_, s.waiters, rfl⟩
  · exact ⟨s.writer, _, rfl⟩

theorem State.requestRecord_frame (s : State) (record : Nat) :
    ∃ q w, s.requestRecord record = { s with writer := q, waiters := w } := by
  unfold State.requestRecord
  split
  · exact ⟨s.writer, s.waiters, rfl⟩
  · exact State.requestItem_frame s _

theorem State.enterDone_frame (s : State) (slot : Nat) (l : Line) :
    ∃ q w j m, s.enterDone slot l = { s with writer := q, waiters := w, journal := j, slots := m } := by
  unfold State.enterDone
  obtain ⟨j, w, h⟩ := State.raiseCause_frame
    ((s.enterWriter (.line (slotOffset slot) l)).setSlot slot { s.slot slot with state := .done }) .order
  rw [h]
  exact ⟨_, w, j, _, rfl⟩

/-- A slot's DONE write changes the writer and its waiters, the slot mirrors and the pending causes. -/
theorem State.requestDone_frame (s : State) (slot : Nat) (l : Line) :
    ∃ q w j m, s.requestDone slot l = { s with writer := q, waiters := w, journal := j, slots := m } := by
  unfold State.requestDone
  split
  · exact State.enterDone_frame s slot l
  · exact ⟨s.writer, _, s.journal, s.slots, rfl⟩

theorem State.finishSlot_frame (s : State) (slot : Nat) (l : Line) (o : OrderOutcome) (r : OrderReason)
    (fs : List FieldValue) :
    ∃ q w j m, s.finishSlot slot l o r fs = { s with writer := q, waiters := w, journal := j, slots := m } :=
  State.requestDone_frame s _ _

theorem State.finishTaken_frame (s : State) (slot : Nat) (o : OrderOutcome) (r : OrderReason) (fs : List FieldValue) :
    ∃ q w j m, s.finishTaken slot o r fs = { s with writer := q, waiters := w, journal := j, slots := m } :=
  State.requestDone_frame s _ _

/-! ## The journal -/

theorem State.raiseJournal_frame (s : State) : ∃ j w, s.raiseJournal = { s with journal := j, waiters := w } := by
  unfold State.raiseJournal
  obtain ⟨j, w, h⟩ := State.raiseCause_frame { s with journal := { s.journal with coalesce := 0, holdoff := none } }
    .journal
  exact ⟨j, w, h⟩

theorem State.checkCoalesce_frame (s : State) : ∃ j w, s.checkCoalesce = { s with journal := j, waiters := w } := by
  unfold State.checkCoalesce
  split
  · exact State.raiseJournal_frame s
  · exact ⟨s.journal, s.waiters, rfl⟩

theorem State.checkRoomRaise_frame (s : State) (free : Nat) :
    ∃ j w, s.checkRoomRaise free = { s with journal := j, waiters := w } := by
  unfold State.checkRoomRaise
  split
  · obtain ⟨j, w, h⟩ := State.raiseCause_frame { s with journal := { s.journal with roomArmed := false } } .room
    exact ⟨j, w, h⟩
  · exact ⟨s.journal, s.waiters, rfl⟩

theorem State.publish_frame (s : State) (r : JournalRecord) :
    ∃ q w j, s.publish r = { s with writer := q, waiters := w, journal := j } := by
  unfold State.publish
  simp only
  generalize hx : State.countPublication _ = x
  obtain ⟨j, w, h⟩ := State.checkCoalesce_frame x
  rw [h]
  obtain ⟨j', w', h'⟩ := State.checkRoomRaise_frame { x with journal := j, waiters := w } s.journalFree
  rw [h', ← hx]
  exact ⟨_, w', j', rfl⟩

theorem State.syncJournal_frame (s : State) : ∃ w, s.syncJournal = { s with waiters := w } := by
  unfold State.syncJournal
  split
  · exact ⟨_, rfl⟩
  · split
    · split
      · exact ⟨s.waiters, rfl⟩
      · exact ⟨_, rfl⟩
    · exact ⟨_, rfl⟩

theorem State.stage_frame (s : State) (r : JournalRecord) :
    ∃ w j c, s.stage r = { s with waiters := w, journal := j, counters := c } := by
  unfold State.stage
  split
  · obtain ⟨w, h⟩ := State.syncJournal_frame
      { s with journal := { s.journal with staging := s.journal.staging ++ [r] } }
    exact ⟨w, _, s.counters, h⟩
  · exact ⟨s.waiters, s.journal, _, rfl⟩

/-- A record handed to the Journal changes the writer and its waiters, the journal and the counters. -/
theorem State.handRecord_frame (s : State) (r : JournalRecord) :
    ∃ q w j c, s.handRecord r = { s with writer := q, waiters := w, journal := j, counters := c } := by
  unfold State.handRecord
  obtain ⟨w, j, c, h⟩ := State.stage_frame s r
  obtain ⟨q', w', j', h'⟩ := State.publish_frame s r
  split
  · exact ⟨s.writer, w, j, c, h⟩
  · split
    · exact ⟨q', w', j', s.counters, h'⟩
    · split
      · exact ⟨s.writer, s.waiters, s.journal, _, rfl⟩
      · exact ⟨s.writer, w, j, c, h⟩

theorem State.handPlain_frame (s : State) (k : RecordKind) (host : Option Nat) (rank row : Nat) (ds : List Nat) :
    ∃ q w j c, s.handPlain k host rank row ds = { s with writer := q, waiters := w, journal := j, counters := c } :=
  State.handRecord_frame s _

theorem State.stagingDeparts_frame (s : State) :
    ∃ q w j c, s.stagingDeparts = { s with writer := q, waiters := w, journal := j, counters := c } := by
  unfold State.stagingDeparts
  split
  · exact ⟨s.writer, s.waiters, s.journal, s.counters, rfl⟩
  · next r rest _ =>
    split
    · obtain ⟨w, h⟩ := State.syncJournal_frame
        (State.countHeld { s with journal := { s.journal with staging := rest } })
      rw [h]
      exact ⟨s.writer, w, _, _, rfl⟩
    · split
      · obtain ⟨q, w, j, h⟩ := State.publish_frame
          (State.stopAwaiting { s with journal := { s.journal with staging := rest } } .journal) r
        rw [h]
        obtain ⟨w', h'⟩ := State.syncJournal_frame
          { State.stopAwaiting { s with journal := { s.journal with staging := rest } } .journal with
            writer := q, waiters := w, journal := j }
        rw [h']
        exact ⟨q, w', j, s.counters, rfl⟩
      · exact ⟨s.writer, s.waiters, s.journal, s.counters, rfl⟩

theorem State.moveMark_frame (s : State) (x : Count32) :
    ∃ j w, s.moveMark x = { s with journal := j, waiters := w } := by
  unfold State.moveMark
  simp only
  split
  · obtain ⟨w, h⟩ := State.syncJournal_frame
      { s with journal := { s.journal with mark := settledMark s.journal.published s.journal.mark x, roomArmed := true } }
    exact ⟨_, w, h⟩
  · obtain ⟨w, h⟩ := State.syncJournal_frame
      { s with journal := { s.journal with mark := settledMark s.journal.published s.journal.mark x } }
    exact ⟨_, w, h⟩

/-! ## Retirement, marking, events -/

theorem State.startRemap_frame (s : State) (q : Retirement) (i : Nat) :
    ∃ r, s.startRemap q i = { s with remaps := r } := by
  unfold State.startRemap
  split
  · exact ⟨_, rfl⟩
  · exact ⟨_, rfl⟩

/-- The start of a migration changes the queue, the migration in progress, the spare rows and the remap entries. -/
theorem State.startMigration_frame (s : State) :
    ∃ q m sp r, s.startMigration = { s with migrationQueue := q, migration := m, spares := sp, remaps := r } := by
  unfold State.startMigration
  split
  · split
    · exact ⟨s.migrationQueue, s.migration, s.spares, s.remaps, rfl⟩
    · next q rest _ _ _ i _ =>
      obtain ⟨r, h⟩ := State.startRemap_frame
        (State.setSpareState
          { s with migrationQueue := rest,
                   migration := some { rank := q.rank, row := q.row, origin := q.origin, slot := q.slot,
                                       corrected := 0, deepCorrected := 0, uncorrectable := 0, poisoned := 0,
                                       copiesDropped := 0 } }
          q.rank i .inUse) q i
      rw [h]
      exact ⟨_, _, _, r, rfl⟩
  · exact ⟨s.migrationQueue, s.migration, s.spares, s.remaps, rfl⟩

theorem State.admitRetirement_frame (s : State) (q : Retirement) :
    ∃ a m sp r, s.admitRetirement q = { s with migrationQueue := a, migration := m, spares := sp, remaps := r } := by
  obtain ⟨a, m, sp, r, h⟩ := State.startMigration_frame { s with migrationQueue := s.migrationQueue ++ [q] }
  exact ⟨a, m, sp, r, h⟩

theorem State.makeSuspect_frame (s : State) (rank device : Nat) :
    ∃ f q w j c, s.makeSuspect rank device =
      { s with suspects := f, writer := q, waiters := w, journal := j, counters := c } := by
  unfold State.makeSuspect
  split
  · exact ⟨s.suspects, s.writer, s.waiters, s.journal, s.counters, rfl⟩
  · obtain ⟨q, w, j, c, h⟩ := State.handPlain_frame
      (s.setSuspects rank (addToSet (nth s.suspects rank 0) device)) (.deviceSuspect (s.tally rank device)) none rank 0
      [device]
    rw [h]
    exact ⟨_, q, w, j, c, rfl⟩

/-- A marking changes the device map, the fault table, the suspect flags and what a journal record changes. -/
theorem State.markDevice_frame (s : State) (rank device : Nat) (mode : MarkMode) (origin : Origin) :
    ∃ d t f q w j c, s.markDevice rank device mode origin =
      { s with devices := d, table := t, suspects := f, writer := q, waiters := w, journal := j, counters := c } := by
  unfold State.markDevice
  generalize RecordKind.deviceMarked _ _ _ _ _ _ = k
  obtain ⟨q, w, j, c, h⟩ := State.handPlain_frame
    (State.stripDevice (s.setRankDevices rank ((s.rankDevices rank).marking device mode s.time)) rank device) k none
    rank 0 [device]
  rw [h]
  exact ⟨_, _, _, q, w, j, c, rfl⟩

theorem State.examineDevice_frame (s : State) (rank device : Nat) (after : Bool) :
    ∃ d t f q w j c, s.examineDevice rank device after =
      { s with devices := d, table := t, suspects := f, writer := q, waiters := w, journal := j, counters := c } := by
  have same : ∃ d t f q w j c, s =
      { s with devices := d, table := t, suspects := f, writer := q, waiters := w, journal := j, counters := c } :=
    ⟨s.devices, s.table, s.suspects, s.writer, s.waiters, s.journal, s.counters, rfl⟩
  have suspect : ∃ d t f q w j c, s.makeSuspect rank device =
      { s with devices := d, table := t, suspects := f, writer := q, waiters := w, journal := j, counters := c } := by
    obtain ⟨f, q, w, j, c, h⟩ := State.makeSuspect_frame s rank device
    exact ⟨s.devices, s.table, f, q, w, j, c, h⟩
  unfold State.examineDevice
  split
  · exact same
  · split
    · exact same
    · split
      · exact same
      · exact same
      · exact suspect
      · split
        · exact State.markDevice_frame s rank device _ _
        · exact suspect

theorem State.examineDevices_frame (s : State) (rank : Nat) (which : Nat → Bool) (after : Bool) :
    ∃ d t f q w j c, s.examineDevices rank which after =
      { s with devices := d, table := t, suspects := f, writer := q, waiters := w, journal := j, counters := c } := by
  unfold State.examineDevices
  generalize (s.devicesByTally rank).filter which = ds
  induction ds generalizing s with
  | nil => exact ⟨s.devices, s.table, s.suspects, s.writer, s.waiters, s.journal, s.counters, rfl⟩
  | cons x ds ih =>
    obtain ⟨d, t, f, q, w, j, c, h⟩ := State.examineDevice_frame s rank x after
    obtain ⟨d', t', f', q', w', j', c', h'⟩ := ih (s.examineDevice rank x after)
    refine ⟨d', t', f', q', w', j', c', ?_⟩
    rw [List.foldl_cons, h', h]

theorem State.retireInternally_frame (s : State) (rank row : Nat) :
    ∃ t a m sp r, s.retireInternally rank row =
      { s with table := t, migrationQueue := a, migration := m, spares := sp, remaps := r } := by
  unfold State.retireInternally
  obtain ⟨a, m, sp, r, h⟩ := State.admitRetirement_frame (s.setRetire rank row .pending)
    { rank := rank, row := row, origin := .auto, slot := none }
  rw [h]
  exact ⟨_, a, m, sp, r, rfl⟩

theorem State.examineRetire_frame (s : State) (rank row : Nat) :
    ∃ t a m sp r q w j c, s.examineRetire rank row =
      { s with table := t, migrationQueue := a, migration := m, spares := sp, remaps := r, writer := q, waiters := w,
               journal := j, counters := c } := by
  have same : ∃ t a m sp r q w j c, s =
      { s with table := t, migrationQueue := a, migration := m, spares := sp, remaps := r, writer := q, waiters := w,
               journal := j, counters := c } :=
    ⟨s.table, s.migrationQueue, s.migration, s.spares, s.remaps, s.writer, s.waiters, s.journal, s.counters, rfl⟩
  have retire : ∃ t a m sp r q w j c, s.retireInternally rank row =
      { s with table := t, migrationQueue := a, migration := m, spares := sp, remaps := r, writer := q, waiters := w,
               journal := j, counters := c } := by
    obtain ⟨t, a, m, sp, r, h⟩ := State.retireInternally_frame s rank row
    exact ⟨t, a, m, sp, r, s.writer, s.waiters, s.journal, s.counters, h⟩
  unfold State.examineRetire
  split
  · exact same
  · next e _ =>
    split
    · exact same
    · split
      · exact retire
      · exact same
    · split
      · exact same
      · split
        · exact retire
        · next x _ =>
          obtain ⟨q, w, j, c, h⟩ := State.handPlain_frame (s.setRetire rank row .advised) (.retireAdvised e.score x)
            none rank row []
          rw [h]
          exact ⟨_, s.migrationQueue, s.migration, s.spares, s.remaps, q, w, j, c, rfl⟩

theorem State.afterEvent_frame (s : State) (rank row : Nat) (risen : List Nat) :
    ∃ d t f a m sp r q w j c, s.afterEvent rank row risen =
      { s with devices := d, table := t, suspects := f, migrationQueue := a, migration := m, spares := sp,
               remaps := r, writer := q, waiters := w, journal := j, counters := c } := by
  unfold State.afterEvent
  obtain ⟨t, a, m, sp, r, q, w, j, c, h⟩ := State.examineRetire_frame s rank row
  rw [h]
  obtain ⟨d', t', f', q', w', j', c', h'⟩ := State.examineDevices_frame
    { s with table := t, migrationQueue := a, migration := m, spares := sp, remaps := r, writer := q, waiters := w,
             journal := j, counters := c }
    rank (fun d => risen.contains d) false
  rw [h']
  exact ⟨d', t', f', a, m, sp, r, q', w', j', c', rfl⟩

/-- A scored event changes the fault table, the suspect flags, the device map, what a retirement's admission changes,
and what a journal record changes. -/
theorem State.scoredEvent_frame (s : State) (rank row weight : Nat) (named : List Nat) (t : PartTime) :
    ∃ d b f a m sp r q w j c, s.scoredEvent rank row weight named t =
      { s with devices := d, table := b, suspects := f, migrationQueue := a, migration := m, spares := sp,
               remaps := r, writer := q, waiters := w, journal := j, counters := c } := by
  unfold State.scoredEvent
  simp only
  split
  · next e _ =>
    obtain ⟨d, b, f, a, m, sp, r, q, w, j, c, h⟩ := State.afterEvent_frame
      (s.changeEntry rank row fun x => x.taken weight (s.joiningDevices rank named) t) rank row
      ((s.joiningDevices rank named).filter fun d => !inSet e.devices d)
    rw [h]
    exact ⟨d, b, f, a, m, sp, r, q, w, j, c, rfl⟩
  · have create : ∀ x : State, ∃ d b f a m sp r q w j c,
        x.createEntry rank row weight (s.joiningDevices rank named) t =
          { x with devices := d, table := b, suspects := f, migrationQueue := a, migration := m, spares := sp,
                   remaps := r, writer := q, waiters := w, journal := j, counters := c } := by
      intro x
      unfold State.createEntry
      obtain ⟨d, b, f, a, m, sp, r, q, w, j, c, h⟩ := State.afterEvent_frame
        { x with table := insertEntry (x.newEntry rank row weight (s.joiningDevices rank named) t) x.table } rank row
        (s.joiningDevices rank named)
      rw [h]
      exact ⟨d, b, f, a, m, sp, r, q, w, j, c, rfl⟩
    have same : ∃ d b f a m sp r q w j c, s.countUntracked =
        { s with devices := d, table := b, suspects := f, migrationQueue := a, migration := m, spares := sp,
                 remaps := r, writer := q, waiters := w, journal := j, counters := c } :=
      ⟨s.devices, s.table, s.suspects, s.migrationQueue, s.migration, s.spares, s.remaps, s.writer, s.waiters,
        s.journal, _, rfl⟩
    split
    · exact create s
    · split
      · exact same
      · next v _ =>
        split
        · obtain ⟨d, b, f, a, m, sp, r, q, w, j, c, h⟩ := create (s.removeEntry v.rank v.row)
          rw [h]
          exact ⟨d, b, f, a, m, sp, r, q, w, j, c, rfl⟩
        · exact same

/-- The reports of a decode change what a scored event and a journal record change, the counters and the last
uncorrectable line. -/
theorem State.report_frame (s : State) (x : Decode) (src : Source) (t : PartTime) :
    ∃ d b f a m sp r q w j c l, s.report x src t =
      { s with devices := d, table := b, suspects := f, migrationQueue := a, migration := m, spares := sp,
               remaps := r, writer := q, waiters := w, journal := j, counters := c, lastUncorrectable := l } := by
  have score : ∃ d b f a m sp r q w j c, s.scoreDecode x t =
      { s with devices := d, table := b, suspects := f, migrationQueue := a, migration := m, spares := sp,
               remaps := r, writer := q, waiters := w, journal := j, counters := c } := by
    unfold State.scoreDecode
    split
    · exact ⟨s.devices, s.table, s.suspects, s.migrationQueue, s.migration, s.spares, s.remaps, s.writer, s.waiters,
        s.journal, s.counters, rfl⟩
    · exact State.scoredEvent_frame s _ _ _ _ _
  have scored : ∀ k, ∃ d b f a m sp r q w j c, (s.scoreDecode x t).handRecord (x.record k src t) =
      { s with devices := d, table := b, suspects := f, migrationQueue := a, migration := m, spares := sp,
               remaps := r, writer := q, waiters := w, journal := j, counters := c } := by
    intro k
    obtain ⟨d, b, f, a, m, sp, r, q, w, j, c, h⟩ := score
    obtain ⟨q', w', j', c', h'⟩ := State.handRecord_frame (s.scoreDecode x t) (x.record k src t)
    refine ⟨d, b, f, a, m, sp, r, q', w', j', c', ?_⟩
    rw [h', h]
  have same : ∃ d b f a m sp r q w j c l, s =
      { s with devices := d, table := b, suspects := f, migrationQueue := a, migration := m, spares := sp,
               remaps := r, writer := q, waiters := w, journal := j, counters := c, lastUncorrectable := l } :=
    ⟨s.devices, s.table, s.suspects, s.migrationQueue, s.migration, s.spares, s.remaps, s.writer, s.waiters,
      s.journal, s.counters, s.lastUncorrectable, rfl⟩
  unfold State.report
  split
  · exact same
  · exact same
  · exact ⟨s.devices, s.table, s.suspects, s.migrationQueue, s.migration, s.spares, s.remaps, s.writer, s.waiters,
      s.journal, _, s.lastUncorrectable, rfl⟩
  · obtain ⟨d, b, f, a, m, sp, r, q, w, j, c, h⟩ := scored .corrected
    rw [h]
    exact ⟨d, b, f, a, m, sp, r, q, w, j, _, s.lastUncorrectable, rfl⟩
  · obtain ⟨d, b, f, a, m, sp, r, q, w, j, c, h⟩ := scored .deepCorrected
    rw [h]
    exact ⟨d, b, f, a, m, sp, r, q, w, j, _, s.lastUncorrectable, rfl⟩
  · obtain ⟨d, b, f, a, m, sp, r, q, w, j, c, h⟩ := scored .uncorrectable
    rw [h]
    unfold State.noteUncorrectable
    split
    · generalize hy : State.countUncorrectable _ = y
      obtain ⟨j', w', h'⟩ := State.raiseCause_frame y .uncorrectable
      rw [h', ← hy]
      exact ⟨d, b, f, a, m, sp, r, q, w', j', _, s.lastUncorrectable, rfl⟩
    · generalize hy : State.mk _ _ _ _ _ _ _ _ _ _ _ _ _ _ _ _ _ _ _ _ _ _ _ _ _ _ _ _ _ _ _ _ _ _ _ _ _ _ _ _ _
        _ _ _ _ _ _ _ _ _ = y
      obtain ⟨j', w', h'⟩ := State.raiseCause_frame y .uncorrectable
      rw [h', ← hy]
      exact ⟨d, b, f, a, m, sp, r, q, w', j', _, _, rfl⟩

/-- What an absorbed masked write reports changes no more than the reports of a decode. -/
theorem State.reportLoss_frame (s : State) (loss : Option MergeLoss) :
    ∃ d b f a m sp r q w j c l, s.reportLoss loss =
      { s with devices := d, table := b, suspects := f, migrationQueue := a, migration := m, spares := sp,
               remaps := r, writer := q, waiters := w, journal := j, counters := c, lastUncorrectable := l } := by
  unfold State.reportLoss
  split
  · exact ⟨s.devices, s.table, s.suspects, s.migrationQueue, s.migration, s.spares, s.remaps, s.writer, s.waiters,
      s.journal, s.counters, s.lastUncorrectable, rfl⟩
  · next x =>
    split
    · obtain ⟨q, w, j, c, h⟩ := State.handRecord_frame s (x.decode.record .poisonAbsorb .merge x.ended)
      exact ⟨s.devices, s.table, s.suspects, s.migrationQueue, s.migration, s.spares, s.remaps, q, w, j, c,
        s.lastUncorrectable, h⟩
    · exact State.report_frame s x.decode .merge x.ended

/-! ## The order of accepted accesses -/

/-- The presentation of an access changes its port's access, the answers, and what a journal record changes. -/
theorem State.present_frame (s : State) (a : ServerAccess) :
    ∃ p r y q w j c, s.present a =
      { s with ports := p, reads := r, replies := y, writer := q, waiters := w, journal := j, counters := c } := by
  have same : ∃ p r y q w j c, s =
      { s with ports := p, reads := r, replies := y, writer := q, waiters := w, journal := j, counters := c } :=
    ⟨s.ports, s.reads, s.replies, s.writer, s.waiters, s.journal, s.counters, rfl⟩
  have guarded : ∀ host slot x, ∃ p r y q w j c, s.guardWrite host slot x =
      { s with ports := p, reads := r, replies := y, writer := q, waiters := w, journal := j, counters := c } := by
    intro host slot x
    unfold State.guardWrite
    obtain ⟨q, w, j, c, h⟩ := State.handPlain_frame s (.slotGuard slot x) none 0 0 []
    rw [h]
    exact ⟨s.ports, s.reads, _, q, w, j, c, rfl⟩
  have asks : ∀ port x, ∃ p r y q w j c, s.setAccess port x =
      { s with ports := p, reads := r, replies := y, writer := q, waiters := w, journal := j, counters := c } :=
    fun port x => ⟨_, s.reads, s.replies, s.writer, s.waiters, s.journal, s.counters, rfl⟩
  cases a with
  | read host =>
    simp only [State.present, State.presentRead]
    split
    · unfold State.answerInTurn
      split
      · exact ⟨s.ports, _, s.replies, s.writer, s.waiters, s.journal, s.counters, rfl⟩
      · exact ⟨s.ports, s.reads, _, s.writer, s.waiters, s.journal, s.counters, rfl⟩
    · exact asks _ _
  | fullLineWrite host data =>
    simp only [State.present, State.presentFull]
    split
    · exact guarded _ _ _
    · exact asks _ _
  | maskedWrite host data mask =>
    simp only [State.present, State.presentMasked, State.presentMask]
    split
    · exact guarded _ _ _
    · split
      · exact ⟨s.ports, s.reads, _, s.writer, s.waiters, s.journal, s.counters, rfl⟩
      · split
        · exact asks _ _
        · split
          · exact asks _ _
          · exact asks _ _

/-- Presenting accesses in order changes what presenting one changes, and the accesses that wait. -/
theorem State.presentInOrder_frame (port : Nat) (l : List ServerAccess) (s : State) :
    ∃ p a r y q w j c, State.presentInOrder port l s =
      { s with ports := p, arrivals := a, reads := r, replies := y, writer := q, waiters := w, journal := j,
               counters := c } := by
  induction l generalizing s with
  | nil => exact ⟨s.ports, _, s.reads, s.replies, s.writer, s.waiters, s.journal, s.counters, rfl⟩
  | cons x rest ih =>
    unfold State.presentInOrder
    split
    · obtain ⟨p, r, y, q, w, j, c, h⟩ := State.present_frame s x
      obtain ⟨p', a, r', y', q', w', j', c', h'⟩ := ih (s.present x)
      rw [h', h]
      exact ⟨p', a, r', y', q', w', j', c', rfl⟩
    · exact ⟨s.ports, _, s.reads, s.replies, s.writer, s.waiters, s.journal, s.counters, rfl⟩

/-- Accepting an access changes the accesses of the ports, the answers, and what a journal record changes. -/
theorem State.accept_frame (s : State) (x : ServerAccess) :
    ∃ p a r y q w j c, s.accept x =
      { s with ports := p, arrivals := a, reads := r, replies := y, writer := q, waiters := w, journal := j,
               counters := c } :=
  State.presentInOrder_frame _ _ s

/-- Freeing a port changes the accesses of the ports, the answers, and what a journal record changes. -/
theorem State.freePort_frame (s : State) (port : Nat) :
    ∃ p a r y q w j c, s.freePort port =
      { s with ports := p, arrivals := a, reads := r, replies := y, writer := q, waiters := w, journal := j,
               counters := c } := by
  obtain ⟨p, a, r, y, q, w, j, c, h⟩ :=
    State.presentInOrder_frame port (s.arrivalsAt port) (s.setAccess port .idle)
  unfold State.freePort
  rw [h]
  exact ⟨p, a, r, y, q, w, j, c, rfl⟩

/-- After a port is freed, accesses wait on it only behind one that has not received its grants. -/
theorem State.presentInOrder_inOrder (port : Nat) (l : List ServerAccess) (s : State) (hp : port < 4) :
    (State.presentInOrder port l s).access port = .idle → (State.presentInOrder port l s).arrivalsAt port = [] := by
  induction l generalizing s with
  | nil => intro _; simp [State.presentInOrder, State.arrivalsAt_setArrivals, hp]
  | cons x rest ih =>
    unfold State.presentInOrder
    split
    · exact ih (s.present x)
    · next h => intro h'; exact absurd (by simpa using h') h

/-! ## The Pacer, the take cursor, quiesce, hand-offs -/

theorem State.review_frame (s : State) : ∃ p, s.review = { s with patrol := p } := by
  unfold State.review
  split
  · exact ⟨s.patrol, rfl⟩
  · split
    · exact ⟨_, rfl⟩
    · exact ⟨_, rfl⟩

theorem State.askReview_frame (s : State) : ∃ p, s.askReview = { s with patrol := p } := by
  unfold State.askReview
  split
  · exact State.review_frame s
  · exact ⟨s.patrol, rfl⟩

theorem State.endVisit_frame (s : State) :
    ∃ p q w j c, s.endVisit = { s with patrol := p, writer := q, waiters := w, journal := j, counters := c } := by
  unfold State.endVisit
  split
  · exact ⟨_, s.writer, s.waiters, s.journal, s.counters, rfl⟩
  · unfold State.completePass
    generalize RecordKind.passDone _ _ _ _ _ _ = k
    obtain ⟨q, w, j, c, h⟩ := State.handPlain_frame s k none 0 0 []
    rw [h]
    unfold State.startPass
    obtain ⟨p, h'⟩ := State.review_frame
      { ({ s with writer := q, waiters := w, journal := j, counters := c } : State) with
        patrol := { s.patrol with
          passNumber := nextPassNumber s.patrol.passNumber, cursor := 0, passStart := s.time,
          passEnd := timeAfter s.time (s.policy.patrolPeriod * Config.second),
          corrected := 0, deepCorrected := 0, uncorrectable := 0, late := false } }
    exact ⟨p, q, w, j, c, h'⟩

theorem State.checkQuiesce_frame (s : State) :
    ∃ z q w j m, s.checkQuiesce =
      { s with quiesceSlot := z, writer := q, waiters := w, journal := j, slots := m } := by
  unfold State.checkQuiesce
  split
  · exact ⟨s.quiesceSlot, s.writer, s.waiters, s.journal, s.slots, rfl⟩
  · next slot _ =>
    split
    · obtain ⟨q, w, j, m, h⟩ := State.finishTaken_frame { s with quiesceSlot := none } slot .ok .none []
      exact ⟨none, q, w, j, m, h⟩
    · exact ⟨s.quiesceSlot, s.writer, s.waiters, s.journal, s.slots, rfl⟩

theorem State.armWindow_frame (s : State) (record : Nat) (l : Line) (now : PartTime) :
    ∃ v q w, s.armWindow record l now = { s with windows := v, writer := q, waiters := w } := by
  unfold State.armWindow
  split
  · obtain ⟨q, w, h⟩ := State.requestRecord_frame (s.setWindow record (armedEntry l now)) record
    rw [h]
    exact ⟨_, q, w, rfl⟩
  · exact ⟨_, s.writer, s.waiters, rfl⟩

theorem State.slotHandOff_frame (s : State) (slot : Nat) (l : Line) :
    ∃ m c o, s.slotHandOff slot l = { s with slots := m, takeCursor := c, ownRead := o } := by
  unfold State.slotHandOff
  split
  · exact ⟨_, _, s.ownRead, rfl⟩
  · simp only
    split
    · exact ⟨_, _, _, rfl⟩
    · exact ⟨_, _, s.ownRead, rfl⟩

theorem State.windowHandOff_frame (s : State) (record : Nat) (l : Line) :
    ∃ v q w p, s.windowHandOff record l = { s with windows := v, writer := q, waiters := w, patrol := p } := by
  unfold State.windowHandOff
  split
  · obtain ⟨v, q, w, h⟩ := State.armWindow_frame s record l s.time
    obtain ⟨p, h'⟩ := State.askReview_frame (s.armWindow record l s.time)
    exact ⟨v, q, w, p, by rw [h', h]⟩
  · split
    · obtain ⟨q, w, h⟩ := State.requestRecord_frame (s.setWindow record WindowEntry.emptyEntry) record
      obtain ⟨p, h'⟩ := State.askReview_frame ((s.setWindow record WindowEntry.emptyEntry).requestRecord record)
      exact ⟨_, q, w, p, by rw [h', h]; rfl⟩
    · split
      · obtain ⟨p, h'⟩ := State.askReview_frame (s.setWindow record WindowEntry.emptyEntry)
        exact ⟨_, s.writer, s.waiters, p, h'⟩
      · obtain ⟨q, w, h⟩ := State.requestRecord_frame s record
        exact ⟨s.windows, q, w, s.patrol, h⟩

theorem State.markHandOff_frame (s : State) (h : HandOff) :
    ∃ j w, s.markHandOff h = { s with journal := j, waiters := w } := by
  unfold State.markHandOff
  simp only
  obtain ⟨j, w, hm⟩ := State.moveMark_frame s (markField h.line)
  split
  · split
    · exact ⟨s.journal, s.waiters, rfl⟩
    · exact ⟨j, w, hm⟩
  · split
    · exact State.acknowledge_frame s _
    · obtain ⟨j', w', h'⟩ := State.acknowledge_frame (s.moveMark (markField h.line)) (ackField h.line)
      exact ⟨j', w', by rw [h', hm]⟩

/-- Acting on a hand-off changes the slots, the take cursor, a take's request, the windows, the writer and its waiters,
the rate and the journal. -/
theorem State.actOn_frame (s : State) (h : HandOff) :
    ∃ m c o v q w p j, s.actOn h =
      { s with slots := m, takeCursor := c, ownRead := o, windows := v, writer := q, waiters := w, patrol := p,
               journal := j } := by
  unfold State.actOn
  split
  · next slot _ =>
    obtain ⟨m, c, o, e⟩ := State.slotHandOff_frame s slot h.line
    exact ⟨m, c, o, s.windows, s.writer, s.waiters, s.patrol, s.journal, e⟩
  · split
    · next record _ =>
      obtain ⟨v, q, w, p, e⟩ := State.windowHandOff_frame s record h.line
      exact ⟨s.slots, s.takeCursor, s.ownRead, v, q, w, p, s.journal, e⟩
    · split
      · obtain ⟨j, w, e⟩ := State.markHandOff_frame s h
        exact ⟨s.slots, s.takeCursor, s.ownRead, s.windows, s.writer, w, s.patrol, j, e⟩
      · exact ⟨s.slots, s.takeCursor, s.ownRead, s.windows, s.writer, s.waiters, s.patrol, s.journal, rfl⟩

theorem State.settle_frame (s : State) :
    ∃ f m c o v q w p j, s.settle =
      { s with handOff := f, slots := m, takeCursor := c, ownRead := o, windows := v, writer := q, waiters := w,
               patrol := p, journal := j } := by
  unfold State.settle
  split
  · exact ⟨s.handOff, s.slots, s.takeCursor, s.ownRead, s.windows, s.writer, s.waiters, s.patrol, s.journal, rfl⟩
  · next h _ =>
    obtain ⟨m, c, o, v, q, w, p, j, e⟩ := State.actOn_frame { s with handOff := none } h
    exact ⟨none, m, c, o, v, q, w, p, j, e⟩

/-- With no hand-off pending nothing is settled. -/
@[simp] theorem State.settle_none (s : State) (h : s.handOff = none) : s.settle = s := by simp [State.settle, h]

/-- With no hand-off pending, a step is its effect and the keeping of the rebuild's choice. -/
theorem act_of_settled (f : State → State) (s : State) (h : s.handOff = none) :
    act f s = .next { f s with rebuildChoice := (f s).currentChoice } := by
  simp [act, h, State.finish]

end Sys2Proof.Machine
end

