-- ==== Sys2Proof/Laws/Memory.lean ====
section
/-! SUPPORT. Laws of memory: what a read gives after a write, and that every operation keeps the canonical form. -/

namespace Sys2Proof.Machine

@[simp] theorem Memory.read_nil (a : Nat) : Memory.read [] a = Memory.unlisted := rfl

theorem Memory.read_cons (k : Nat) (v : Byte) (m : Memory) (a : Nat) :
    Memory.read ((k, v) :: m) a = if k = a then v else Memory.read m a := rfl

/-- The canonical form, as two propositions. -/
theorem Memory.wf_iff (m : Memory) :
    m.wf = true ↔ m.Pairwise (fun x y => x.1 < y.1) ∧ ∀ x ∈ m, x.2 ≠ Memory.unlisted := by
  simp [Memory.wf]

@[simp] theorem Memory.wf_nil : Memory.wf [] = true := rfl

/-- A canonical memory above whose head an address lies has the address unlisted. -/
theorem Memory.read_below {m : Memory} {a : Nat} (h : ∀ x ∈ m, a < x.1) : Memory.read m a = Memory.unlisted := by
  induction m with
  | nil => rfl
  | cons p m ih =>
    obtain ⟨k, v⟩ := p
    have hk : a < k := h (k, v) (by simp)
    rw [Memory.read_cons, if_neg (by omega)]
    exact ih fun x hx => h x (by simp [hx])

/-- The addresses a write leaves listed are those that were listed and the one written. -/
theorem Memory.mem_write {m : Memory} {a : Nat} {b : Byte} {x : Host.Cell} (h : x ∈ Memory.write m a b) :
    x ∈ m ∨ (x = (a, b) ∧ b ≠ Memory.unlisted) := by
  induction m with
  | nil =>
    simp only [Memory.write] at h
    split at h
    · simp at h
    · next hb => exact .inr ⟨by simpa using h, hb⟩
  | cons p m ih =>
    obtain ⟨k, v⟩ := p
    simp only [Memory.write] at h
    split at h
    · split at h
      · exact .inl h
      · next hb =>
        rcases List.mem_cons.1 h with h | h
        · exact .inr ⟨h, hb⟩
        · exact .inl h
    · split at h
      · split at h
        · exact .inl (List.mem_cons_of_mem _ h)
        · next hb =>
          rcases List.mem_cons.1 h with h | h
          · exact .inr ⟨h, hb⟩
          · exact .inl (List.mem_cons_of_mem _ h)
      · rcases List.mem_cons.1 h with h | h
        · exact .inl (by simp [h])
        · rcases ih h with h | h
          · exact .inl (List.mem_cons_of_mem _ h)
          · exact .inr h

/-- A write keeps the canonical form. -/
theorem Memory.wf_write {m : Memory} (a : Nat) (b : Byte) (h : m.wf = true) : (Memory.write m a b).wf = true := by
  rw [Memory.wf_iff] at h ⊢
  obtain ⟨hs, hv⟩ := h
  refine ⟨?_, fun x hx => ?_⟩
  · induction m with
    | nil => simp only [Memory.write]; split <;> simp
    | cons p m ih =>
      obtain ⟨k, v⟩ := p
      obtain ⟨hk, hm⟩ := List.pairwise_cons.1 hs
      simp only [Memory.write]
      split
      · next hlt =>
        split
        · exact hs
        · refine List.pairwise_cons.2 ⟨fun x hx => ?_, hs⟩
          rcases List.mem_cons.1 hx with hx | hx
          · simpa [hx] using hlt
          · exact Nat.lt_trans hlt (hk x hx)
      · split
        · next hnlt heq =>
          split
          · exact hm
          · refine List.pairwise_cons.2 ⟨fun x hx => ?_, hm⟩
            simpa [← heq] using hk x hx
        · next hnlt hne =>
          refine List.pairwise_cons.2 ⟨fun x hx => ?_, ih hm fun x hx => hv x (by simp [hx])⟩
          rcases Memory.mem_write hx with hx | ⟨hx, _⟩
          · exact hk x hx
          · simp only [hx]; omega
  · rcases Memory.mem_write hx with hx | ⟨hx, hb⟩
    · exact hv x hx
    · simpa [hx] using hb

/-- Reading the byte just written gives it. -/
theorem Memory.read_write_same {m : Memory} (a : Nat) (b : Byte) (h : m.wf = true) :
    Memory.read (Memory.write m a b) a = b := by
  rw [Memory.wf_iff] at h
  obtain ⟨hs, -⟩ := h
  induction m with
  | nil =>
    simp only [Memory.write]
    split
    · next hb => simp [hb]
    · simp [Memory.read_cons]
  | cons p m ih =>
    obtain ⟨k, v⟩ := p
    obtain ⟨hk, hm⟩ := List.pairwise_cons.1 hs
    simp only [Memory.write]
    split
    · next hlt =>
      split
      · next hb =>
        rw [hb]
        refine Memory.read_below fun x hx => ?_
        rcases List.mem_cons.1 hx with hx | hx
        · simpa [hx] using hlt
        · exact Nat.lt_trans hlt (hk x hx)
      · simp [Memory.read_cons]
    · split
      · next hnlt heq =>
        split
        · next hb =>
          rw [hb]
          exact Memory.read_below fun x hx => by simpa [← heq] using hk x hx
        · simp [Memory.read_cons]
      · next hne => rw [Memory.read_cons, if_neg hne]; exact ih hm

/-- Every other byte reads as before a write. -/
theorem Memory.read_write_other {m : Memory} {a c : Nat} (b : Byte) (hc : c ≠ a) :
    Memory.read (Memory.write m a b) c = Memory.read m c := by
  induction m with
  | nil =>
    simp only [Memory.write]
    split
    · rfl
    · rw [Memory.read_cons, if_neg (Ne.symm hc)]
  | cons p m ih =>
    obtain ⟨k, v⟩ := p
    simp only [Memory.write]
    split
    · split
      · rfl
      · rw [Memory.read_cons, if_neg (Ne.symm hc)]
    · split
      · next heq =>
        split
        · rw [Memory.read_cons, if_neg (by omega)]
        · rw [Memory.read_cons, if_neg (Ne.symm hc), Memory.read_cons, if_neg (by omega)]
      · rw [Memory.read_cons, Memory.read_cons, ih]

/-- A write of several bytes keeps the canonical form. -/
theorem Memory.wf_writeBytes {m : Memory} (a n v : Nat) (h : m.wf = true) :
    (Memory.writeBytes m a n v).wf = true := by
  induction n generalizing m a v with
  | zero => exact h
  | succ n ih => exact ih _ _ (Memory.wf_write _ _ h)

/-- Bytes outside those written read as before. -/
theorem Memory.read_writeBytes_other {m : Memory} {a n c : Nat} (v : Nat) (hc : c < a ∨ a + n ≤ c) :
    Memory.read (Memory.writeBytes m a n v) c = Memory.read m c := by
  induction n generalizing m a v with
  | zero => rfl
  | succ n ih =>
    rw [Memory.writeBytes, ih _ (by omega), Memory.read_write_other _ (by omega)]

/-- A run of bytes that does not meet those written reads as before. -/
theorem Memory.readBytes_writeBytes_other {m : Memory} {a n c k : Nat} (v : Nat) (hc : c + k ≤ a ∨ a + n ≤ c) :
    Memory.readBytes (Memory.writeBytes m a n v) c k = Memory.readBytes m c k := by
  induction k generalizing c with
  | zero => rfl
  | succ k ih =>
    rw [Memory.readBytes, Memory.readBytes, ih (by omega), Memory.read_writeBytes_other _ (by omega)]

/-- The bytes just written read back. -/
theorem Memory.readBytes_writeBytes_same {m : Memory} (a n v : Nat) (h : m.wf = true) (hv : v < 256 ^ n) :
    Memory.readBytes (Memory.writeBytes m a n v) a n = v := by
  induction n generalizing m a v with
  | zero => simp at hv; simp [Memory.readBytes, hv]
  | succ n ih =>
    have hw := Memory.wf_write (m := m) a (BitVec.ofNat 8 v) h
    have hd : v / 256 < 256 ^ n := by
      rw [Nat.div_lt_iff_lt_mul (by decide)]; rw [Nat.pow_succ] at hv; exact hv
    rw [Memory.writeBytes, Memory.readBytes, ih _ _ hw hd, Memory.read_writeBytes_other _ (by omega),
      Memory.read_write_same _ _ h]
    simp only [BitVec.toNat_ofNat]
    omega

/-- `n` bytes hold a number below 256 ^ n. -/
theorem Memory.readBytes_lt (m : Memory) (a n : Nat) : Memory.readBytes m a n < 256 ^ n := by
  induction n generalizing a with
  | zero => simp [Memory.readBytes]
  | succ n ih =>
    have := ih (a + 1)
    have hb := (Memory.read m a).isLt
    rw [Memory.readBytes, Nat.pow_succ]
    omega

/-- Two canonical memories that read alike everywhere are equal. -/
theorem Memory.ext_of_read {m n : Memory} (hm : m.wf = true) (hn : n.wf = true)
    (h : ∀ a, Memory.read m a = Memory.read n a) : m = n := by
  rw [Memory.wf_iff] at hm hn
  induction m generalizing n with
  | nil =>
    cases n with
    | nil => rfl
    | cons q n =>
      have := h q.1
      rw [Memory.read_nil, Memory.read_cons, if_pos rfl] at this
      exact absurd this.symm (hn.2 q (by simp))
  | cons p m ih =>
    obtain ⟨k, v⟩ := p
    obtain ⟨⟨hk, hps⟩, hv⟩ := And.imp_left List.pairwise_cons.1 hm
    cases n with
    | nil =>
      have := h k
      rw [Memory.read_nil, Memory.read_cons, if_pos rfl] at this
      exact absurd this (hv (k, v) (by simp))
    | cons q n =>
      obtain ⟨j, w⟩ := q
      obtain ⟨⟨hj, hqs⟩, hw⟩ := And.imp_left List.pairwise_cons.1 hn
      have hkj : k = j := by
        rcases Nat.lt_trichotomy k j with hlt | heq | hgt
        · exfalso
          have := h k
          rw [Memory.read_cons, if_pos rfl, Memory.read_below] at this
          · exact hv (k, v) (by simp) this
          · intro x hx
            rcases List.mem_cons.1 hx with hx | hx
            · simpa [hx] using hlt
            · exact Nat.lt_trans hlt (hj x hx)
        · exact heq
        · exfalso
          have := h j
          rw [Memory.read_cons (k := j), if_pos rfl, Memory.read_below] at this
          · exact hw (j, w) (by simp) this.symm
          · intro x hx
            rcases List.mem_cons.1 hx with hx | hx
            · simpa [hx] using hgt
            · exact Nat.lt_trans hgt (hk x hx)
      subst hkj
      have hvw : v = w := by
        have := h k
        rwa [Memory.read_cons, if_pos rfl, Memory.read_cons, if_pos rfl] at this
      subst hvw
      congr 1
      refine ih ⟨hps, fun x hx => hv x (by simp [hx])⟩ ⟨hqs, fun x hx => hw x (by simp [hx])⟩ fun a => ?_
      rcases Nat.lt_or_ge k a with hlt | hge
      · have := h a
        rwa [Memory.read_cons, if_neg (by omega), Memory.read_cons, if_neg (by omega)] at this
      · rw [Memory.read_below fun x hx => Nat.lt_of_le_of_lt hge (hk x hx),
          Memory.read_below fun x hx => Nat.lt_of_le_of_lt hge (hj x hx)]

end Sys2Proof.Machine
end

