-- ==== Sys2Proof/Laws/Array.lean ====
section
/-! SUPPORT. What the array's operations do: where slices lie, where a line write places them, what it stores. -/

namespace Sys2Proof.Machine

/-- The slice storage of two devices of a line does not overlap. -/
theorem sliceAddress_apart {rank index d e : Nat} (h : d ≠ e) :
    sliceAddress rank index e + 4 ≤ sliceAddress rank index d ∨ sliceAddress rank index d + 4 ≤ sliceAddress rank index e := by
  unfold sliceAddress; omega

/-- A stored slice reads back. -/
theorem State.storedSlice_storeSlice_same (s : State) (rank index d : Nat) (v : Slice) (h : s.cells.wf = true) :
    (s.storeSlice rank index d v).storedSlice rank index d = v := by
  unfold State.storedSlice State.storeSlice
  rw [Memory.readBytes_writeBytes_same _ _ _ h (by have := v.isLt; omega)]
  simp

/-- Storing a slice leaves the slices of other devices of the line. -/
theorem State.storedSlice_storeSlice_other (s : State) (rank index d e : Nat) (v : Slice) (h : e ≠ d) :
    (s.storeSlice rank index d v).storedSlice rank index e = s.storedSlice rank index e := by
  unfold State.storedSlice State.storeSlice
  rw [Memory.readBytes_writeBytes_other]
  rcases sliceAddress_apart (rank := rank) (index := index) h with h | h
  · right; exact h
  · left; exact h

theorem State.storeSlice_wf (s : State) (rank index d : Nat) (v : Slice) (h : s.cells.wf = true) :
    (s.storeSlice rank index d v).cells.wf = true := Memory.wf_writeBytes _ _ _ h

theorem State.placeSlices_wf (s : State) (rank index : Nat) (c : Content) (ts : List (Nat × Nat))
    (h : s.cells.wf = true) : (s.placeSlices rank index c ts).cells.wf = true := by
  unfold State.placeSlices
  induction ts generalizing s with
  | nil => exact h
  | cons t ts ih => exact ih _ (s.storeSlice_wf rank index t.2 _ h)

/-- A device that takes no slice keeps its own. -/
theorem State.placeSlices_other (s : State) (rank index : Nat) (c : Content) (ts : List (Nat × Nat)) (d : Nat)
    (h : ∀ x ∈ ts, x.2 ≠ d) : (s.placeSlices rank index c ts).storedSlice rank index d = s.storedSlice rank index d := by
  unfold State.placeSlices
  induction ts generalizing s with
  | nil => rfl
  | cons t ts ih =>
    rw [List.foldl_cons, ih _ fun x hx => h x (by simp [hx])]
    exact s.storedSlice_storeSlice_other rank index t.2 d _ (h t (by simp)).symm

/-- Each device that takes a slice holds it. -/
theorem State.placeSlices_same (s : State) (rank index : Nat) (c : Content) (ts : List (Nat × Nat)) (hs : s.cells.wf = true)
    (h : (ts.map Prod.snd).Nodup) (x : Nat × Nat) (hx : x ∈ ts) :
    (s.placeSlices rank index c ts).storedSlice rank index x.2 = encodeSlice c x.1 := by
  induction ts generalizing s with
  | nil => cases hx
  | cons t ts ih =>
    rw [List.map_cons, List.nodup_cons] at h
    rcases List.mem_cons.1 hx with hx | hx
    · subst hx
      refine (State.placeSlices_other (s.storeSlice rank index x.2 (encodeSlice c x.1)) rank index c ts x.2 ?_).trans
        (s.storedSlice_storeSlice_same rank index x.2 _ hs)
      intro y hy e
      exact h.1 (e ▸ List.mem_map_of_mem hy)
    · exact ih (s.storeSlice rank index t.2 _) (s.storeSlice_wf rank index t.2 _ hs) h.2 hx

/-- A byte outside the stored slices reads as before. -/
theorem State.placeSlices_read (s : State) (rank index : Nat) (c : Content) (ts : List (Nat × Nat)) (a : Nat)
    (h : ∀ x ∈ ts, ¬ (sliceAddress rank index x.2 ≤ a ∧ a < sliceAddress rank index x.2 + 4)) :
    (s.placeSlices rank index c ts).cells.read a = s.cells.read a := by
  unfold State.placeSlices
  induction ts generalizing s with
  | nil => rfl
  | cons t ts ih =>
    rw [List.foldl_cons, ih _ fun x hx => h x (by simp [hx])]
    exact Memory.read_writeBytes_other _ (by have := h t (by simp); omega)

theorem RankDevices.carrier_mem (r : RankDevices) (p : Nat) (hp : p < 19) : r.carrier p ∈ r.posMap.toList := by
  unfold RankDevices.carrier nth
  rw [Vector.getElem?_eq_getElem hp]
  exact Vector.mem_toList_iff.2 (Vector.getElem_mem hp)

/-- No device carries two positions. -/
theorem RankDevices.carrier_inj (r : RankDevices) (h : r.Sound) {p q : Nat} (hp : p < 19) (hq : q < 19)
    (e : r.carrier p = r.carrier q) : p = q := by
  unfold RankDevices.carrier nth at e
  rw [Vector.getElem?_eq_getElem hp, Vector.getElem?_eq_getElem hq] at e
  have hn := h.1
  have e' : r.posMap.toList[p]'(by simpa using hp) = r.posMap.toList[q]'(by simpa using hq) := by
    simpa [Vector.getElem_toList] using e
  exact (List.Nodup.getElem_inj_iff hn).1 e'

/-- The spare device carries no position while a rebuild is in flight. -/
theorem RankDevices.carrier_ne_spare (r : RankDevices) (h : r.Sound) (hf : r.inFlight = true) {p : Nat} (hp : p < 19) :
    r.carrier p ≠ 19 := by
  intro e
  obtain ⟨_, hm, _, _, _, _, _, hs⟩ := h
  have hc := r.carrier_mem p hp
  rw [e] at hc
  have h19 := (hm 19 (by omega)).2 hc
  rw [(hs hf).1] at h19
  simp at h19

theorem RankDevices.markedPosition_lt (r : RankDevices) {m : Nat} (h : r.markedPosition = some m) : m < 19 := by
  unfold RankDevices.markedPosition RankDevices.positionOf firstBelow at h
  obtain ⟨d, _, h⟩ := Option.bind_eq_some_iff.1 h
  exact List.mem_range.1 (List.mem_of_find?_eq_some h)

/-- The devices one position's slice goes to. -/
theorem RankDevices.mem_writeTo (r : RankDevices) (index : Nat) (x : Nat × Nat) :
    x ∈ r.writeTo index ↔ x.1 < 19 ∧
      (if r.markedPosition = some x.1 ∧ r.inFlight = true then
        (x.2 = 19 ∨ (¬ index < r.cursor ∧ x.2 = r.carrier x.1)) else x.2 = r.carrier x.1) := by
  obtain ⟨p, d⟩ := x
  simp only [RankDevices.writeTo, List.mem_flatMap, List.mem_range, Config.positions]
  constructor
  · rintro ⟨q, hq, h⟩
    split at h
    · next hc =>
      simp only [Bool.and_eq_true, decide_eq_true_eq] at hc
      split at h
      · next hi =>
        simp only [List.mem_singleton, Prod.mk.injEq] at h
        obtain ⟨rfl, rfl⟩ := h
        exact ⟨hq, by simp [hc]⟩
      · next hi =>
        simp only [List.mem_cons, Prod.mk.injEq, List.not_mem_nil, or_false] at h
        rcases h with ⟨rfl, rfl⟩ | ⟨rfl, rfl⟩
        · exact ⟨hq, by rw [if_pos hc]; exact Or.inr ⟨hi, rfl⟩⟩
        · exact ⟨hq, by simp [hc]⟩
    · next hc =>
      simp only [List.mem_singleton, Prod.mk.injEq] at h
      obtain ⟨rfl, rfl⟩ := h
      refine ⟨hq, ?_⟩
      rw [if_neg (by simpa using hc)]
  · rintro ⟨hp, h⟩
    refine ⟨p, hp, ?_⟩
    split at h
    · next hc =>
      rw [if_pos (by simp [hc])]
      split
      · next hi => rcases h with h | h
                   · simp [h]
                   · exact absurd hi h.1
      · next hi => rcases h with h | h
                   · simp [h]
                   · simp [h.2]
    · next hc =>
      rw [if_neg (by simpa using hc)]
      simp [h]

/-- A line write puts at most one slice on a device. -/
theorem RankDevices.writeTo_nodup (r : RankDevices) (h : r.Sound) (index : Nat) :
    ((r.writeTo index).map Prod.snd).Nodup := by
  have key : ∀ l : List Nat, l.Nodup → (∀ p ∈ l, p < 19) →
      ((l.flatMap fun p =>
        if decide (r.markedPosition = some p) && r.inFlight then
          (if index < r.cursor then [(p, 19)] else [(p, r.carrier p), (p, 19)])
        else [(p, r.carrier p)]).map Prod.snd).Nodup := by
    intro l hl hlt
    rw [List.map_flatMap]
    rw [List.nodup_flatMap]
    constructor
    · intro p hp
      split
      · next hc =>
        simp only [Bool.and_eq_true] at hc
        split
        · simp
        · simp [r.carrier_ne_spare h hc.2 (hlt p hp)]
      · simp
    · refine List.Pairwise.imp_of_mem ?_ hl
      intro p q hp hq hne
      simp only [Function.onFun, List.Disjoint]
      intro d hdp hdq
      have hcar : r.carrier p ≠ r.carrier q := fun e => hne (r.carrier_inj h (hlt p hp) (hlt q hq) e)
      by_cases hf : r.inFlight = true
      · have sp := r.carrier_ne_spare h hf (hlt p hp)
        have sq := r.carrier_ne_spare h hf (hlt q hq)
        simp only [hf, Bool.and_true, decide_eq_true_eq] at hdp hdq
        by_cases h1 : r.markedPosition = some p <;> by_cases h2 : r.markedPosition = some q
        · exact hne (Option.some.inj (h1.symm.trans h2))
        · rw [if_pos h1] at hdp; rw [if_neg h2] at hdq
          split at hdp <;> simp at hdp hdq <;> grind
        · rw [if_neg h1] at hdp; rw [if_pos h2] at hdq
          split at hdq <;> simp at hdp hdq <;> grind
        · rw [if_neg h1] at hdp; rw [if_neg h2] at hdq
          simp at hdp hdq; grind
      · simp [hf] at hdp hdq
        exact hcar (hdp.symm.trans hdq)
  exact key _ List.nodup_range fun p hp => by simpa [Config.positions] using List.mem_range.1 hp

/-- The content recorded for a line reads back. -/
theorem State.recordContent_contentAt (s : State) (rank index : Nat) (c : Content) (hw : s.written.wf = true) (hp : s.poisoned.wf = true) :
    (s.recordContent rank index c).contentAt rank index = c := by
  unfold State.contentAt State.recordContent
  simp only
  have hd : c.data.toNat < 256 ^ 64 := by
    rw [show (256 : Nat) = 2 ^ 8 from rfl, ← Nat.pow_mul]
    exact c.data.isLt
  rw [Memory.readBytes_writeBytes_same _ _ _ hw hd, Memory.read_write_same _ _ hp, BitVec.ofNat_toNat,
    BitVec.setWidth_eq]
  obtain ⟨d, p⟩ := c
  cases p <;> rfl

theorem State.recordContent_cells (s : State) (rank index : Nat) (c : Content) :
    (s.recordContent rank index c).cells = s.cells := by simp only [State.recordContent]

theorem State.recordContent_written (s : State) (rank index : Nat) (c : Content) :
    (s.recordContent rank index c).written =
      Memory.writeBytes s.written (lineKey rank index * 64) 64 c.data.toNat := by simp only [State.recordContent]

theorem State.recordContent_poisoned (s : State) (rank index : Nat) (c : Content) :
    (s.recordContent rank index c).poisoned =
      Memory.write s.poisoned (lineKey rank index) (if c.poison then 1 else 0) := by simp only [State.recordContent]

theorem State.contentAt_congr {s t : State} (rank index : Nat) (hw : s.written = t.written)
    (hp : s.poisoned = t.poisoned) : s.contentAt rank index = t.contentAt rank index := by
  unfold State.contentAt
  rw [hw, hp]

theorem State.writeLine_kept (s : State) (rank row column : Nat) (c : Content) :
    (s.writeLine rank row column c).written = (s.recordContent rank (physIndex row column) c).written ∧
      (s.writeLine rank row column c).poisoned = (s.recordContent rank (physIndex row column) c).poisoned := by
  unfold State.writeLine
  generalize s.recordContent rank (physIndex row column) c = u
  obtain ⟨m, e⟩ := State.placeSlices_frame u rank (physIndex row column) c
    ((s.rankDevices rank).writeTo (physIndex row column))
  rw [e]
  exact ⟨rfl, rfl⟩

/-- A line write stores its content, and no byte outside it. -/
theorem State.writeLine_stored (s : State) (rank row column : Nat) (c : Content) (h : (s.rankDevices rank).Sound)
    (hm : s.MemoriesCanonical) : s.LineStored (s.writeLine rank row column c) rank row column c := by
  obtain ⟨hw, hp⟩ := s.writeLine_kept rank row column c
  generalize hi : physIndex row column = index at *
  have hc : (s.recordContent rank index c).cells.wf = true := by rw [State.recordContent_cells]; exact hm.1
  have hx := (s.rankDevices rank).writeTo_nodup h index
  have e : (s.writeLine rank row column c).cells =
      ((s.recordContent rank index c).placeSlices rank index c ((s.rankDevices rank).writeTo index)).cells := by
    unfold State.writeLine; rw [hi]
  unfold State.LineStored
  rw [hi]
  refine ⟨⟨?_, ?_⟩, ?_, ?_, ?_⟩
  · intro x hx'
    unfold State.storedSlice
    rw [e]
    exact State.placeSlices_same _ rank index c _ hc hx x hx'
  · rw [State.contentAt_congr rank index hw hp]
    exact s.recordContent_contentAt rank index c hm.2.1 hm.2.2
  · intro a ha
    rw [e, State.placeSlices_read _ rank index c _ a, State.recordContent_cells]
    intro x hx' hr
    exact ha ⟨x, hx', hr⟩
  · intro a ha
    rw [hw, State.recordContent_written]
    refine Memory.read_writeBytes_other _ ?_
    unfold contentByte at ha; omega
  · intro a ha
    rw [hp, State.recordContent_poisoned]
    exact Memory.read_write_other _ ha

/-- A line write keeps the memories canonical. -/
theorem State.writeLine_canonical (s : State) (rank row column : Nat) (c : Content) (hm : s.MemoriesCanonical) :
    (s.writeLine rank row column c).MemoriesCanonical := by
  obtain ⟨hw, hp⟩ := s.writeLine_kept rank row column c
  refine ⟨?_, ?_, ?_⟩
  · unfold State.writeLine
    refine State.placeSlices_wf _ _ _ _ _ ?_
    rw [State.recordContent_cells]; exact hm.1
  · rw [hw, State.recordContent_written]
    exact Memory.wf_writeBytes _ _ _ hm.2.1
  · rw [hp, State.recordContent_poisoned]
    exact Memory.wf_write _ _ hm.2.2

end Sys2Proof.Machine
end

