-- ==== Sys2Proof/Laws/Fields.lean ====
section
/-! SUPPORT. Lines made of fields: each field is read back, and every byte that no field names is zero. -/

namespace Sys2Proof.Machine

/-- Two fields of a line share no byte. -/
def FieldValue.apart (f g : FieldValue) : Bool :=
  decide (f.off + f.bytes ≤ g.off) || decide (g.off + g.bytes ≤ f.off)

/-- The fields lie within a line and share no byte: a check on their places alone. -/
def fieldsApart : List FieldValue → Bool
  | [] => true
  | f :: rest => decide (f.off + f.bytes ≤ 64) && rest.all f.apart && fieldsApart rest

/-- Fields in ascending places lie apart. -/
theorem fieldsApart_of_ascending (fs : List FieldValue) (h : fs.Pairwise (fun f g => f.off + f.bytes ≤ g.off))
    (h' : ∀ f ∈ fs, f.off + f.bytes ≤ 64) : fieldsApart fs = true := by
  induction fs with
  | nil => rfl
  | cons f rest ih =>
    rw [List.pairwise_cons] at h
    simp only [fieldsApart, Bool.and_eq_true, decide_eq_true_eq, List.all_eq_true, FieldValue.apart, Bool.or_eq_true]
    exact ⟨⟨h' f (by simp), fun x hx => Or.inl (h.1 x hx)⟩, ih h.2 fun x hx => h' x (by simp [hx])⟩

/-- A bit of a field's value stands at its place in the line, and no other bit of the line is set. -/
theorem placeField_getLsbD (f : FieldValue) (i : Nat) :
    (placeField f).getLsbD i =
      (decide (i < 512) && decide (8 * f.off ≤ i) && decide (i < 8 * f.off + 8 * f.bytes) &&
        f.value.testBit (i - 8 * f.off)) := by
  unfold placeField
  rw [BitVec.getLsbD_shiftLeft, BitVec.getLsbD_ofNat, Nat.testBit_mod_two_pow]
  by_cases h1 : i < 512
  · by_cases h2 : i < 8 * f.off
    · simp [h1, h2, Nat.not_le.2 h2]
    · have h3 : 8 * f.off ≤ i := by omega
      have h4 : i - 8 * f.off < 512 := by omega
      have h5 : (i - 8 * f.off < 8 * f.bytes) = (i < 8 * f.off + 8 * f.bytes) := by
        apply propext; omega
      simp [h1, h2, h3, h4, h5]
  · simp [h1]

/-- A bit of a line of fields is set when it is in one of them. -/
theorem lineOfFields_getLsbD (fs : List FieldValue) (i : Nat) :
    (lineOfFields fs).getLsbD i = fs.any fun f => (placeField f).getLsbD i := by
  have go : ∀ (fs : List FieldValue) (l : Line),
      (fs.foldl (fun l f => l ||| placeField f) l).getLsbD i = (l.getLsbD i || fs.any fun f => (placeField f).getLsbD i) := by
    intro fs
    induction fs with
    | nil => simp
    | cons f fs ih => intro l; rw [List.foldl_cons, ih, BitVec.getLsbD_or, List.any_cons, Bool.or_assoc]
  unfold lineOfFields
  rw [go]
  simp

/-- Two values of so many bytes are one when their bits are. -/
theorem lineField_eq_of_bits (l : Line) (off n v : Nat)
    (h : ∀ i, i < 8 * n → l.getLsbD (8 * off + i) = v.testBit i) : lineField l off n = v % 2 ^ (8 * n) := by
  apply Nat.eq_of_testBit_eq
  intro i
  unfold lineField
  rw [Nat.testBit_mod_two_pow, Nat.testBit_mod_two_pow]
  by_cases hi : i < 8 * n
  · simp only [hi, decide_true, Bool.true_and]
    rw [← h i hi, BitVec.toNat_ushiftRight, Nat.testBit_shiftRight]
    rfl
  · simp [hi]

/-- The fields of a list that lie apart are read back, and every byte that none of them names is zero. -/
theorem holdsFields_lineOfFields (fs : List FieldValue) (h : fieldsApart fs = true) :
    HoldsFields (lineOfFields fs) fs := by
  have within : ∀ (fs : List FieldValue), fieldsApart fs = true → ∀ f ∈ fs, f.off + f.bytes ≤ 64 := by
    intro fs
    induction fs with
    | nil => simp
    | cons g fs ih =>
      intro h f hf
      simp only [fieldsApart, Bool.and_eq_true, decide_eq_true_eq] at h
      rcases List.mem_cons.1 hf with rfl | hf
      · exact h.1.1
      · exact ih h.2 f hf
  have one : ∀ (fs : List FieldValue), fieldsApart fs = true → ∀ f ∈ fs, ∀ i, i < 8 * f.bytes →
      (fs.any fun g => (placeField g).getLsbD (8 * f.off + i)) = f.value.testBit i := by
    intro fs
    induction fs with
    | nil => simp
    | cons g fs ih =>
      intro h f hf i hi
      have hw := within _ h f hf
      simp only [fieldsApart, Bool.and_eq_true, decide_eq_true_eq, List.all_eq_true, FieldValue.apart, Bool.or_eq_true] at h
      rw [List.any_cons]
      rcases List.mem_cons.1 hf with rfl | hf
      · have hrest : (fs.any fun g => (placeField g).getLsbD (8 * f.off + i)) = false := by
          rw [List.any_eq_false]
          intro x hx
          have := h.1.2 x hx
          rw [placeField_getLsbD]
          rcases this with this | this
          · have : ¬ 8 * x.off ≤ 8 * f.off + i := by omega
            simp [this]
          · have : ¬ 8 * f.off + i < 8 * x.off + 8 * x.bytes := by omega
            simp [this]
        rw [hrest, placeField_getLsbD]
        have h1 : 8 * f.off + i < 512 := by omega
        have h2 : 8 * f.off + i < 8 * f.off + 8 * f.bytes := by omega
        simp [h1, h2]
      · have hg : (placeField g).getLsbD (8 * f.off + i) = false := by
          have := h.1.2 f hf
          rw [placeField_getLsbD]
          rcases this with this | this
          · have : ¬ 8 * f.off + i < 8 * g.off + 8 * g.bytes := by omega
            simp [this]
          · have : ¬ 8 * g.off ≤ 8 * f.off + i := by omega
            simp [this]
        rw [hg, Bool.false_or]
        exact ih h.2 f hf i hi
  refine ⟨fun f hf => lineField_eq_of_bits _ _ _ _ fun i hi => ?_, fun i hi hn => ?_⟩
  · rw [lineOfFields_getLsbD]; exact one fs h f hf i hi
  · have : lineField (lineOfFields fs) i 1 = 0 % 2 ^ (8 * 1) := by
      refine lineField_eq_of_bits _ _ _ _ fun k hk => ?_
      rw [lineOfFields_getLsbD, Nat.zero_testBit, List.any_eq_false]
      intro f hf
      rw [placeField_getLsbD]
      rcases hn f hf with h | h
      · have : ¬ 8 * f.off ≤ 8 * i + k := by omega
        simp [this]
      · have : ¬ 8 * i + k < 8 * f.off + 8 * f.bytes := by omega
        simp [this]
    simpa using this

/-- A field joined to a line of fields. -/
theorem lineOfFields_append (fs gs : List FieldValue) :
    lineOfFields (fs ++ gs) = lineOfFields fs ||| lineOfFields gs := by
  apply BitVec.eq_of_getLsbD_eq
  intro i _
  rw [BitVec.getLsbD_or, lineOfFields_getLsbD, lineOfFields_getLsbD, lineOfFields_getLsbD, List.any_append]

/-- Kept bytes are a field of their own. -/
theorem keepBytes_eq (l : Line) (off n : Nat) : keepBytes l off n = lineOfFields [⟨off, n, lineField l off n⟩] := by
  simp [keepBytes, lineOfFields]

end Sys2Proof.Machine
end

