-- ==== Sys2Proof/Laws/Journal.lean ====
section
/-! SUPPORT. What raising a cause, publishing a record and staging a record do. -/

namespace Sys2Proof.Machine

/-- Raising a cause adds it to the pending set; only the waiting blocks may change besides. -/
theorem State.raiseCause_eq (s : State) (c : Cause) :
    ∃ w, s.raiseCause c =
      { s with journal := { s.journal with causes := s.journal.causes.add c }, waiters := w } := by
  unfold State.raiseCause State.setCauses
  split
  · next h => exact ⟨s.waiters, by rw [h]⟩
  · obtain ⟨w, e⟩ := State.askStatus_frame { s with journal := { s.journal with causes := s.journal.causes.add c } }
    exact ⟨w, e⟩

/-- A publication counted against the coalesce count. -/
theorem State.checkCoalesce_eq (s : State) :
    ∃ w cs co ho, s.checkCoalesce =
        { s with waiters := w, journal := { s.journal with causes := cs, coalesce := co, holdoff := ho } } ∧
      (s.journal.coalesce < s.policy.coalesceCount →
        cs = s.journal.causes ∧ co = s.journal.coalesce ∧ ho = s.journal.holdoff) ∧
      (s.policy.coalesceCount ≤ s.journal.coalesce → cs.journal = true ∧ co = 0 ∧ ho = none) := by
  unfold State.checkCoalesce State.raiseJournal
  split
  · next h =>
    obtain ⟨w, e⟩ := State.raiseCause_eq { s with journal := { s.journal with coalesce := 0, holdoff := none } }
      .journal
    exact ⟨w, _, _, _, e, fun h' => by omega, fun _ => ⟨rfl, rfl, rfl⟩⟩
  · next h => exact ⟨s.waiters, s.journal.causes, _, s.journal.holdoff, rfl, fun _ => ⟨rfl, rfl, rfl⟩,
      fun h' => by omega⟩

/-- A publication takes sequence W, raises W, counts towards JOURNAL or raises it, starts the holdoff timer where it is the
first after a raise, and deals with the cause ROOM. -/
theorem State.publish_eq (s : State) (r : JournalRecord) :
    ∃ w cs co ho ra, s.publish r =
        { s with writer := s.writer ++ [.line (journalOffset s.journal.published) (journalLine r s.journal.published)],
                 waiters := w,
                 journal := { s.journal with published := s.journal.published + 1, causes := cs, coalesce := co,
                                             holdoff := ho, roomArmed := ra } } ∧
      (s.journal.coalesce + 1 < s.policy.coalesceCount → co = s.journal.coalesce + 1 ∧
        ho = if s.journal.coalesce = 0 then some (timeAfter s.time s.policy.holdoff) else s.journal.holdoff) ∧
      (s.policy.coalesceCount ≤ s.journal.coalesce + 1 → cs.journal = true ∧ co = 0 ∧ ho = none) ∧
      (s.journalFree = 33 → s.journal.roomArmed = true → cs.room = true ∧ ra = false) := by
  unfold State.publish
  simp only
  generalize hu : State.countPublication _ = u
  have e1 : u =
      { s with writer := s.writer ++ [.line (journalOffset s.journal.published) (journalLine r s.journal.published)],
               journal := { s.journal with
                 published := s.journal.published + 1, coalesce := s.journal.coalesce + 1,
                 holdoff := if s.journal.coalesce = 0 then some (timeAfter s.time s.policy.holdoff)
                   else s.journal.holdoff } } := hu.symm
  obtain ⟨w, cs, co, ho', e2, p1, p2⟩ := u.checkCoalesce_eq
  rw [e2]
  subst e1
  simp only at p1 p2 ⊢
  unfold State.checkRoomRaise
  split
  · next h =>
    obtain ⟨w', e⟩ := State.raiseCause_eq
      { s with writer := s.writer ++ [.line (journalOffset s.journal.published) (journalLine r s.journal.published)],
               waiters := w,
               journal := { s.journal with published := s.journal.published + 1, causes := cs, coalesce := co,
                                           holdoff := ho', roomArmed := false } } .room
    refine ⟨w', _, _, _, _, e, fun h => ⟨(p1 h).2.1, (p1 h).2.2⟩, fun h => ?_, fun _ _ => ⟨rfl, rfl⟩⟩
    exact p2 h
  · next h => exact ⟨w, cs, co, ho', s.journal.roomArmed, rfl, fun h => ⟨(p1 h).2.1, (p1 h).2.2⟩, p2, fun a b => absurd ⟨a, b⟩ h⟩

/-- A record that finds a place in staging joins its tail. -/
theorem State.stage_eq (s : State) (r : JournalRecord) (h : s.journal.staging.length < stagingCapacity) :
    ∃ w, s.stage r = { s with waiters := w, journal := { s.journal with staging := s.journal.staging ++ [r] } } := by
  unfold State.stage
  rw [if_pos h]
  obtain ⟨w, e⟩ := State.syncJournal_frame { s with journal := { s.journal with staging := s.journal.staging ++ [r] } }
  exact ⟨w, e⟩

end Sys2Proof.Machine
end

