-- ==== Sys2Proof/Laws/Pacer.lean ====
section
/-! SUPPORT. The length of a union of spans, as a count of instants. -/

namespace Sys2Proof.Machine

/-- Spans taken in order of their starts add the instants from `e` on that some span covers, each once. -/
theorem foldl_addSpan (l : List (Nat × Nat)) (e t : Nat) (h : l.Pairwise fun a b => a.1 ≤ b.1) :
    (l.foldl addSpan (e, t)).2 = t + Set.ncard {k | ∃ x ∈ l, max e x.1 ≤ k ∧ k < x.2} := by
  induction l generalizing e t with
  | nil => simp
  | cons x l ih =>
    obtain ⟨hx, hl⟩ := List.pairwise_cons.1 h
    have fin : ∀ e : Nat, {k | ∃ y ∈ l, max e y.1 ≤ k ∧ k < y.2}.Finite := fun e =>
      ((List.finite_toSet l).biUnion fun y _ => Set.finite_Iio y.2).subset fun k ⟨y, hy, _, hk⟩ => by
        simp only [Set.mem_iUnion]; exact ⟨y, hy, hk⟩
    have split : {k | ∃ y ∈ x :: l, max e y.1 ≤ k ∧ k < y.2} =
        Set.Ico (max e x.1) x.2 ∪ {k | ∃ y ∈ l, max (max e x.2) y.1 ≤ k ∧ k < y.2} := by
      ext k
      simp only [Set.mem_ofPred_eq, List.exists_mem_cons_iff, Set.mem_union, Set.mem_Ico]
      constructor
      · rintro (hk | ⟨y, hy, hk, hk'⟩)
        · exact .inl hk
        · by_cases hlt : k < x.2
          · have := hx y hy
            exact .inl ⟨by omega, hlt⟩
          · exact .inr ⟨y, hy, by omega, hk'⟩
      · rintro (hk | ⟨y, hy, hk, hk'⟩)
        · exact .inl hk
        · exact .inr ⟨y, hy, by omega, hk'⟩
    rw [List.foldl_cons, split, Set.ncard_union_eq ?_ (Set.finite_Ico ..) (fin _)]
    · show (l.foldl addSpan (max e x.2, t + (x.2 - max e x.1))).2 = _
      have card : (Set.Ico (max e x.1) x.2).ncard = x.2 - max e x.1 := by
        rw [Set.ncard_eq_toFinset_card', Set.toFinset_Ico, Nat.card_Ico]
      rw [ih _ _ hl, card]
      omega
    · rw [Set.disjoint_left]
      rintro k ⟨_, h1⟩ ⟨y, _, h2, _⟩
      omega

/-- The length of a union of spans is the number of instants that some span covers (R90). -/
theorem unionLength_eq (l : List (Nat × Nat)) :
    unionLength l = Set.ncard {k | ∃ x ∈ l, x.1 ≤ k ∧ k < x.2} := by
  unfold unionLength
  rw [foldl_addSpan]
  · simp [List.mem_insertionSort]
  · exact List.pairwise_insertionSort (fun a b : Nat × Nat => a.1 ≤ b.1) l

end Sys2Proof.Machine
end

