-- ==== Sys2Proof/Laws/PerInstr.lean ====
section
/-! SUPPORT. What well-formedness says of every command: each rank port it names is one of the four, each window record
one of the 32, and the errors of a read are sound. -/

namespace Sys2Proof.Laws.WellFormed

/-- The rank port a command names, if its operands name one. -/
def portNamed : Instr → Option Nat
  | .arrayInitLineWrite p | .serverReadGrant p _ | .serverReadDecodeEnd p | .writeBackGrant p | .fullLineWriteGrant p
  | .mergeReadGrant p _ | .mergeDecodeEnd p | .maskedWriteHalfGrant p | .maskedWriteEntryGrant p => some p
  | _ => none

/-- The window record a command names, if its operand names one. -/
def recordNamed : Instr → Option Nat
  | .windowStart r | .windowEnd r => some r
  | _ => none

/-- The errors a read grant brings, for the commands that carry some. -/
def errorsCarried : Instr → List SliceError
  | .serverReadGrant _ e | .mergeReadGrant _ e | .ownReadGrant e | .patrolReadGrant e | .scrubVisitReadGrant e
  | .probeReadGrant e | .copyReadGrant e | .rebuildReadGrant e => e
  | _ => []

/-- A command is well formed exactly when what its operands name exists. -/
def Statement (i : Instr) : Prop :=
  i.wellFormed = true ↔
    (∀ p, portNamed i = some p → p < 4) ∧ (∀ r, recordNamed i = some r → r < 32) ∧
      errorsSound (errorsCarried i) = true

/-- A command that names no port, no record and no errors. -/
theorem of_plain {i : Instr} (hw : i.wellFormed = true) (hp : portNamed i = none) (hr : recordNamed i = none)
    (he : errorsCarried i = []) : Statement i := by
  refine ⟨fun _ => ⟨?_, ?_, ?_⟩, fun _ => hw⟩
  · intro p h
    rw [hp] at h
    cases h
  · intro r h
    rw [hr] at h
    cases h
  · rw [he]
    decide

/-- A command that names a port and no errors. -/
theorem of_port {i : Instr} {p : Nat} (hw : i.wellFormed = portExists p) (hp : portNamed i = some p)
    (hr : recordNamed i = none) (he : errorsCarried i = []) : Statement i := by
  refine ⟨fun h => ⟨?_, ?_, ?_⟩, fun h => ?_⟩
  · intro q hq
    rw [hp] at hq
    rw [← Option.some.inj hq]
    rw [hw] at h
    exact of_decide_eq_true h
  · intro r h
    rw [hr] at h
    cases h
  · rw [he]
    decide
  · rw [hw]
    exact decide_eq_true (h.1 p hp)

/-- A command that names a window record. -/
theorem of_record {i : Instr} {r : Nat} (hw : i.wellFormed = recordExists r) (hp : portNamed i = none)
    (hr : recordNamed i = some r) (he : errorsCarried i = []) : Statement i := by
  refine ⟨fun h => ⟨?_, ?_, ?_⟩, fun h => ?_⟩
  · intro p h
    rw [hp] at h
    cases h
  · intro q hq
    rw [hr] at hq
    rw [← Option.some.inj hq]
    rw [hw] at h
    exact of_decide_eq_true h
  · rw [he]
    decide
  · rw [hw]
    exact decide_eq_true (h.2.1 r hr)

/-- A command that carries errors and names no port. -/
theorem of_errors {i : Instr} (hw : i.wellFormed = errorsSound (errorsCarried i)) (hp : portNamed i = none)
    (hr : recordNamed i = none) : Statement i := by
  refine ⟨fun h => ⟨?_, ?_, hw ▸ h⟩, fun h => hw ▸ h.2.2⟩
  · intro p h
    rw [hp] at h
    cases h
  · intro r h
    rw [hr] at h
    cases h

/-- A command that names a port and carries errors. -/
theorem of_portErrors {i : Instr} {p : Nat} (hw : i.wellFormed = (portExists p && errorsSound (errorsCarried i)))
    (hp : portNamed i = some p) (hr : recordNamed i = none) : Statement i := by
  rw [Statement, hw, hp, hr, Bool.and_eq_true, portExists, decide_eq_true_eq]
  exact ⟨fun h => ⟨fun q hq => Option.some.inj hq ▸ h.1, fun _ h => (nomatch h), h.2⟩, fun h => ⟨h.1 p rfl, h.2.2⟩⟩

theorem powerOnReset (rankStraps : BitVec 2) (baseStraps : BitVec 13) : Statement (.powerOnReset rankStraps baseStraps) :=
  of_plain rfl rfl rfl rfl

theorem arrayInitLineWrite (rank : Nat) : Statement (.arrayInitLineWrite rank) := of_port rfl rfl rfl rfl

theorem arrayInitDone : Statement .arrayInitDone := of_plain rfl rfl rfl rfl

theorem warmReset : Statement .warmReset := of_plain rfl rfl rfl rfl

theorem restartSlotScanRead : Statement .restartSlotScanRead := of_plain rfl rfl rfl rfl

theorem restartWindowReread : Statement .restartWindowReread := of_plain rfl rfl rfl rfl

theorem restartMarkRead : Statement .restartMarkRead := of_plain rfl rfl rfl rfl

theorem restartEnd : Statement .restartEnd := of_plain rfl rfl rfl rfl

theorem accessAboveLTotal (kind : AccessKind) (address : Nat) : Statement (.accessAboveLTotal kind address) :=
  of_plain rfl rfl rfl rfl

theorem accessNotReady (kind : AccessKind) (address : Nat) : Statement (.accessNotReady kind address) :=
  of_plain rfl rfl rfl rfl

theorem serverReadPresent (address : Nat) : Statement (.serverReadPresent address) := of_plain rfl rfl rfl rfl

theorem serverReadGrant (port : Nat) (errors : List SliceError) : Statement (.serverReadGrant port errors) :=
  of_portErrors rfl rfl rfl

theorem serverReadDecodeEnd (port : Nat) : Statement (.serverReadDecodeEnd port) := of_port rfl rfl rfl rfl

theorem writeBackGrant (port : Nat) : Statement (.writeBackGrant port) := of_port rfl rfl rfl rfl

theorem fullLineWritePresent (address : Nat) (data : Line) : Statement (.fullLineWritePresent address data) :=
  of_plain rfl rfl rfl rfl

theorem fullLineWriteGrant (port : Nat) : Statement (.fullLineWriteGrant port) := of_port rfl rfl rfl rfl

theorem maskedWritePresent (address : Nat) (data : Line) (mask : ByteMask) : Statement (.maskedWritePresent address data mask) :=
  of_plain rfl rfl rfl rfl

theorem mergeReadGrant (port : Nat) (errors : List SliceError) : Statement (.mergeReadGrant port errors) :=
  of_portErrors rfl rfl rfl

theorem mergeDecodeEnd (port : Nat) : Statement (.mergeDecodeEnd port) := of_port rfl rfl rfl rfl

theorem maskedWriteHalfGrant (port : Nat) : Statement (.maskedWriteHalfGrant port) := of_port rfl rfl rfl rfl

theorem maskedWriteEntryGrant (port : Nat) : Statement (.maskedWriteEntryGrant port) := of_port rfl rfl rfl rfl

theorem slotPost : Statement .slotPost := of_plain rfl rfl rfl rfl

theorem slotFree : Statement .slotFree := of_plain rfl rfl rfl rfl

theorem windowArm : Statement .windowArm := of_plain rfl rfl rfl rfl

theorem windowCancel : Statement .windowCancel := of_plain rfl rfl rfl rfl

theorem windowEmpty : Statement .windowEmpty := of_plain rfl rfl rfl rfl

theorem windowStateNotActedOn : Statement .windowStateNotActedOn := of_plain rfl rfl rfl rfl

theorem readMarkWrite : Statement .readMarkWrite := of_plain rfl rfl rfl rfl

theorem causeAcknowledge : Statement .causeAcknowledge := of_plain rfl rfl rfl rfl

theorem otherWindowWrite : Statement .otherWindowWrite := of_plain rfl rfl rfl rfl

theorem windowStart (record : Nat) : Statement (.windowStart record) := of_record rfl rfl rfl rfl

theorem windowEnd (record : Nat) : Statement (.windowEnd record) := of_record rfl rfl rfl rfl

theorem cwWriterGrant : Statement .cwWriterGrant := of_plain rfl rfl rfl rfl

theorem cwWriterAdmission : Statement .cwWriterAdmission := of_plain rfl rfl rfl rfl

theorem ownReadGrant (errors : List SliceError) : Statement (.ownReadGrant errors) := of_errors rfl rfl rfl

theorem ownReadDecodeEnd : Statement .ownReadDecodeEnd := of_plain rfl rfl rfl rfl

theorem takeStart : Statement .takeStart := of_plain rfl rfl rfl rfl

theorem takeUnusableLine : Statement .takeUnusableLine := of_plain rfl rfl rfl rfl

theorem takeNotPosted : Statement .takeNotPosted := of_plain rfl rfl rfl rfl

theorem takeUnknownKind : Statement .takeUnknownKind := of_plain rfl rfl rfl rfl

theorem takeLackOfRoom : Statement .takeLackOfRoom := of_plain rfl rfl rfl rfl

theorem scrubRange : Statement .scrubRange := of_plain rfl rfl rfl rfl

theorem probeLine : Statement .probeLine := of_plain rfl rfl rfl rfl

theorem retireRowMigrate : Statement .retireRowMigrate := of_plain rfl rfl rfl rfl

theorem retireRowRestore : Statement .retireRowRestore := of_plain rfl rfl rfl rfl

theorem markDeviceRebuild : Statement .markDeviceRebuild := of_plain rfl rfl rfl rfl

theorem markDeviceEraseOnly : Statement .markDeviceEraseOnly := of_plain rfl rfl rfl rfl

theorem markDeviceRestore : Statement .markDeviceRestore := of_plain rfl rfl rfl rfl

theorem setPolicy : Statement .setPolicy := of_plain rfl rfl rfl rfl

theorem quiesce : Statement .quiesce := of_plain rfl rfl rfl rfl

theorem resume : Statement .resume := of_plain rfl rfl rfl rfl

theorem exportTables : Statement .exportTables := of_plain rfl rfl rfl rfl

theorem exportLineEntry : Statement .exportLineEntry := of_plain rfl rfl rfl rfl

theorem decayTick : Statement .decayTick := of_plain rfl rfl rfl rfl

theorem paceIntervalStart : Statement .paceIntervalStart := of_plain rfl rfl rfl rfl

theorem periodicPaceReview : Statement .periodicPaceReview := of_plain rfl rfl rfl rfl

theorem passLate : Statement .passLate := of_plain rfl rfl rfl rfl

theorem patrolReadGrant (errors : List SliceError) : Statement (.patrolReadGrant errors) := of_errors rfl rfl rfl

theorem patrolDecodeEnd : Statement .patrolDecodeEnd := of_plain rfl rfl rfl rfl

theorem patrolWriteGrant : Statement .patrolWriteGrant := of_plain rfl rfl rfl rfl

theorem scrubVisitReadGrant (errors : List SliceError) : Statement (.scrubVisitReadGrant errors) :=
  of_errors rfl rfl rfl

theorem scrubVisitDecodeEnd : Statement .scrubVisitDecodeEnd := of_plain rfl rfl rfl rfl

theorem scrubVisitWriteGrant : Statement .scrubVisitWriteGrant := of_plain rfl rfl rfl rfl

theorem probeReadGrant (errors : List SliceError) : Statement (.probeReadGrant errors) := of_errors rfl rfl rfl

theorem probeDecodeEnd : Statement .probeDecodeEnd := of_plain rfl rfl rfl rfl

theorem copyReadGrant (errors : List SliceError) : Statement (.copyReadGrant errors) := of_errors rfl rfl rfl

theorem copyDecodeEnd : Statement .copyDecodeEnd := of_plain rfl rfl rfl rfl

theorem copyWriteGrant : Statement .copyWriteGrant := of_plain rfl rfl rfl rfl

theorem rebuildReadGrant (errors : List SliceError) : Statement (.rebuildReadGrant errors) := of_errors rfl rfl rfl

theorem rebuildDecodeEnd : Statement .rebuildDecodeEnd := of_plain rfl rfl rfl rfl

theorem rebuildWriteGrant : Statement .rebuildWriteGrant := of_plain rfl rfl rfl rfl

theorem stagingDeparture : Statement .stagingDeparture := of_plain rfl rfl rfl rfl

theorem holdoffExpiry : Statement .holdoffExpiry := of_plain rfl rfl rfl rfl

theorem statusTimerExpiry : Statement .statusTimerExpiry := of_plain rfl rfl rfl rfl

theorem statusWrite : Statement .statusWrite := of_plain rfl rfl rfl rfl

end Sys2Proof.Laws.WellFormed
end

