-- ==== Sys2Proof/Laws/Retirement.lean ====
section
/-! SUPPORT. The remap table and the migration queue: what starting, admitting, completing and restoring a retirement do
to their soundness. -/

namespace Sys2Proof.Machine

/-! ## Spare rows -/

/-- The first index below a bound at which a condition holds. -/
theorem firstBelow_eq_some {n : Nat} {p : Nat → Bool} {i : Nat} :
    firstBelow n p = some i ↔ i < n ∧ p i = true ∧ ∀ j, j < i → p j = false := by
  unfold firstBelow
  rw [List.find?_range_eq_some]
  simp only [List.mem_range, Bool.not_eq_true']
  tauto

theorem State.spareState_set (s : State) (rank index r i : Nat) (x : SpareState) (hr : rank < 4) (hi : index < 128) :
    (s.setSpareState rank index x).spareState r i = if r = rank ∧ i = index then x else s.spareState r i := by
  unfold State.spareState State.setSpareState
  by_cases h : r = rank
  · subst h
    show nth (nth (put s.spares r _) r _) i _ = _
    rw [nth_put_same _ _ _ _ hr]
    by_cases h' : i = index
    · subst h'; rw [nth_put_same _ _ _ _ hi]; simp
    · rw [nth_put_other _ _ _ _ _ h']; simp [h']
  · show nth (nth (put s.spares rank _) r _) i _ = _
    rw [nth_put_other _ _ _ _ _ h]; simp [h]

/-- Only spare rows 0 to 127 of ranks 0 to 3 are FREE. -/
theorem State.free_in_range (s : State) {rank i : Nat} (h : s.spareState rank i = .free) : rank < 4 ∧ i < 128 := by
  unfold State.spareState at h
  constructor
  · by_contra hr
    have e : s.spares[rank]? = none := by simp; omega
    simp only [nth, e, Option.getD_none, Vector.getElem?_replicate] at h
    split at h <;> simp at h
  · by_contra hi
    have e : ∀ v : Vector SpareState 128, v[i]? = none := by intro v; simp; omega
    unfold nth at h
    rw [e] at h; simp at h

theorem State.lowestFree_some {s : State} {rank i : Nat} (h : s.lowestFree rank = some i) :
    rank < 4 ∧ i < 128 ∧ s.spareState rank i = .free := by
  have := (firstBelow_eq_some.1 h).2.1
  have := of_decide_eq_true this
  exact ⟨(s.free_in_range this).1, (s.free_in_range this).2, this⟩

/-- A rank with a FREE spare row has one of lowest index. -/
theorem State.lowestFree_isSome {s : State} {rank : Nat} (h : 0 < s.freeSpares rank) : ∃ i, s.lowestFree rank = some i := by
  obtain ⟨i, hi, hp⟩ := List.countP_pos_iff.1 h
  rcases hl : s.lowestFree rank with _ | j
  · have := List.find?_eq_none.1 hl i hi
    exact absurd hp this
  · exact ⟨j, rfl⟩

/-- A FREE spare row taken into use leaves its rank one FREE row fewer, and every other rank as many. -/
theorem State.freeSpares_use (s : State) (rank i : Nat) (h : s.spareState rank i = .free) :
    (s.setSpareState rank i .inUse).freeSpares rank + 1 = s.freeSpares rank ∧
      ∀ r, r ≠ rank → (s.setSpareState rank i .inUse).freeSpares r = s.freeSpares r := by
  obtain ⟨hr, hi⟩ := s.free_in_range h
  have card : ∀ p : Nat → Bool, countBelow 128 p = ((Finset.range 128).filter fun j => p j = true).card := by
    intro p
    rw [← List.toFinset_range, ← List.toFinset_filter, List.toFinset_card_of_nodup (List.nodup_range.filter _),
      ← List.countP_eq_length_filter]
    rfl
  constructor
  · unfold State.freeSpares
    rw [card, card, ← Finset.card_erase_add_one (a := i) (s := (Finset.range 128).filter fun j =>
      decide (s.spareState rank j = .free) = true) (by simp [hi, h])]
    congr 2
    ext j
    simp only [Finset.mem_filter, Finset.mem_range, Finset.mem_erase, State.spareState_set _ _ _ _ _ _ hr hi,
      decide_eq_true_eq, true_and]
    by_cases hj : j = i <;> simp [hj]
  · intro r hne
    unfold State.freeSpares countBelow
    congr 1; funext j
    rw [State.spareState_set _ _ _ _ _ _ hr hi]; simp [hne]

/-- Giving up a spare row that is not FREE leaves every rank's FREE rows. -/
theorem State.freeSpares_discard (s : State) (rank i r : Nat) (hr : rank < 4) (hi : i < 128)
    (h : s.spareState rank i ≠ .free) : (s.setSpareState rank i .discarded).freeSpares r = s.freeSpares r := by
  unfold State.freeSpares countBelow
  congr 1; funext j
  rw [State.spareState_set _ _ _ _ _ _ hr hi]
  by_cases hj : r = rank ∧ j = i
  · rw [if_pos hj, hj.1, hj.2]; simp [h]
  · rw [if_neg hj]

/-! ## Remap entries, as a list with the spare rows' states and the row that migrates -/

/-- What RemapsSound says, of a list of entries, a state for each spare row, and the row that migrates. -/
def RemapList (l : List RemapEntry) (st : Nat → Nat → SpareState) (moving : Option (Nat × Nat)) : Prop :=
  (l.map fun e => (e.rank, e.row)).Nodup ∧ (l.flatMap RemapEntry.sparesHeld).Nodup ∧
    (∀ r i, st r i = .inUse ↔ (r, i) ∈ l.flatMap RemapEntry.sparesHeld) ∧
    (∀ e ∈ l, e.rank < 4 ∧ e.row < 262144 ∧ e.spare < 128 ∧ (e.state = .active → e.cursor = 128 ∧ e.earlier = none) ∧
      (e.state = .migrating → e.cursor < 128 ∧ moving = some (e.rank, e.row))) ∧
    ∀ m, moving = some m → ∃ e ∈ l, (e.rank, e.row) = m ∧ e.state = .migrating

theorem State.remapsSound_iff (s : State) :
    s.RemapsSound ↔ RemapList s.remaps s.spareState (s.migration.map fun m => (m.rank, m.row)) := by
  unfold State.RemapsSound RemapList
  cases s.migration <;> simp [Prod.ext_iff, and_assoc]

theorem RemapList.perm {l l' : List RemapEntry} {st : Nat → Nat → SpareState} {moving : Option (Nat × Nat)}
    (h : RemapList l st moving) (p : l.Perm l') : RemapList l' st moving := by
  obtain ⟨h1, h2, h3, h4, h5⟩ := h
  refine ⟨(p.map _).nodup_iff.1 h1, (p.flatMap_right _).nodup_iff.1 h2, fun r i => ?_, fun e he => h4 e (p.mem_iff.2 he),
    fun m hm => ?_⟩
  · rw [h3, (p.flatMap_right _).mem_iff]
  · obtain ⟨e, he, h⟩ := h5 m hm
    exact ⟨e, p.mem_iff.1 he, h⟩

/-- A host row that was never retired gets an entry on a FREE spare row, ACTIVE or MIGRATING. -/
theorem RemapList.add {l : List RemapEntry} {st st' : Nat → Nat → SpareState} {moving moving' : Option (Nat × Nat)}
    {e : RemapEntry} (h : RemapList l st moving) (hnew : ∀ x ∈ l, (x.rank, x.row) ≠ (e.rank, e.row))
    (hfree : st e.rank e.spare = .free) (hr : e.rank < 4) (hw : e.row < 262144) (hi : e.spare < 128)
    (hst : ∀ r j, st' r j = if r = e.rank ∧ j = e.spare then .inUse else st r j) (hearlier : e.earlier = none)
    (hactive : e.state = .active → e.cursor = 128 ∧ moving' = moving)
    (hmoving : e.state = .migrating → e.cursor < 128 ∧ moving = none ∧ moving' = some (e.rank, e.row)) :
    RemapList (l ++ [e]) st' moving' := by
  obtain ⟨h1, h2, h3, h4, h5⟩ := h
  refine RemapList.perm ?_ (List.perm_append_singleton e l).symm
  have hout : (e.rank, e.spare) ∉ l.flatMap RemapEntry.sparesHeld := fun hm => by
    rw [← h3, hfree] at hm; cases hm
  have hheld : e.sparesHeld = [(e.rank, e.spare)] := by unfold RemapEntry.sparesHeld; rw [hearlier]; rfl
  refine ⟨?_, ?_, fun r j => ?_, fun x hx => ?_, fun m hm => ?_⟩
  · rw [List.map_cons, List.nodup_cons]
    refine ⟨fun hm => ?_, h1⟩
    obtain ⟨x, hx, hxe⟩ := List.mem_map.1 hm
    exact hnew x hx hxe
  · rw [List.flatMap_cons, hheld, List.singleton_append, List.nodup_cons]
    exact ⟨hout, h2⟩
  · rw [List.flatMap_cons, hheld, List.singleton_append, List.mem_cons, Prod.mk.injEq, hst, ← h3]
    split
    · next hj => simp [hj]
    · next hj => simp [hj]
  · have hmv : ∀ x ∈ l, x.state = .migrating → moving' = moving := fun x hx hs => by
      cases he : e.state
      · have := (h4 x hx).2.2.2.2 hs
        rw [(hmoving he).2.1] at this
        cases this.2
      · exact (hactive he).2
    rcases List.mem_cons.1 hx with rfl | hx
    · exact ⟨hr, hw, hi, fun hs => ⟨(hactive hs).1, hearlier⟩, fun hs => ⟨(hmoving hs).1, (hmoving hs).2.2⟩⟩
    · obtain ⟨a, b, c, d, g⟩ := h4 x hx
      exact ⟨a, b, c, d, fun hs => ⟨(g hs).1, by rw [hmv x hx hs]; exact (g hs).2⟩⟩
  · cases he : e.state
    · rw [(hmoving he).2.2] at hm
      exact ⟨e, List.mem_cons_self, Option.some.inj hm, he⟩
    · rw [(hactive he).2] at hm
      obtain ⟨x, hx, hxm⟩ := h5 m hm
      exact ⟨x, List.mem_cons_of_mem _ hx, hxm⟩

/-- With nothing migrating, an entry's row starts to migrate again, onto a FREE spare row. -/
theorem RemapList.again {l : List RemapEntry} {st st' : Nat → Nat → SpareState} {e : RemapEntry} {i : Nat}
    {origin : Origin} (h : RemapList (e :: l) st none) (hfree : st e.rank i = .free) (hi : i < 128)
    (hst : ∀ r j, st' r j = if r = e.rank ∧ j = i then .inUse else st r j) :
    RemapList ({ e with spare := i, earlier := some e.spare, state := .migrating, cursor := 0, origin := origin } :: l)
      st' (some (e.rank, e.row)) := by
  obtain ⟨h1, h2, h3, h4, h5⟩ := h
  have hact : ∀ x ∈ e :: l, x.state = .active := fun x hx => by
    cases hs : x.state
    · have := (h4 x hx).2.2.2.2 hs; cases this.2
    · rfl
  have hnone : e.earlier = none := ((h4 e List.mem_cons_self).2.2.2.1 (hact e List.mem_cons_self)).2
  have hheld : e.sparesHeld = [(e.rank, e.spare)] := by unfold RemapEntry.sparesHeld; rw [hnone]; rfl
  have hout : (e.rank, i) ∉ (e :: l).flatMap RemapEntry.sparesHeld := fun hm => by
    rw [← h3, hfree] at hm; cases hm
  rw [List.flatMap_cons, hheld, List.singleton_append] at h2 h3 hout
  refine ⟨h1, ?_, fun r j => ?_, fun x hx => ?_, fun m hm => ?_⟩
  · exact List.nodup_cons.2 ⟨hout, h2⟩
  · show st' r j = _ ↔ (r, j) ∈ (e.rank, i) :: (e.rank, e.spare) :: l.flatMap RemapEntry.sparesHeld
    rw [List.mem_cons, Prod.mk.injEq, hst, ← h3]
    split
    · next hj => simp [hj]
    · next hj => simp [hj]
  · rcases List.mem_cons.1 hx with rfl | hx
    · obtain ⟨a, b, c, -⟩ := h4 e List.mem_cons_self
      exact ⟨a, b, hi, fun hs => (nomatch hs), fun _ => ⟨Nat.succ_pos _, rfl⟩⟩
    · obtain ⟨a, b, c, d, -⟩ := h4 x (List.mem_cons_of_mem _ hx)
      exact ⟨a, b, c, d, fun hs => by rw [hact x (List.mem_cons_of_mem _ hx)] at hs; cases hs⟩
  · exact ⟨_, List.mem_cons_self, Option.some.inj hm, rfl⟩

/-- A change of an entry that keeps its row, spare rows, state and the bound of its cursor. -/
theorem RemapList.advance {l : List RemapEntry} {st : Nat → Nat → SpareState} {moving : Option (Nat × Nat)}
    {e : RemapEntry} {k : Nat} (h : RemapList (e :: l) st moving) (hs : e.state = .migrating) (hk : k < 128) :
    RemapList ({ e with cursor := k } :: l) st moving := by
  obtain ⟨h1, h2, h3, h4, h5⟩ := h
  refine ⟨h1, h2, h3, fun x hx => ?_, fun m hm => ?_⟩
  · rcases List.mem_cons.1 hx with rfl | hx
    · obtain ⟨a, b, c, d, g⟩ := h4 e List.mem_cons_self
      refine ⟨a, b, c, fun h => ?_, fun h => ⟨hk, (g h).2⟩⟩
      have : e.state = .active := h
      rw [hs] at this; cases this
    · exact h4 x (List.mem_cons_of_mem _ hx)
  · obtain ⟨x, hx, hxm⟩ := h5 m hm
    rcases List.mem_cons.1 hx with rfl | hx
    · exact ⟨_, List.mem_cons_self, hxm⟩
    · exact ⟨x, List.mem_cons_of_mem _ hx, hxm⟩

/-- The migrating entry becomes ACTIVE and gives up its earlier spare row. -/
theorem RemapList.complete {l : List RemapEntry} {st st' : Nat → Nat → SpareState} {e : RemapEntry} {moving : Nat × Nat}
    (h : RemapList (e :: l) st (some moving)) (hs : e.state = .migrating)
    (hst : ∀ r j, st' r j = if r = e.rank ∧ e.earlier = some j then .discarded else st r j) :
    RemapList ({ e with state := .active, cursor := 128, earlier := none } :: l) st' none := by
  obtain ⟨h1, h2, h3, h4, h5⟩ := h
  have hm := ((h4 e List.mem_cons_self).2.2.2.2 hs).2
  rw [List.flatMap_cons] at h2 h3
  have hone : ∀ x ∈ l, x.state = .active := fun x hx => by
    cases hs' : x.state
    · have := ((h4 x (List.mem_cons_of_mem _ hx)).2.2.2.2 hs').2
      rw [hm] at this
      rw [List.map_cons, List.nodup_cons] at h1
      exact absurd (List.mem_map.2 ⟨x, hx, (Option.some.inj this).symm⟩) h1.1
    · rfl
  refine ⟨h1, ?_, fun r j => ?_, fun x hx => ?_, fun m hm => (nomatch hm)⟩
  · refine List.Nodup.sublist ?_ h2
    rw [List.flatMap_cons]
    refine List.Sublist.append ?_ (List.Sublist.refl _)
    exact List.cons_sublist_cons.2 (List.nil_sublist _)
  · show st' r j = _ ↔ (r, j) ∈ (e.rank, e.spare) :: l.flatMap RemapEntry.sparesHeld
    rw [hst]
    have h3' := h3 r j
    unfold RemapEntry.sparesHeld at h2 h3'
    rw [List.mem_append, List.mem_cons, List.mem_map] at h3'
    split
    · next hj =>
      obtain ⟨rfl, hj⟩ := hj
      rw [hj] at h2
      simp only [Option.toList_some, List.map_cons, List.map_nil, List.cons_append, List.nil_append, List.nodup_cons,
        List.mem_cons, not_or] at h2
      simp only [reduceCtorEq, List.mem_cons, false_iff, not_or]
      exact ⟨fun hx => h2.1.1 hx.symm, h2.2.1⟩
    · next hj =>
      rw [h3', List.mem_cons]
      constructor
      · rintro ((hx | ⟨i, hi, hx⟩) | hx)
        · exact .inl hx
        · rw [Prod.mk.injEq] at hx
          obtain ⟨rfl, rfl⟩ := hx
          exact absurd ⟨rfl, Option.mem_toList.1 hi⟩ hj
        · exact .inr hx
      · rintro (hx | hx)
        · exact .inl (.inl hx)
        · exact .inr hx
  · rcases List.mem_cons.1 hx with rfl | hx
    · obtain ⟨a, b, c, -⟩ := h4 e List.mem_cons_self
      exact ⟨a, b, c, fun _ => ⟨rfl, rfl⟩, fun hs => (nomatch hs)⟩
    · obtain ⟨a, b, c, d, -⟩ := h4 x (List.mem_cons_of_mem _ hx)
      exact ⟨a, b, c, d, fun hs => by rw [hone x hx] at hs; cases hs⟩

/-- With distinct host rows, a change of one row's entry changes that entry alone. -/
theorem changed_perm {l : List RemapEntry} (h : (l.map fun e => (e.rank, e.row)).Nodup) {e : RemapEntry} (he : e ∈ l)
    (f : RemapEntry → RemapEntry) :
    ∃ rest, l.Perm (e :: rest) ∧
      (l.map fun x => if x.rank = e.rank ∧ x.row = e.row then f x else x).Perm (f e :: rest) := by
  obtain ⟨a, b, rfl⟩ := List.append_of_mem he
  refine ⟨a ++ b, List.perm_middle, ?_⟩
  rw [List.map_append, List.map_cons, List.nodup_append, List.nodup_cons] at h
  obtain ⟨-, ⟨hb, -⟩, hab⟩ := h
  have ha : ∀ x ∈ a, ¬(x.rank = e.rank ∧ x.row = e.row) := fun x hx hk =>
    hab _ (List.mem_map.2 ⟨x, hx, rfl⟩) _ List.mem_cons_self (by rw [hk.1, hk.2])
  have hb' : ∀ x ∈ b, ¬(x.rank = e.rank ∧ x.row = e.row) := fun x hx hk =>
    hb (List.mem_map.2 ⟨x, hx, by rw [hk.1, hk.2]⟩)
  have same : ∀ l : List RemapEntry, (∀ x ∈ l, ¬(x.rank = e.rank ∧ x.row = e.row)) →
      l.map (fun x => if x.rank = e.rank ∧ x.row = e.row then f x else x) = l := fun l hl => by
    conv_rhs => rw [← List.map_id l]
    exact List.map_congr_left fun x hx => if_neg (hl x hx)
  rw [List.map_append, List.map_cons, same a ha, same b hb', if_pos ⟨rfl, rfl⟩]
  exact List.perm_middle

/-! ## The migration queue -/

/-- RetirementsSound but for what a start establishes: that nothing waits while no migration is in progress. -/
def State.RetirementsHeld (s : State) : Prop :=
  (s.migrationQueue.map fun q => (q.rank, q.row)).Nodup ∧
    (∀ q ∈ s.migrationQueue, q.rank < 4 ∧ q.row < 262144 ∧ s.rowMigrating q.rank q.row = false) ∧
    (∀ r, s.waitingCount r ≤ s.freeSpares r) ∧
    ∀ e ∈ s.table, e.retire = .pending ↔ s.rowQueued e.rank e.row = true ∨ s.rowMigrating e.rank e.row = true

theorem State.retirementsSound_iff (s : State) :
    s.RetirementsSound ↔ s.RetirementsHeld ∧ (s.migration = none → s.migrationQueue = []) := by
  unfold State.RetirementsSound State.RetirementsHeld
  tauto

/-- The row whose entry is MIGRATING is that of the migration in progress. -/
theorem State.rowMigrating_iff {s : State} (h : s.RemapsSound) (rank row : Nat) :
    s.rowMigrating rank row = true ↔ ∃ m, s.migration = some m ∧ m.rank = rank ∧ m.row = row := by
  obtain ⟨-, -, -, h4, h5⟩ := h
  unfold State.rowMigrating
  simp only [List.any_eq_true, decide_eq_true_eq]
  constructor
  · rintro ⟨e, he, rfl, rfl, hs⟩
    exact ((h4 e he).2.2.2.2 hs).2
  · rintro ⟨m, hm, rfl, rfl⟩
    obtain ⟨e, he, h1, h2, h3⟩ := h5 m hm
    exact ⟨e, he, h1, h2, h3⟩

theorem State.rowQueued_iff (s : State) (rank row : Nat) :
    s.rowQueued rank row = true ↔ (rank, row) ∈ s.migrationQueue.map fun q => (q.rank, q.row) := by
  unfold State.rowQueued
  simp only [List.any_eq_true, decide_eq_true_eq, List.mem_map, Prod.mk.injEq]

/-- The remap entry of the row that migrates. -/
theorem State.migratingEntry_some {s : State} (h : s.RemapsSound) {m : Migration} (hm : s.migration = some m) :
    ∃ e, s.migratingEntry = some e ∧ e ∈ s.remaps ∧ e.rank = m.rank ∧ e.row = m.row ∧ e.state = .migrating := by
  obtain ⟨h1, -, -, -, h5⟩ := h
  obtain ⟨e, he, hr, hw, hs⟩ := h5 m hm
  refine ⟨e, ?_, he, hr, hw, hs⟩
  unfold State.migratingEntry State.findRemap
  rw [hm, Option.bind_some]
  obtain ⟨x, hx⟩ := Option.isSome_iff_exists.1
    (List.find?_isSome (p := fun x : RemapEntry => decide (x.rank = m.rank ∧ x.row = m.row)).2
      ⟨e, he, decide_eq_true ⟨hr, hw⟩⟩)
  show s.remaps.find? (fun x => decide (x.rank = m.rank ∧ x.row = m.row)) = some e
  rw [hx]
  have hk := List.find?_some hx
  obtain ⟨hx1, hx2⟩ := of_decide_eq_true hk
  exact congrArg some (List.inj_on_of_nodup_map h1 (List.mem_of_find?_eq_some hx) he (by rw [hx1, hx2, hr, hw]))

/-- The start of a migration keeps the remap entries sound, and afterwards nothing waits while none is in progress. -/
theorem State.startMigration_sound {s : State} (h : s.RemapsSound) (hq : s.RetirementsHeld) :
    s.startMigration.RemapsSound ∧ s.startMigration.RetirementsSound := by
  cases hm : s.migration with
  | some m =>
    have e : s.startMigration = s := by unfold State.startMigration; rw [hm]
    rw [e, State.retirementsSound_iff]
    exact ⟨h, hq, fun h0 => by rw [hm] at h0; cases h0⟩
  | none =>
    cases hQ : s.migrationQueue with
    | nil =>
      have e : s.startMigration = s := by unfold State.startMigration; rw [hm, hQ]
      rw [e, State.retirementsSound_iff]
      exact ⟨h, hq, fun _ => hQ⟩
    | cons q rest =>
      obtain ⟨q1, q2, q3, q4⟩ := hq
      rw [hQ] at q1 q2
      have hwait : s.waitingCount q.rank = rest.countP (fun x => decide (x.rank = q.rank)) + 1 := by
        unfold State.waitingCount; rw [hQ, List.countP_cons, decide_eq_true rfl, if_pos rfl]
      obtain ⟨i, hi⟩ := s.lowestFree_isSome (rank := q.rank) (by have := q3 q.rank; omega)
      obtain ⟨hr, hi128, hfree⟩ := State.lowestFree_some hi
      have hw := (q2 q List.mem_cons_self).2.1
      have h' := s.remapsSound_iff.1 h
      rw [hm] at h'
      have hst := fun r j => s.spareState_set q.rank i r j .inUse hr hi128
      have done : ∀ t : State, t.migrationQueue = rest → t.table = s.table →
          (t.migration.map fun m => (m.rank, m.row)) = some (q.rank, q.row) →
          t.spares = (s.setSpareState q.rank i .inUse).spares →
          RemapList t.remaps (s.setSpareState q.rank i .inUse).spareState (some (q.rank, q.row)) →
          t.RemapsSound ∧ t.RetirementsSound := by
        intro t t1 t2 t3 t4 t5
        have sp : t.spareState = (s.setSpareState q.rank i .inUse).spareState := by
          funext r j; unfold State.spareState; rw [t4]
        have hs : t.RemapsSound := by rw [State.remapsSound_iff, t3, sp]; exact t5
        have hmig : ∀ r w, t.rowMigrating r w = true ↔ (r, w) = (q.rank, q.row) := by
          intro r w
          rw [State.rowMigrating_iff hs]
          cases hx : t.migration with
          | none => rw [hx] at t3; cases t3
          | some m =>
            rw [hx] at t3
            simp only [Option.map_some, Option.some.injEq, Prod.mk.injEq] at t3
            simp only [Option.some.injEq, exists_eq_left', t3, Prod.mk.injEq]
            exact ⟨fun ⟨a, b⟩ => ⟨a.symm, b.symm⟩, fun ⟨a, b⟩ => ⟨a.symm, b.symm⟩⟩
        have hold : ∀ r w, s.rowMigrating r w = false := by
          intro r w
          by_contra hc
          obtain ⟨m, hmm, -⟩ := (State.rowMigrating_iff h r w).1 (by simpa using hc)
          rw [hm] at hmm; cases hmm
        rw [List.map_cons, List.nodup_cons] at q1
        refine ⟨hs, ?_⟩
        rw [State.retirementsSound_iff]
        refine ⟨⟨by rw [t1]; exact q1.2, fun x hx => ?_, fun r => ?_, fun e he => ?_⟩, fun h0 => ?_⟩
        · rw [t1] at hx
          obtain ⟨a, b, -⟩ := q2 x (List.mem_cons_of_mem _ hx)
          refine ⟨a, b, ?_⟩
          rw [Bool.eq_false_iff, Ne, hmig]
          exact fun hc => q1.1 (hc ▸ List.mem_map.2 ⟨x, hx, rfl⟩)
        · have free : t.freeSpares r = (s.setSpareState q.rank i .inUse).freeSpares r := by
            unfold State.freeSpares; rw [sp]
          have hu := s.freeSpares_use q.rank i hfree
          have h3 := q3 r
          unfold State.waitingCount at h3 ⊢
          rw [free, t1]
          rw [hQ, List.countP_cons] at h3
          by_cases hrr : r = q.rank
          · subst hrr
            rw [decide_eq_true rfl, if_pos rfl] at h3
            omega
          · rw [hu.2 r hrr]
            omega
        · rw [t2] at he
          rw [q4 e he, hold, hmig, State.rowQueued_iff, State.rowQueued_iff, t1, hQ, List.map_cons, List.mem_cons]
          simp only [Bool.false_eq_true, or_false]
          exact or_comm
        · rw [h0] at t3; cases t3
      unfold State.startMigration
      rw [hm, hQ]
      simp only [hi]
      unfold State.startRemap
      split
      · next hf =>
        refine done _ rfl rfl rfl rfl ?_
        refine RemapList.add h' (fun x hx hk => ?_) hfree hr hw hi128 hst rfl (fun hs => nomatch hs)
          (fun _ => ⟨Nat.succ_pos _, rfl, rfl⟩)
        rw [Prod.mk.injEq] at hk
        exact absurd (decide_eq_true hk) (List.find?_eq_none.1 hf x hx)
      · next e hf =>
        have hf' : s.remaps.find? (fun e => decide (e.rank = q.rank ∧ e.row = q.row)) = some e := hf
        have hk := List.find?_some hf'
        obtain ⟨k1, k2⟩ := of_decide_eq_true hk
        obtain ⟨others, p1, p2⟩ := changed_perm h'.1 (List.mem_of_find?_eq_some hf') (fun x =>
          { x with spare := i, earlier := some e.spare, state := .migrating, cursor := 0, origin := q.origin })
        refine done _ rfl rfl rfl rfl ?_
        rw [← k1, ← k2]
        refine RemapList.perm ?_ p2.symm
        refine RemapList.again (h'.perm p1) (by rw [k1]; exact hfree) hi128 (fun r j => ?_)
        rw [k1]; exact hst r j

/-- Admitting a retirement of a row that neither waits nor migrates, with more FREE spare rows of its rank than wait,
once its fault entry is PENDING. -/
theorem State.admitRetirement_sound {s : State} (h : s.RemapsSound) (hq : s.RetirementsSound) (q : Retirement)
    (hrow : q.row < 262144) (hwait : s.waitingCount q.rank < s.freeSpares q.rank)
    (hqueued : s.rowQueued q.rank q.row = false) (hmig : s.rowMigrating q.rank q.row = false) :
    ((s.setRetire q.rank q.row .pending).admitRetirement q).RemapsSound ∧
      ((s.setRetire q.rank q.row .pending).admitRetirement q).RetirementsSound := by
  obtain ⟨i, hi⟩ := s.lowestFree_isSome (rank := q.rank) (by omega)
  obtain ⟨q1, q2, q3, q4, q5⟩ := hq
  refine State.startMigration_sound h ⟨?_, ?_, fun r => ?_, fun e he => ?_⟩
  · show ((s.migrationQueue ++ [q]).map _).Nodup
    rw [List.map_append, List.nodup_append]
    refine ⟨q1, List.nodup_singleton _, fun a ha b hb => ?_⟩
    obtain rfl := List.mem_singleton.1 hb
    rintro rfl
    rw [(State.rowQueued_iff ..).2 ha] at hqueued
    cases hqueued
  · intro x hx
    rcases List.mem_append.1 hx with hx | hx
    · exact q2 x hx
    · obtain rfl := List.mem_singleton.1 hx
      exact ⟨(State.lowestFree_some hi).1, hrow, hmig⟩
  · show (s.migrationQueue ++ [q]).countP _ ≤ s.freeSpares r
    rw [List.countP_append, List.countP_singleton]
    have := q3 r
    unfold State.waitingCount at this hwait
    by_cases hr : q.rank = r
    · subst hr; rw [decide_eq_true rfl, if_pos rfl]; omega
    · rw [decide_eq_false hr]; simpa using this
  · obtain ⟨x, hx, rfl⟩ := List.mem_map.1 he
    have hqd : ∀ r w, State.rowQueued { s.setRetire q.rank q.row .pending with
        migrationQueue := (s.setRetire q.rank q.row .pending).migrationQueue ++ [q] } r w = true ↔
        s.rowQueued r w = true ∨ (r, w) = (q.rank, q.row) := by
      intro r w
      rw [State.rowQueued_iff, State.rowQueued_iff]
      show (r, w) ∈ (s.migrationQueue ++ [q]).map _ ↔ _
      rw [List.map_append, List.mem_append]
      exact or_congr Iff.rfl List.mem_singleton
    rw [hqd]
    show _ ↔ (_ ∨ _) ∨ s.rowMigrating _ _ = true
    by_cases hk : x.keyed q.rank q.row = true
    · rw [if_pos hk]
      obtain ⟨k1, k2⟩ := of_decide_eq_true hk
      exact ⟨fun _ => .inl (.inr (by show (x.rank, x.row) = _; rw [k1, k2])), fun _ => rfl⟩
    · rw [if_neg hk, q5 x hx]
      have : ¬(x.rank, x.row) = (q.rank, q.row) := fun hc => hk (decide_eq_true (Prod.mk.injEq .. ▸ hc))
      tauto

/-! ## What leaves the retirements as they are -/

/-- `t` has the remap entries, spare rows, queue and migration of `s`, and every fault entry of `t` is one of `s` in its
key and its retire state. -/
def State.SameRetirements (s t : State) : Prop :=
  t.remaps = s.remaps ∧ t.spares = s.spares ∧ t.migrationQueue = s.migrationQueue ∧ t.migration = s.migration ∧
    ∀ e ∈ t.table, ∃ x ∈ s.table, x.rank = e.rank ∧ x.row = e.row ∧ x.retire = e.retire

theorem State.SameRetirements.trans {s t u : State} (h : s.SameRetirements t) (h' : t.SameRetirements u) :
    s.SameRetirements u := by
  obtain ⟨a, b, c, d, g⟩ := h
  obtain ⟨a', b', c', d', g'⟩ := h'
  refine ⟨a'.trans a, b'.trans b, c'.trans c, d'.trans d, fun e he => ?_⟩
  obtain ⟨x, hx, h1, h2, h3⟩ := g' e he
  obtain ⟨y, hy, k1, k2, k3⟩ := g x hx
  exact ⟨y, hy, k1.trans h1, k2.trans h2, k3.trans h3⟩

/-- A state that differs in none of the five fields. -/
theorem State.SameRetirements.of_eq {s t : State} (h1 : t.remaps = s.remaps) (h2 : t.spares = s.spares)
    (h3 : t.migrationQueue = s.migrationQueue) (h4 : t.migration = s.migration) (h5 : t.table = s.table) :
    s.SameRetirements t := ⟨h1, h2, h3, h4, fun e he => ⟨e, h5 ▸ he, rfl, rfl, rfl⟩⟩

theorem State.SameRetirements.sound {s t : State} (h : s.SameRetirements t) (hr : s.RemapsSound)
    (hq : s.RetirementsSound) : t.RemapsSound ∧ t.RetirementsSound := by
  obtain ⟨h1, h2, h3, h4, h5⟩ := h
  have sp : t.spareState = s.spareState := by funext r j; unfold State.spareState; rw [h2]
  obtain ⟨q1, q2, q3, q4, q5⟩ := hq
  refine ⟨by rw [State.remapsSound_iff, h1, sp, h4]; exact s.remapsSound_iff.1 hr, by rw [h3]; exact q1, ?_, ?_, ?_, ?_⟩
  · intro x hx
    rw [h3] at hx
    have := q2 x hx
    unfold State.rowMigrating at this ⊢
    rw [h1]; exact this
  · intro r
    have := q3 r
    unfold State.waitingCount State.freeSpares at this ⊢
    rw [h3, sp]; exact this
  · intro h0
    rw [h3]; exact q4 (h4 ▸ h0)
  · intro e he
    obtain ⟨x, hx, k1, k2, k3⟩ := h5 e he
    have := q5 x hx
    unfold State.rowQueued State.rowMigrating at this ⊢
    rw [h3, h1, ← k1, ← k2, ← k3]; exact this

theorem State.handRecord_same (s : State) (r : JournalRecord) : s.SameRetirements (s.handRecord r) := by
  obtain ⟨q, w, j, c, h⟩ := s.handRecord_frame r
  rw [h]; exact .of_eq rfl rfl rfl rfl rfl

theorem State.handPlain_same (s : State) (k : RecordKind) (host : Option Nat) (rank row : Nat) (ds : List Nat) :
    s.SameRetirements (s.handPlain k host rank row ds) := s.handRecord_same _

theorem State.removeEntry_same (s : State) (rank row : Nat) : s.SameRetirements (s.removeEntry rank row) :=
  ⟨rfl, rfl, rfl, rfl, fun e he => ⟨e, (List.mem_filter.1 he).1, rfl, rfl, rfl⟩⟩

theorem State.stripDevice_same (s : State) (rank device : Nat) : s.SameRetirements (s.stripDevice rank device) := by
  refine ⟨rfl, rfl, rfl, rfl, fun e he => ?_⟩
  obtain ⟨x, hx, rfl⟩ := List.mem_map.1 he
  refine ⟨x, (List.mem_filter.1 hx).1, ?_⟩
  split <;> exact ⟨rfl, rfl, rfl⟩

theorem State.markDevice_same (s : State) (rank device : Nat) (mode : MarkMode) (origin : Origin) :
    s.SameRetirements (s.markDevice rank device mode origin) :=
  (State.stripDevice_same (s.setRankDevices rank _) rank device).trans (State.handPlain_same ..)

theorem State.makeSuspect_same (s : State) (rank device : Nat) : s.SameRetirements (s.makeSuspect rank device) := by
  unfold State.makeSuspect
  split
  · exact .of_eq rfl rfl rfl rfl rfl
  · exact State.handPlain_same (s.setSuspects rank _) ..

theorem State.examineDevice_same (s : State) (rank device : Nat) (again : Bool) :
    s.SameRetirements (s.examineDevice rank device again) := by
  have same : s.SameRetirements s := .of_eq rfl rfl rfl rfl rfl
  unfold State.examineDevice
  repeat' split
  all_goals first | exact same | exact s.makeSuspect_same .. | exact s.markDevice_same ..

theorem State.examineDevices_same (s : State) (rank : Nat) (which : Nat → Bool) (again : Bool) :
    s.SameRetirements (s.examineDevices rank which again) := by
  unfold State.examineDevices
  generalize (s.devicesByTally rank).filter which = ds
  induction ds generalizing s with
  | nil => exact .of_eq rfl rfl rfl rfl rfl
  | cons d ds ih => exact (s.examineDevice_same rank d again).trans (ih _)

/-! ## Scored events -/

/-- An entry found by its key. -/
theorem State.findEntry_some {s : State} {rank row : Nat} {e : FaultEntry} (h : s.findEntry rank row = some e) :
    e ∈ s.table ∧ e.rank = rank ∧ e.row = row := by
  have hk := List.find?_some h
  exact ⟨List.mem_of_find?_eq_some h, of_decide_eq_true hk⟩

/-- The examination of an entry's retire state keeps the retirements sound: an entry that is not PENDING is of a row that
neither waits nor migrates. -/
theorem State.examineRetire_sound {s : State} (h : s.RemapsSound) (hq : s.RetirementsSound) (rank row : Nat)
    (hrow : row < 262144) :
    (s.examineRetire rank row).RemapsSound ∧ (s.examineRetire rank row).RetirementsSound := by
  have open_ : ∀ e, s.findEntry rank row = some e → e.retire ≠ .pending →
      s.rowQueued rank row = false ∧ s.rowMigrating rank row = false := by
    intro e he hp
    obtain ⟨hm, rfl, rfl⟩ := State.findEntry_some he
    have := mt (hq.2.2.2.2 e hm).2 hp
    rw [not_or, Bool.not_eq_true, Bool.not_eq_true] at this
    exact this
  have retire : ∀ e, s.findEntry rank row = some e → e.retire ≠ .pending → s.retireObstacle rank = none →
      (s.retireInternally rank row).RemapsSound ∧ (s.retireInternally rank row).RetirementsSound := by
    intro e he hp ho
    have hw : s.waitingCount rank < s.freeSpares rank := by
      by_contra hc
      unfold State.retireObstacle at ho
      rw [if_pos (by omega : s.freeSpares rank ≤ s.waitingCount rank)] at ho
      split at ho <;> cases ho
    exact State.admitRetirement_sound h hq { rank := rank, row := row, origin := .auto, slot := none } hrow hw
      (open_ e he hp).1 (open_ e he hp).2
  unfold State.examineRetire
  split
  · exact ⟨h, hq⟩
  · next e he =>
    split
    · exact ⟨h, hq⟩
    · next hr =>
      split
      · next ho => exact retire e he (by rw [hr]; decide) ho
      · exact ⟨h, hq⟩
    · next hr =>
      split
      · exact ⟨h, hq⟩
      · split
        · next ho => exact retire e he (by rw [hr]; decide) ho
        · refine State.SameRetirements.sound (State.handPlain_same ..) h ?_
          obtain ⟨q1, q2, q3, q4, q5⟩ := hq
          refine ⟨q1, q2, q3, q4, fun x hx => ?_⟩
          obtain ⟨y, hy, rfl⟩ := List.mem_map.1 hx
          show _ ↔ s.rowQueued _ _ = true ∨ s.rowMigrating _ _ = true
          obtain ⟨o1, o2⟩ := open_ e he (by rw [hr]; decide)
          by_cases hk : y.keyed rank row = true
          · obtain ⟨rfl, rfl⟩ := of_decide_eq_true hk
            rw [if_pos hk]
            simp [o1, o2]
          · rw [if_neg hk]; exact q5 y hy

theorem State.afterEvent_sound {s : State} (h : s.RemapsSound) (hq : s.RetirementsSound) (rank row : Nat)
    (risen : List Nat) (hrow : row < 262144) :
    (s.afterEvent rank row risen).RemapsSound ∧ (s.afterEvent rank row risen).RetirementsSound := by
  obtain ⟨h', hq'⟩ := State.examineRetire_sound h hq rank row hrow
  exact (State.examineDevices_same ..).sound h' hq'

/-- An entry in its place. -/
theorem mem_insertEntry {e x : FaultEntry} {l : List FaultEntry} : x ∈ insertEntry e l ↔ x = e ∨ x ∈ l := by
  induction l with
  | nil => simp [insertEntry]
  | cons y l ih =>
    unfold insertEntry
    split
    · simp
    · simp only [List.mem_cons, ih]; tauto

/-- A fault table of other entries, with the same tie of PENDING to the rows that wait or migrate. -/
theorem State.withTable_sound {s : State} (h : s.RemapsSound) (hq : s.RetirementsSound) (b : List FaultEntry)
    (hb : ∀ e ∈ b, e.retire = .pending ↔ s.rowQueued e.rank e.row = true ∨ s.rowMigrating e.rank e.row = true) :
    State.RemapsSound { s with table := b } ∧ State.RetirementsSound { s with table := b } :=
  ⟨h, hq.1, hq.2.1, hq.2.2.1, hq.2.2.2.1, hb⟩

theorem State.createEntry_sound {s : State} (h : s.RemapsSound) (hq : s.RetirementsSound) (rank row weight : Nat)
    (devices : List Nat) (t : PartTime) (hrow : row < 262144) :
    (s.createEntry rank row weight devices t).RemapsSound ∧
      (s.createEntry rank row weight devices t).RetirementsSound := by
  obtain ⟨h', hq'⟩ := State.withTable_sound h hq (insertEntry (s.newEntry rank row weight devices t) s.table)
    fun x hx => by
      rcases mem_insertEntry.1 hx with rfl | hx
      · show (if _ then _ else _) = _ ↔ s.rowQueued rank row = true ∨ s.rowMigrating rank row = true
        cases s.rowQueued rank row <;> cases s.rowMigrating rank row <;> simp
      · exact hq.2.2.2.2 x hx
  exact State.afterEvent_sound h' hq' rank row devices hrow

/-- A scored event keeps the remap entries and the retirements sound. -/
theorem State.scoredEvent_sound {s : State} (h : s.RemapsSound) (hq : s.RetirementsSound) (rank row weight : Nat)
    (named : List Nat) (t : PartTime) (hrow : row < 262144) :
    (s.scoredEvent rank row weight named t).RemapsSound ∧ (s.scoredEvent rank row weight named t).RetirementsSound := by
  have same : s.SameRetirements s.countUntracked := ⟨rfl, rfl, rfl, rfl, fun e he => ⟨e, he, rfl, rfl, rfl⟩⟩
  unfold State.scoredEvent
  simp only
  split
  · obtain ⟨h', hq'⟩ := State.withTable_sound h hq
      (s.table.map fun x => if x.keyed rank row then x.taken weight (s.joiningDevices rank named) t else x)
      fun x hx => by
        obtain ⟨y, hy, rfl⟩ := List.mem_map.1 hx
        split <;> exact hq.2.2.2.2 y hy
    exact State.afterEvent_sound h' hq' rank row _ hrow
  · split
    · exact State.createEntry_sound h hq _ _ _ _ _ hrow
    · split
      · exact same.sound h hq
      · next v _ =>
        split
        · obtain ⟨h', hq'⟩ := (s.removeEntry_same v.rank v.row).sound h hq
          exact State.createEntry_sound h' hq' rank row weight _ t hrow
        · exact same.sound h hq

/-! ## Completion and RESTORE -/

/-- The completed migration, before the next one starts: the entry is ACTIVE, an earlier spare row given up, the row's fault
entry gone, and no migration in progress. -/
theorem State.completed_sound {s t : State} (h : s.RemapsSound) (hq : s.RetirementsSound) {e : RemapEntry}
    (he : s.migratingEntry = some e)
    (hremaps : t.remaps = s.remaps.map fun x => if x.rank = e.rank ∧ x.row = e.row then
      { x with state := .active, cursor := 128, earlier := none } else x)
    (hspares : t.spares = (s.discardEarlier e).spares) (hqueue : t.migrationQueue = s.migrationQueue)
    (hmig : t.migration = none) (htable : t.table = s.table.filter fun x => !x.keyed e.rank e.row) :
    t.RemapsSound ∧ t.RetirementsHeld := by
  cases hm : s.migration with
  | none => unfold State.migratingEntry at he; rw [hm] at he; cases he
  | some m =>
    obtain ⟨e', he', hmem, hr, hw, hs⟩ := State.migratingEntry_some h hm
    obtain rfl : e = e' := Option.some.inj (he.symm.trans he')
    have h' := s.remapsSound_iff.1 h
    rw [hm, Option.map_some, ← hr, ← hw] at h'
    obtain ⟨q1, q2, q3, q4, q5⟩ := hq
    have hone : ∀ r w, s.rowMigrating r w = true ↔ (r, w) = (e.rank, e.row) := by
      intro r w
      rw [State.rowMigrating_iff h, hm, Prod.mk.injEq]
      simp only [Option.some.injEq, exists_eq_left', ← hr, ← hw]
      exact ⟨fun ⟨a, b⟩ => ⟨a.symm, b.symm⟩, fun ⟨a, b⟩ => ⟨a.symm, b.symm⟩⟩
    have hrank := (h'.2.2.2.1 e hmem).1
    have hheld : ∀ i, e.earlier = some i → s.spareState e.rank i = .inUse ∧ i < 128 := by
      intro i hi
      have hin : (e.rank, i) ∈ s.remaps.flatMap RemapEntry.sparesHeld := by
        refine List.mem_flatMap.2 ⟨e, hmem, List.mem_cons_of_mem _ ?_⟩
        rw [hi]; exact List.mem_singleton.2 rfl
      have hu := (h'.2.2.1 e.rank i).2 hin
      refine ⟨hu, ?_⟩
      by_contra hc
      have e0 : ∀ v : Vector SpareState 128, v[i]? = none := by intro v; simp; omega
      unfold State.spareState nth at hu
      rw [e0] at hu
      simp at hu
    have sp : t.spareState = (s.discardEarlier e).spareState := by funext r j; unfold State.spareState; rw [hspares]
    have hst : ∀ r j, t.spareState r j = if r = e.rank ∧ e.earlier = some j then .discarded else s.spareState r j := by
      intro r j
      rw [sp]
      unfold State.discardEarlier
      cases hi : e.earlier with
      | none => simp
      | some i =>
        simp only [Option.some.injEq]
        rw [State.spareState_set _ _ _ _ _ _ hrank (hheld i hi).2]
        by_cases hj : r = e.rank ∧ j = i
        · rw [if_pos hj, if_pos ⟨hj.1, hj.2.symm⟩]
        · rw [if_neg hj, if_neg fun hc => hj ⟨hc.1, hc.2.symm⟩]
    have hfree : ∀ r, t.freeSpares r = s.freeSpares r := by
      intro r
      have : t.freeSpares r = (s.discardEarlier e).freeSpares r := by unfold State.freeSpares; rw [sp]
      rw [this]
      unfold State.discardEarlier
      cases hi : e.earlier with
      | none => rfl
      | some i =>
        exact s.freeSpares_discard _ _ _ hrank (hheld i hi).2 (by rw [(hheld i hi).1]; decide)
    have hs' : t.RemapsSound := by
      obtain ⟨rest, p1, p2⟩ := changed_perm h'.1 hmem fun x => { x with state := .active, cursor := 128, earlier := none }
      rw [State.remapsSound_iff, hmig, hremaps]
      exact ((h'.perm p1).complete hs hst).perm p2.symm
    refine ⟨hs', by rw [hqueue]; exact q1, fun x hx => ?_, fun r => ?_, fun x hx => ?_⟩
    · rw [hqueue] at hx
      obtain ⟨a, b, -⟩ := q2 x hx
      refine ⟨a, b, ?_⟩
      rw [Bool.eq_false_iff, Ne, State.rowMigrating_iff hs', hmig]
      rintro ⟨_, h0, _⟩; cases h0
    · rw [hfree]
      unfold State.waitingCount
      rw [hqueue]; exact q3 r
    · rw [htable] at hx
      obtain ⟨hx1, hx2⟩ := List.mem_filter.1 hx
      have hne : ¬(x.rank, x.row) = (e.rank, e.row) := fun hc => by
        rw [Prod.mk.injEq] at hc
        simp [FaultEntry.keyed, hc] at hx2
      rw [q5 x hx1, hone, State.rowMigrating_iff hs', hmig, State.rowQueued_iff, State.rowQueued_iff, hqueue]
      simp [hne]

/-- The end of a copied column, its completion of the migration included, keeps both sound. -/
theorem State.endCopy_sound {s : State} (h : s.RemapsSound) (hq : s.RetirementsSound) {e : RemapEntry}
    (he : s.migratingEntry = some e) : (s.endCopy e).RemapsSound ∧ (s.endCopy e).RetirementsSound := by
  obtain ⟨z, a, w, j, sl, hc⟩ := State.checkQuiesce_frame { s with migrationOp := none }
  cases hm : s.migration with
  | none => unfold State.migratingEntry at he; rw [hm] at he; cases he
  | some m =>
    unfold State.endCopy
    simp only [hc]
    split
    · next hk =>
      obtain ⟨e', he', hmem, hr, hw, hs⟩ := State.migratingEntry_some h hm
      obtain rfl : e = e' := Option.some.inj (he.symm.trans he')
      have h' := s.remapsSound_iff.1 h
      obtain ⟨rest, p1, p2⟩ := changed_perm h'.1 hmem fun x => { x with cursor := x.cursor + 1 }
      have hR : RemapList (s.remaps.map fun x => if x.rank = e.rank ∧ x.row = e.row then
          { x with cursor := x.cursor + 1 } else x) s.spareState (s.migration.map fun m => (m.rank, m.row)) :=
        ((h'.perm p1).advance hs hk).perm p2.symm
      refine ⟨(State.remapsSound_iff _).2 hR, ?_⟩
      obtain ⟨q1, q2, q3, q4, q5⟩ := hq
      have hmg : ∀ r w', (State.rowMigrating (State.changeRemap { s with migrationOp := none } e.rank e.row
          fun x => { x with cursor := x.cursor + 1 }) r w') = s.rowMigrating r w' := by
        intro r w'
        rw [Bool.eq_iff_iff, State.rowMigrating_iff h, State.rowMigrating_iff ((State.remapsSound_iff _).2 hR)]
        rfl
      refine ⟨q1, fun x hx => ?_, q3, q4, fun x hx => ?_⟩
      · obtain ⟨b, c, d⟩ := q2 x hx
        exact ⟨b, c, (hmg _ _).trans d⟩
      · exact (q5 x hx).trans (or_congr Iff.rfl (by rw [← hmg]; rfl))
    · simp only [State.changeRemap, hm]
      have keep : ∀ (u : State), u.remaps = (s.remaps.map fun x => if x.rank = e.rank ∧ x.row = e.row then
            { x with cursor := x.cursor + 1 } else x) → u.spares = s.spares → u.migrationQueue = s.migrationQueue →
          u.table = s.table → (u.completeMigration m e).RemapsSound ∧ (u.completeMigration m e).RetirementsSound := by
        intro u u1 u2 u3 u4
        unfold State.completeMigration
        simp only
        generalize RecordKind.rowRetired _ _ _ _ _ _ _ _ = k
        obtain ⟨a1, w1, j1, c1, h1⟩ := State.handPlain_frame (((u.changeRemap e.rank e.row fun x =>
          { x with state := .active, cursor := 128, earlier := none }).discardEarlier e).removeEntry e.rank e.row)
          k none e.rank e.row []
        rw [h1]
        have fin : ∀ x : State, ∃ a w j sl, x.finishMigrationSlot m e =
            { x with writer := a, waiters := w, journal := j, slots := sl } := by
          intro x
          unfold State.finishMigrationSlot
          split
          · exact x.finishTaken_frame ..
          · exact ⟨x.writer, x.waiters, x.journal, x.slots, rfl⟩
        obtain ⟨a2, w2, j2, l2, h2⟩ := fin { ((u.changeRemap e.rank e.row fun x =>
          { x with state := .active, cursor := 128, earlier := none }).discardEarlier e).removeEntry e.rank e.row with
            writer := a1, waiters := w1, journal := j1, counters := c1 }
        rw [h2]
        obtain ⟨g1, g2⟩ := State.completed_sound (t := { ((u.changeRemap e.rank e.row fun x =>
          { x with state := .active, cursor := 128, earlier := none }).discardEarlier e).removeEntry e.rank e.row with
            writer := a2, waiters := w2, journal := j2, slots := l2, counters := c1, migration := none })
          h hq he
          (by
            show (State.discardEarlier _ e).remaps = _
            have : ∀ y : State, (y.discardEarlier e).remaps = y.remaps := fun y => by
              unfold State.discardEarlier; split <;> rfl
            rw [this]
            show u.remaps.map _ = _
            rw [u1, List.map_map]
            refine List.map_congr_left fun x _ => ?_
            show (if _ then _ else _) = _
            by_cases hx : x.rank = e.rank ∧ x.row = e.row
            · simp [hx]
            · simp [hx])
          (by
            show (State.discardEarlier _ e).spares = _
            unfold State.discardEarlier
            split
            · show put u.spares _ (put (nth u.spares _ _) _ _) = _
              rw [u2]; rfl
            · exact u2)
          (by
            show (State.discardEarlier _ e).migrationQueue = _
            unfold State.discardEarlier; split <;> exact u3)
          rfl
          (by
            show (State.discardEarlier _ e).table.filter _ = _
            have : ∀ y : State, (y.discardEarlier e).table = y.table := fun y => by
              unfold State.discardEarlier; split <;> rfl
            rw [this]
            exact congrArg _ u4)
        exact State.startMigration_sound g1 g2
      exact keep _ rfl rfl rfl rfl

/-- RESTORE's retirement of a row that was never retired, with more FREE spare rows of its rank than wait. -/
theorem State.restoreRow_sound {s : State} (h : s.RemapsSound) (hq : s.RetirementsSound) {rank row i : Nat}
    (hi : s.lowestFree rank = some i) (hrow : row < 262144) (hnone : s.findRemap rank row = none)
    (hwait : s.waitingCount rank < s.freeSpares rank) :
    (s.restoreRow rank row i).RemapsSound ∧ (s.restoreRow rank row i).RetirementsSound := by
  obtain ⟨hr, hi128, hfree⟩ := State.lowestFree_some hi
  have hR : State.RemapsSound { s.setSpareState rank i .inUse with
      remaps := s.remaps ++ [{ rank := rank, row := row, spare := i, earlier := none, state := .active, cursor := 128,
                               origin := .restore }] } := by
    refine (State.remapsSound_iff _).2 (RemapList.add (s.remapsSound_iff.1 h) (fun x hx hk => ?_) hfree hr hrow hi128
      (fun r j => s.spareState_set rank i r j .inUse hr hi128) rfl (fun _ => ⟨rfl, rfl⟩) (fun hs => nomatch hs))
    rw [Prod.mk.injEq] at hk
    exact absurd (decide_eq_true hk) (List.find?_eq_none.1 hnone x hx)
  have hmg : ∀ r w, State.rowMigrating { s.setSpareState rank i .inUse with
      remaps := s.remaps ++ [{ rank := rank, row := row, spare := i, earlier := none, state := .active, cursor := 128,
                               origin := .restore }] } r w = s.rowMigrating r w := by
    intro r w
    rw [Bool.eq_iff_iff, State.rowMigrating_iff h, State.rowMigrating_iff hR]
    rfl
  obtain ⟨q1, q2, q3, q4, q5⟩ := hq
  refine State.SameRetirements.sound ((State.removeEntry_same _ rank row).trans (State.handPlain_same ..)) hR
    ⟨q1, fun x hx => ?_, fun r => ?_, q4, fun x hx => ?_⟩
  · obtain ⟨b, c, d⟩ := q2 x hx
    exact ⟨b, c, (hmg _ _).trans d⟩
  · have hu := s.freeSpares_use rank i hfree
    have := q3 r
    show s.waitingCount r ≤ (s.setSpareState rank i .inUse).freeSpares r
    by_cases hrr : r = rank
    · subst hrr; omega
    · rw [hu.2 r hrr]; exact this
  · exact (q5 x hx).trans (or_congr Iff.rfl (by rw [← hmg]; rfl))

end Sys2Proof.Machine
end

