-- ==== Sys2Proof/Tests/Slice0.lean ====
section
/-! SUPPORT. Tests: the ill-formed commands, one step at a time on small states, and a witness for the hypotheses of each
statement. -/

namespace Sys2Proof.Tests

set_option Elab.async false

open Sys2Proof Sys2Proof.Machine

/-! ## Small states -/

/-- The part right after its first READY, with nothing yet done. -/
def up : State := { State.reset with phase := .running, nextInterval := some 1000 }

/-- The part in a step of its restart, whose own read has ended with this line. -/
def restartAt (step : RestartStep) (r : Reader) (line : Option Line) : State :=
  { State.reset with
    phase := .restarting step, ownRead := some { reader := r, stage := .ended line, readTime := 5 } }

/-- The part with a take whose read has ended with this line. -/
def taking (slot : Nat) (line : Option Line) : State :=
  { up with ownRead := some { reader := .take slot, stage := .ended line, readTime := 0 } }

/-- A POSTED slot line of a kind, with these fields. -/
def order (kind : Nat) (fs : List FieldValue) : Line := lineOfFields ([byteField 0 1, byteField 1 kind] ++ fs)

/-- A read of the line at column 0 of row 0 that finds this damage, in a rank with or without a marked position. -/
def decodeOf (damaged : List Nat) (marked : Option Nat) (suspects : List Nat) (poison : Bool) : Machine.Decode :=
  { rank := 0, row := 0, column := 0, host := some 0, content := { data := 0, poison := poison }, damaged := damaged,
    marked := marked, budget := suspects.length, suspects := suspects, carriers := List.range 19 }

/-- A decode that finds no damage. -/
def clean : Machine.Decode := decodeOf [] none [] false

/-- A server read in flight. -/
def oneRead : ServerRead := { port := 0, host := 9, stale := false, decode := clean, behind := [] }

/-- A remap entry of rank 1, row 7, at column 64 of its first migration; of its second; and after one. -/
def firstMove : RemapEntry :=
  { rank := 1, row := 7, spare := 127, earlier := none, state := .migrating, cursor := 64, origin := .order }
def secondMove : RemapEntry := { firstMove with earlier := some 3 }
def moved : RemapEntry := { firstMove with state := .active, cursor := 128 }

/-- The part with one remap entry. -/
def withRemap (e : RemapEntry) : State := { up with remaps := [e] }

/-- A fault entry of rank 1, row 7. -/
def oneEntry : FaultEntry :=
  { rank := 1, row := 7, score := 4, events := 1, devices := 8, firstSeen := 0, lastSeen := 0, retire := .none }

/-- The part with a read that waits for its grant on rank port 0. -/
def busy : State := up.setAccess 0 (.readWaits 5)

/-- The part with slot 255 held TAKEN. -/
def slotTaken : State := up.setSlot 255 { state := .taken, kind := 1, mode := 0, taken := 0 }

/-- The part at the last step of its restart. -/
def atIdentity : State := { restartAt .identity .mark none with waiters := [.identity] }

/-- The part with its arrays written and initialisation not yet ended. -/
def written : State := { State.reset with initCursor := Vector.replicate 4 33570816 }

/-- The part with so many records published and none read. -/
def withPublished (n : Count32) : State := { up with journal := { Journal.powerOn with published := n } }

/-- The part with a poison entry for host line 5 in its write-back queue; with a full queue. -/
def poisonQueued : State := { up with writeBacks := [⟨5, none⟩] }
def fullQueue : State := { up with writeBacks := List.replicate 16 ⟨5, none⟩ }

/-- The part with one visit owed. -/
def owing : State := { up with patrol := { up.patrol with owed := 1 } }

/-- A SCRUB RANGE or PROBE LINE of one line, as queued. -/
def queued (k : TargetedKind) : TargetedOrder :=
  { slot := 255, kind := k, firstLine := 0, endLine := 1, cursor := 0, budget := 8, urgent := decide (k = .probeLine),
    clamped := false, counts := ScrubCounts.zero }

/-- A targeted operation of that order, at a stage. -/
def targetedAt (stage : OpStage) : OpenLine :=
  { isOpen := true, rank := 0, row := 0, column := 0, host := some 0, stage := stage, override := none, slot := some 255 }

/-- The part with that order queued; and with its operation under way. -/
def withOrder (k : TargetedKind) : State := { up with targeted := [queued k] }
def visiting (k : TargetedKind) (stage : OpStage) : State :=
  { withOrder k with targetedOp := some (targetedAt stage) }

/-- A window line handed over and not yet acted on. -/
def handed (offset : Nat) (line : Line) : State :=
  { up with handOff := some { offset := offset, line := line, markDone := false, ackDone := false } }

/-- A rank whose device 6 is MARKED, with its rebuild at a cursor or without a rebuild. -/
def marked6 (inFlight : Bool) (cursor : Nat) : RankDevices :=
  { RankDevices.powerOn with states := put RankDevices.powerOn.states 6 .marked, inFlight := inFlight, cursor := cursor }

/-- The soundness of a device map, as a check of its 20 devices. -/
def soundCheck (r : RankDevices) : Bool :=
  decide (r.posMap.toList.Nodup) &&
    (List.range 20).all (fun d =>
      decide ((r.stateOf d = .active ∨ r.stateOf d = .marked) ↔ d ∈ r.posMap.toList) &&
        decide (r.stateOf d = .marked → r.markedDevice = some d) &&
        decide (r.stateOf d = .replaced → firstBelow 20 (fun e => decide (r.stateOf e = .replaced)) = some d) &&
        decide (r.stateOf d = .spare → d = 19) && decide (r.stateOf d = .replaced → r.stateOf 19 ≠ .spare)) &&
    r.posMap.toList.all (fun d => decide (d < 20)) &&
    decide (r.inFlight = true → r.stateOf 19 = .spare ∧ r.markedDevice.isSome = true)

theorem sound_of_check {r : RankDevices} (h : soundCheck r = true) : r.Sound := by
  simp only [soundCheck, Bool.and_eq_true, decide_eq_true_eq, List.all_eq_true, List.mem_range] at h
  obtain ⟨⟨⟨h1, h2⟩, h3⟩, h4⟩ := h
  refine ⟨h1, fun d hd => (h2 d hd).1.1.1.1, h3, fun d e hd he h h' => ?_, fun d e hd he h h' => ?_,
    fun d hd => (h2 d hd).1.2, fun d hd => (h2 d hd).2, h4⟩
  · exact Option.some.inj (((h2 d hd).1.1.1.2 h).symm.trans ((h2 e he).1.1.1.2 h'))
  · exact Option.some.inj (((h2 d hd).1.1.2 h).symm.trans ((h2 e he).1.1.2 h'))

/-- The next state of a command that has one. -/
def after (c : Instr) (s : State) : Option State :=
  match exec c s with
  | .next t => some t
  | .fault _ => none
  | .refused _ => none

/-! ## Sound maps -/

theorem test_sound_powerOn : RankDevices.powerOn.Sound := sound_of_check (by decide +kernel)
theorem test_sound_marked : (marked6 false 0).Sound := sound_of_check (by decide +kernel)
theorem test_sound_rebuilding : (marked6 true 1000000).Sound := sound_of_check (by decide +kernel)


theorem countBelow_none {n : Nat} {p : Nat → Bool} (h : ∀ i, p i = false) : countBelow n p = 0 := by
  simp [countBelow, h]

theorem up_slot (i : Nat) : State.reset.slot i = SlotMirror.freeMirror := by
  unfold State.slot nth
  by_cases h : i < 256
  · simp [State.reset, State.powerOn, h]
  · simp [h]

theorem taking_none (slot : Nat) (l : Option Line) (p : SlotMirror → Bool) : (taking slot l).takenWhere p = 0 := by
  refine countBelow_none fun i => ?_
  have : (taking slot l).slot i = SlotMirror.freeMirror := up_slot i
  rw [this]
  simp [SlotMirror.freeMirror]

theorem taking_room (slot : Nat) (l : Option Line) (kind mode : Nat) : (taking slot l).roomAllows kind mode = true := by
  unfold State.roomAllows
  rw [taking_none, taking_none, taking_none]
  have h1 : (taking slot l).targeted.length < targetedCapacity := by show 0 < 4; decide
  have h2 : (taking slot l).migrationQueue.length < migrationCapacity := by show 0 < 8; decide
  simp only [h1, h2]
  simp [takenCapacity, migrationCapacity]

/-- A dispatch is due for a POSTED line of a known kind. -/
theorem due (slot kind : Nat) (l : Line) (h : slot < 256) (h1 : slotStateField l = 1) (h2 : slotKind l = kind) :
    (taking slot (some l)).DispatchDue slot l kind :=
  ⟨rfl, h, ⟨_, rfl, rfl, rfl⟩, h1, h2, taking_room ..⟩

/-! ## Ill-formed commands are refused -/

theorem test_wf_port : (Instr.serverReadGrant 4 []).wellFormed = false := by decide
theorem test_wf_rank : (Instr.arrayInitLineWrite 4).wellFormed = false := by decide
theorem test_wf_record : (Instr.windowStart 32).wellFormed = false := by decide
theorem test_wf_device : (Instr.patrolReadGrant [⟨20, 1⟩]).wellFormed = false := by decide
theorem test_wf_pattern : (Instr.patrolReadGrant [⟨3, 0⟩]).wellFormed = false := by decide
theorem test_wf_twice : (Instr.patrolReadGrant [⟨3, 1⟩, ⟨3, 2⟩]).wellFormed = false := by decide
theorem test_wf_good : (Instr.serverReadGrant 3 [⟨19, 1⟩]).wellFormed = true := by decide

/-! ## One step -/

theorem test_read_waits : (after (.serverReadPresent 5) up).map (fun t => t.access 0) = some (.readWaits 5) := by
  decide +kernel
theorem test_above_is_poisoned :
    (after (.accessAboveLTotal .read 134217728) up).map State.replies = some [.poisoned 134217728] := by decide +kernel
theorem test_not_ready : (after (.serverReadPresent 5) State.reset).map (fun t => t.access 0) = some .idle := by
  decide +kernel
theorem test_second_read_waits :
    (after (.serverReadPresent 9) busy).map (fun t => (t.access 0, t.arrivalsAt 0)) =
      some (.readWaits 5, [.read 9]) := by decide +kernel
theorem test_next_access_presented :
    (after (.serverReadGrant 0 []) (busy.setArrivals 0 [.read 9])).map (fun t => (t.access 0, t.arrivalsAt 0)) =
      some (.readWaits 9, []) := by decide +kernel
theorem test_empty_mask_is_guarded :
    (after (.maskedWritePresent 319 0 0) slotTaken).map (fun t => t.journal.published) = some 1 := by decide +kernel
theorem test_window_end_waits :
    (after (.windowEnd 1) ((up.setWindow 1 { WindowEntry.emptyEntry with state := .active }).setWindow 2
      { WindowEntry.emptyEntry with state := .armed })).map (fun t => (t.window 1).state) = some .active := by
  decide +kernel
theorem test_write_lands :
    (after (.fullLineWriteGrant 0) (up.setAccess 0 (.fullWaits 5 0))).map State.replies = some [.ack 5] := by
  decide +kernel
theorem test_init_line :
    (after (.arrayInitLineWrite 3) State.reset).map (fun t => t.initWritten 3) = some 1 := by decide +kernel
theorem test_idle_tick : (match step State.reset with | .next t => some t.time | _ => none) = some 1 := by
  decide +kernel
theorem test_mark_moves :
    (after .readMarkWrite { handed 2 7 with journal := { Journal.powerOn with published := 9 } }).map
      (fun t => t.journal.mark) = some 7 := by decide +kernel
theorem test_clean_one_damaged : (decodeOf [5] none [] false).classify.cls = .corrected := by decide +kernel
theorem test_two_damaged_lost : (decodeOf [5, 6] none [] false).classify.cls = .uncorrectable := by decide +kernel
theorem test_two_damaged_deep : (decodeOf [5, 6] none [2, 6] false).classify.tried = 2 := by decide +kernel
theorem test_clamp_policy :
    clampPolicy (policyOfLine 0) = { Policy.default with
      patrolEnable := 0, opsPerInterval := 1, markThreshold := 2, autoRetire := 0, autoMark := 0, backgroundBudget := 0,
      writeBackEnable := 0, coalesceCount := 1, decayPeriod := 1, retireThreshold := 8, patrolPeriod := 60,
      holdoff := 10, statusInterval := 100 } := by decide +kernel
theorem test_mark_within : settledMark 1993 1000 1500 = 1500 := by decide
theorem test_mark_beyond : settledMark 1993 1000 2100 = 1993 := by decide
theorem test_mark_back : settledMark 1993 1000 900 = 1000 := by decide
theorem test_rate : rawRate 134217728 86400000 = 398 := by decide +kernel
theorem test_union : unionLength [(0, 10), (5, 20), (30, 40)] = 30 := by decide +kernel

/-! ## Witnesses for the hypotheses of the statements, each clause at a boundary -/

theorem hyp_HandOffsAndTimeActByThemselves :
    State.reset.dueStep = none ∧ State.reset.pending = [] ∧ State.reset.handOff = none ∧
    { State.reset with time := 3600000000 }.dueStep = some .decayTick ∧
    (handed 64 1).handOff = some { offset := 64, line := 1, markDone := false, ackDone := false } ∧
    actsOnHandOff .warmReset = false := by decide +kernel

/-- The part with E of its pass a day ahead. -/
def calm : State := { up with patrol := { up.patrol with passEnd := 86400000000 } }

/-- The part with window records 0 and 31 in these states, each from 5 to 9, at this part time. -/
def windowsAt (time : PartTime) (w0 w31 : WindowState) : State :=
  let w : WindowEntry := { WindowEntry.emptyEntry with start := 5, stop := 9 }
  { calm with time := time, windows := put (put calm.windows 0 { w with state := w0 }) 31 { w with state := w31 } }

/-- The premises of each clause on the step that is due, at the boundary of its part time, and what falls to the clause
after it there. -/
theorem hyp_DueStep :
    (windowsAt 5 .armed .armed).dueStep = some (.windowStart 0) ∧
    (windowsAt 9 .active .armed).dueStep = some (.windowStart 31) ∧
    (windowsAt 9 .active .active).dueStep = some (.windowEnd 0) ∧
    (windowsAt 9 .past .active).dueStep = some (.windowEnd 31) ∧
    (windowsAt 8 .past .active).dueStep = none ∧ (windowsAt 4 .armed .armed).dueStep = none ∧
    { calm with time := calm.patrol.passEnd }.dueStep = some .passLate ∧
    { calm with time := calm.decayTick, patrol := { calm.patrol with late := true } }.dueStep = some .decayTick ∧
    { calm with time := 20, journal := { calm.journal with holdoff := some 20, statusTimer := some 20 } }.dueStep =
      some .holdoffExpiry ∧
    { calm with time := 20, journal := { calm.journal with holdoff := some 21, statusTimer := some 20 } }.dueStep =
      some .statusTimerExpiry ∧
    { calm with time := 1000000, nextInterval := some 1000000 }.dueStep = some .periodicPaceReview ∧
    { calm with time := 1000000, nextInterval := some 1000000, reviewed := true }.dueStep = some .paceIntervalStart ∧
    { calm with time := 1000 }.dueStep = some .paceIntervalStart ∧ { calm with time := 999 }.dueStep = none := by
  decide +kernel

theorem hyp_InitialisationClearsTheArray :
    ∃ s : State, s.handOff = none ∧ s.phase = .initialising ∧ 3 < s.ranks ∧ s.ranks ≤ 4 ∧ s.initWritten 3 = 33570815 ∧
      s.rankDevices 3 = RankDevices.powerOn ∧ s.MemoriesCanonical :=
  ⟨{ State.reset with initCursor := Vector.replicate 4 33570815 }, rfl, rfl, by decide, by decide, rfl, rfl, rfl, rfl, rfl⟩

theorem hyp_InitialisationEnds :
    written.initComplete = true ∧
    { written with base := 134217727 }.base < State.reset.lTotal ∧
    State.reset.lTotal ≤ { written with base := 134217728 }.base := by decide +kernel

theorem hyp_WarmResetKeepsAndDrops :
    up.handOff = none ∧ up.ready = true ∧
    (restartAt .markRead .mark none).handOff = none ∧ (restartAt .markRead .mark none).restarting = true ∧
    State.reset.handOff = none ∧ State.reset.phase = .initialising ∧
    { up with phase := .halted }.handOff = none ∧ { up with phase := .halted }.phase = .halted := by decide +kernel

/-- An order in the migration queue and one that migrates both hand over their slots; one of origin AUTO has none. -/
theorem test_order_slots :
    { up with
      migrationQueue := [{ rank := 0, row := 1, origin := .order, slot := some 7 },
                         { rank := 0, row := 2, origin := .auto, slot := none }],
      migration := some { rank := 1, row := 3, origin := .order, slot := some 255, corrected := 0, deepCorrected := 0,
                          uncorrectable := 0, poisoned := 0, copiesDropped := 0 } }.orderSlots = [7, 255] := by
  decide +kernel

theorem hyp_RestartScanSetsMirror :
    (restartAt (.slotScan 255) (.scan 255) none).handOff = none ∧
      (restartAt (.slotScan 0) (.scan 0) none).handOff = none ∧
    (restartAt (.slotScan 255) (.scan 255) none).phase = .restarting (.slotScan 255) ∧
    slotStateField 0 = 0 ∧ slotStateField 1 = 1 ∧ slotStateField 2 = 2 ∧ slotStateField 3 = 3 ∧ 3 < slotStateField 4 ∧
    (restartAt (.slotScan 0) (.scan 0) (some 2)).writerHasPlace = true ∧
    { restartAt (.slotScan 0) (.scan 0) (some 2) with writer := List.replicate 32 (.line 0 0) }.writerHasPlace = false := by decide +kernel

theorem hyp_RestartRereadsWindowsAndMark :
    (restartAt (.windowReread 31) (.window 31) none).handOff = none ∧
      (restartAt (.windowReread 0) (.window 0) none).handOff = none ∧
    windowStateField 0 = 0 ∧ windowStateField 1 = 1 ∧ windowStateField 2 = 2 ∧ windowStateField 3 = 3 ∧
      4 ≤ windowStateField 4 ∧
    (restartAt .markRead .mark (some 1)).phase = .restarting .markRead ∧
    ((1025 : Count32) - markField 1).toNat ≤ 1024 ∧ 1 ≤ (markField 1 - (0 : Count32)).toNat ∧
    (markField 2147483648 - (0 : Count32)).toNat ≤ 2147483648 ∧ 1 ≤ (markField 2147483648 - (0 : Count32)).toNat ∧
    1024 < ((1026 : Count32) - markField 1).toNat ∧
      2147483648 < (markField 1 - (1026 : Count32)).toNat := by decide +kernel

/-- A record line of these times, ARMED or ACTIVE as the code says. -/
def recordOf (code start stop : Nat) : Line := lineOfFields [byteField 0 code, ⟨8, 6, start⟩, ⟨16, 6, stop⟩]

theorem hyp_RestartWritesRecord :
    windowStateField (recordOf 1 10 14400000010) = 1 ∧ windowStateField (recordOf 2 10 20) = 2 ∧
    (armedEntry (recordOf 1 10 14400000010) 9).state = .armed ∧
      (armedEntry (recordOf 1 10 14400000010) 9).stop = BitVec.ofNat 48 (lineField (recordOf 1 10 14400000010) 16 6) ∧
    (armedEntry (recordOf 2 10 20) 10).state ≠ .armed ∧
    (armedEntry (recordOf 1 10 14400000011) 9).state = .armed ∧
      (armedEntry (recordOf 1 10 14400000011) 9).stop ≠
        BitVec.ofNat 48 (lineField (recordOf 1 10 14400000011) 16 6) := by decide +kernel

theorem hyp_RestartEndsReady :
    atIdentity.handOff = none ∧
    atIdentity.mayEnter .identity = true ∧
    atIdentity.passIsLate = true ∧
    { atIdentity with patrol := { Patrol.powerOn with passEnd := 1 } }.passIsLate = false := by decide +kernel

theorem hyp_ResolverFollowsRemapState :
    up.findRemap 1 7 = none ∧
    (withRemap firstMove).findRemap 1 7 = some firstMove ∧
    (withRemap secondMove).findRemap 1 7 = some secondMove ∧
    (withRemap moved).findRemap 1 7 = some moved ∧
    63 < 64 ∧ 64 ≤ 64 := by decide +kernel

theorem hyp_RebuildCursorDividesTheRank :
    RankDevices.powerOn.Sound ∧ RankDevices.powerOn.markedDevice = none ∧
      (marked6 false 0).Sound ∧ (marked6 false 0).markedDevice = some 6 ∧ (marked6 true 1000000).Sound ∧
      (marked6 true 1000000).markedDevice = some 6 ∧ (marked6 true 1000000).carrier 6 = 6 ∧
      999999 < (marked6 true 1000000).cursor ∧
      (marked6 true 1000000).cursor ≤ 1000000 :=
  ⟨test_sound_powerOn, by decide +kernel, test_sound_marked, by decide +kernel, test_sound_rebuilding, by decide +kernel,
    by decide +kernel, by decide, by decide⟩

theorem hyp_DecodeClassFollowsDamage :
    (decodeOf [5] none [] true).damaged.length ≤ 1 ∧ 2 ≤ (decodeOf [5, 6] none [] true).damaged.length ∧
    (decodeOf [5, 6] none [] false).suspects = [] ∧ clean.content.poison = false ∧
    (decodeOf [3] (some 3) [] false).marked = some 3 ∧
      (decodeOf [3, 5] (some 3) [] false).damaged.filter (fun x => decide (x ≠ 3)) = [5] ∧
    2 ≤ ((decodeOf [3, 5, 6] (some 3) [] false).damaged.filter fun x => decide (x ≠ 3)).length ∧
    (decodeOf [5] none [] false).classify.cls.hasData = true ∧
      (decodeOf [5] none [] true).classify.cls.hasData = false := by decide +kernel

theorem hyp_SearchTriesSuspectsInOrder :
    (marked6 false 0).stateOf 6 = .marked ∧ (marked6 false 0).stateOf 7 ≠ .marked ∧
      (marked6 false 0).stateOf 7 ≠ .replaced ∧
    (decodeOf [5, 6] none [2, 6, 5] false).suspects = [2] ++ 6 :: [5] ∧
      (decodeOf [5, 6] none [2, 6, 5] false).damaged = [5, 6] ∧
    (∀ z ∈ [2], z ≠ 6 ∧ z ≠ 5) ∧ (∀ z ∈ (decodeOf [5, 6] none [2, 3] false).suspects, z ∉ [5, 6]) ∧
    2 < (decodeOf [5, 6, 7] none [5] false).damaged.length := by decide +kernel

theorem hyp_HostWriteReachesServingLine :
    (up.rankDevices (rankOf 0)).Sound ∧ up.MemoriesCanonical ∧ up.copyHost ≠ some 0 ∧
      (∃ s : State, (s.rankDevices (rankOf 0)).Sound ∧ s.MemoriesCanonical ∧ s.copyHost = some 0 ∧
        s.findRemap (rankOf 0) (rowOf 0) = some { firstMove with rank := 0, row := 0, cursor := 0 }) :=
  ⟨test_sound_powerOn, ⟨rfl, rfl, rfl⟩, by decide +kernel,
    { up with
      migrationOp := some (targetedAt (.writing poisonContent)),
      remaps := [{ firstMove with rank := 0, row := 0, cursor := 0 }] },
    test_sound_powerOn, ⟨rfl, rfl, rfl⟩, by decide +kernel, by decide +kernel⟩

theorem hyp_OwnReadStale :
    { up with ownRead := some ⟨.mark, .decoding clean false, 0⟩ }.ownRead = some ⟨.mark, .decoding clean false, 0⟩ ∧
    (∀ o d stale, up.ownRead = some o → o.stage ≠ .decoding d stale) :=
  ⟨rfl, fun _ _ _ h => nomatch h⟩

theorem hyp_PortAcceptsAndKeepsOrder :
    up.handOff = none ∧ up.ready = true ∧ up.lTotal ≤ 134217728 ∧ 134217727 < up.lTotal ∧
    State.reset.handOff = none ∧ State.reset.ready = false ∧
    busy.access (rankOf 9) ≠ .idle ∧ busy.arrivalsAt (rankOf 9) = [] ∧
    (busy.setArrivals 0 [.read 9]).access (rankOf 10) ≠ .idle ∧
      (busy.setArrivals 0 [.read 9]).arrivalsAt (rankOf 10) = .read 9 :: [] ∧
    up.access (rankOf 9) = .idle ∧ up.arrivalsAt (rankOf 9) = [] ∧ up.access 3 = .idle := by decide +kernel

theorem hyp_ReadIsServedFromQueueOrArray :
    134217727 < up.lTotal ∧ up.access (rankOf 134217727) = .idle ∧ up.arrivalsAt (rankOf 134217727) = [] ∧
      up.findWriteBack 134217727 = none ∧
    poisonQueued.findWriteBack 5 = some ⟨5, none⟩ ∧
    { up with writeBacks := [⟨5, none⟩], reads := [oneRead] }.reads = [] ++ oneRead :: [] ∧
    (up.setAccess 3 (.readWaits 134217727)).access 3 = .readWaits 134217727 ∧
      (up.setAccess 3 (.readWaits 134217727)).mayGrant 3 1 = true := by decide +kernel

theorem hyp_ReadEndAnswersQueuesReports :
    { up with reads := [oneRead] }.handOff = none ∧
    clean.classify.cls = .clean ∧ (decodeOf [3] none [] false).classify.cls = .corrected ∧
    (decodeOf [3, 4] none [] false).classify.cls = .uncorrectable ∧ up.findWriteBack 0 = none ∧
      up.policy.writeBackEnable = 1 ∧ up.writeBacks.length < 12 ∧
    fullQueue.findWriteBack 5 = some ⟨5, none⟩ ∧ 16 ≤ fullQueue.writeBacks.length := by decide +kernel

theorem hyp_ReportFollowsClass :
    clean.classify.cls = .clean ∧ (decodeOf [3] (some 3) [] false).classify.cls = .erased ∧
    (decodeOf [3] none [] false).classify.cls = .corrected ∧
      (decodeOf [3, 4] none [4] false).classify.cls = .deepCorrected ∧
    (decodeOf [3, 4] none [] false).classify.cls = .uncorrectable ∧
      (decodeOf [3] none [] false).host = some 0 := by decide +kernel

theorem hyp_WriteBackGrantWritesOldestEntry :
    ∃ s : State, s.handOff = none ∧ s.writeBackFor 3 = some ⟨134217727, none⟩ ∧ s.mayGrant 3 3 = true ∧
      (s.rankDevices 3).Sound ∧ s.MemoriesCanonical :=
  ⟨{ up with writeBacks := [⟨134217727, none⟩] }, rfl, by decide +kernel, by decide +kernel, test_sound_powerOn, rfl, rfl, rfl⟩

theorem hyp_WritePresentationAsksForGrant :
    134217727 < up.lTotal ∧ up.access (rankOf 134217727) = .idle ∧ up.arrivalsAt (rankOf 134217727) = [] ∧
      up.guardedSlot 134217727 = none ∧
    (1 : ByteMask) ≠ 0 ∧ (1 : ByteMask) ≠ BitVec.allOnes 64 ∧ up.findWriteBack 7 = none ∧
    { up with writeBacks := [⟨7, none⟩] }.findWriteBack 7 = some ⟨7, none⟩ ∧
    (up.setAccess 0 (.fullWaits 5 1)).access 0 = .fullWaits 5 1 ∧
      (up.setAccess 0 (.fullWaits 5 1)).mayGrant 0 1 = true := by decide +kernel

theorem hyp_TakenSlotIsGuarded :
    ∃ s : State, s.handOff = none ∧ s.ready = true ∧ s.base + 64 + 255 < s.lTotal ∧
      s.access (rankOf (s.base + 64 + 255)) = .idle ∧ s.arrivalsAt (rankOf (s.base + 64 + 255)) = [] ∧
      (s.slot 255).state = .taken :=
  ⟨slotTaken, rfl, rfl, by decide +kernel, by decide +kernel, by decide +kernel, by decide +kernel⟩

theorem hyp_MergeReadFormsWriteHalf :
    (up.setAccess 0 (.mergeWaits 5 1 1)).access 0 = .mergeWaits 5 1 1 ∧
      (up.setAccess 0 (.mergeWaits 5 1 1)).mayGrant 0 1 = true ∧
    (up.setAccess 0 (.merging 0 1 1 clean false)).access 0 = .merging 0 1 1 clean false ∧
    clean.classify.data = some 0 ∧ (decodeOf [3, 4] none [] false).classify.data = none := by decide +kernel

theorem hyp_MaskedWriteCompletes :
    (up.setAccess 3 (.halfWaits 134217727 (validContent 1) false none)).access 3 =
      .halfWaits 134217727 (validContent 1) false none ∧
    up.windowTraffic = true ∧ 3 < up.ranks ∧
    (up.setAccess 0 (.halfWaits 0 poisonContent true (some ⟨decodeOf [3] none [] true, 5⟩))).access 0 =
      .halfWaits 0 poisonContent true (some ⟨decodeOf [3] none [] true, 5⟩) ∧
    (decodeOf [3] none [] true).classify.cls = .poisoned ∧
      (decodeOf [3, 4] none [] false).classify.cls = .uncorrectable ∧
    ({ up with writeBacks := [⟨5, some 1⟩] }.setAccess 0 (.entryWaits 5 1 1)).access 0 = .entryWaits 5 1 1 ∧
    ({ up with writeBacks := [⟨5, some 1⟩] }.setAccess 0 (.entryWaits 5 1 1)).mayGrant 0 1 = true ∧
    (poisonQueued.setAccess 0 (.entryWaits 5 1 1)).findWriteBack 5 = some ⟨5, none⟩ := by decide +kernel

theorem hyp_TakeStartsAtCursor :
    ∃ s : State, s.handOff = none ∧ s.ready = true ∧ s.ownRead = none ∧ s.takeCursor < 256 ∧
      (s.slot s.takeCursor).state = .posted ∧ s.takenWhere (fun _ => true) < 14 ∧ s.inPosted s.takeCursor = true :=
  ⟨{ up with slots := put up.slots 0 { state := .posted, kind := 7, mode := 0, taken := 0 } }, rfl, rfl, rfl, by decide,
    by decide +kernel, by decide +kernel, by decide +kernel⟩

theorem hyp_SlotHandOffSetsMirror :
    (handed 319 1).handOff = some { offset := 64 + 255, line := 1, markDone := false, ackDone := false } ∧
    slotStateField 1 = 1 ∧ slotStateField 0 ≠ 1 := by decide +kernel

theorem hyp_WindowArmSetsEntry :
    (handed 47 1).handOff = some { offset := 16 + 31, line := 1, markDone := false, ackDone := false } ∧
    windowStateField 1 = 1 ∧
    (armedEntry (lineOfFields [byteField 0 1, ⟨8, 6, 10⟩, ⟨16, 6, 14400000010⟩]) 9).state = .armed ∧
    (armedEntry (lineOfFields [byteField 0 1, ⟨8, 6, 10⟩, ⟨16, 6, 14400000011⟩]) 10).state = .active ∧
    (armedEntry (lineOfFields [byteField 0 1, ⟨8, 6, 10⟩, ⟨16, 6, 10⟩]) 0).state = .past ∧
    laterThan (14400000011 : PartTime) 10 = true ∧ 14400000000 < durationFromTo 10 14400000011 := by decide +kernel

theorem hyp_WindowRecordsChangeState :
    windowStateField 4 = 4 ∧ windowStateField 0 = 0 ∧ windowStateField 2 ≠ 0 ∧ windowStateField 2 ≠ 1 ∧
      windowStateField 2 ≠ 4 ∧
    (up.setWindow 31 { WindowEntry.emptyEntry with state := .armed }).startIsDue 31 = true ∧
    (up.setWindow 31 { WindowEntry.emptyEntry with state := .active }).endIsDue 31 = true ∧
    (∀ r, r < 32 → ((up.setWindow 31 { WindowEntry.emptyEntry with state := .active }).window r).state = .armed →
      hasReached up.time ((up.setWindow 31 { WindowEntry.emptyEntry with state := .active }).window r).start = false) ∧
    ((up.setWindow 0 { WindowEntry.emptyEntry with state := .armed }).window 0).state = .armed ∧
      hasReached up.time ((up.setWindow 0 { WindowEntry.emptyEntry with state := .armed }).window 0).start = true := by
  decide +kernel

theorem hyp_MarkLineSettlesMarkAndCauses :
    (handed 2 0).handOff = some { offset := 2, line := 0, markDone := false, ackDone := false } ∧
    ((5 : Count32) - 5).toNat = 0 ∧ ((1025 : Count32) - 1).toNat ≤ 1024 ∧ 1 ≤ ((1025 : Count32) - 1).toNat ∧
    1024 < ((5 : Count32) - 6).toNat ∧ ((6 : Count32) - 5).toNat ≤ ((6 : Count32) - 5).toNat ∧
    ((6 : Count32) - 5).toNat < ((7 : Count32) - 5).toNat ∧
    (15 < 16 ∧ 48 ≤ 48) ∧ (63 < 64 ∧ 320 ≤ 320) := by decide +kernel

theorem hyp_WriterEntersOrMakesWait :
    up.writerHasPlace = true ∧ { up with writer := List.replicate 32 (.line 0 0) }.writerHasPlace = false ∧
    { up with writer := List.replicate 31 (.line 0 0), waiters := [.slotDone 255 0] }.writer.length < 32 := by decide +kernel

theorem hyp_WriterGrantWritesOldest :
    WindowEntry.emptyEntry.state = .empty ∧ { WindowEntry.emptyEntry with state := .past }.state ≠ .empty ∧
    { up with writer := [.line 16383 7] }.writer = .line 16383 7 :: [] ∧ up.windowTraffic = true ∧
    { up with writer := [.windowRecord 31] }.mayGrant up.windowRank 2 = true := by decide +kernel

theorem hyp_OwnReadServesItsReader :
    { up with ownRead := some ⟨.take 255, .requested, 0⟩ }.mayGrant up.windowRank 2 = true ∧ up.writer = [] ∧
    { up with ownRead := some ⟨.mark, .decoding clean true, 0⟩ }.ownRead = some ⟨.mark, .decoding clean true, 0⟩ := by decide +kernel

/-- Results that fill their 32 bytes, in ascending places. -/
def fullResults : List FieldValue := [⟨32, 1, 7⟩, ⟨33, 30, 1⟩, ⟨63, 1, 255⟩]

theorem hyp_TakeEndHoldsTheOrder :
    255 < 256 ∧ (∀ f ∈ fullResults, 32 ≤ f.off ∧ f.off + f.bytes ≤ 64) ∧
      fullResults.Pairwise (fun f g => f.off + f.bytes ≤ g.off) := by decide

theorem hyp_UndispatchedTakesEnd :
    (taking 255 none).ownRead = some ⟨.take 255, .ended none, 0⟩ ∧ slotStateField (order 0 []) = 1 ∧
      (taking 255 (some (order 0 []))).TakeReads 255 (order 0 []) ∧ slotKind (order 0 []) = 0 ∧
      8 < slotKind (order 9 []) ∧
      slotKind (order 8 []) = 8 ∧ slotStateField 2 ≠ 1 :=
  ⟨rfl, by decide +kernel, ⟨_, rfl, rfl, rfl⟩, by decide +kernel, by decide +kernel, by decide +kernel, by decide +kernel⟩

theorem hyp_LackOfRoom :
    ∃ s : State, s.handOff = none ∧ s.TakeReads 255 (order 1 []) ∧ s.roomAllows (slotKind (order 1 [])) 0 = false :=
  ⟨{ taking 255 (some (order 1 [])) with targeted := List.replicate 4 (probeOrder 0 0) }, rfl, ⟨_, rfl, rfl, rfl⟩, by
    have h : slotKind (order 1 []) = 1 := by decide +kernel
    rw [h]
    simp [State.roomAllows, targetedCapacity]⟩

theorem hyp_TargetedOrderIsQueued :
    (taking 255 (some (order 1 [⟨16, 4, 134217727⟩]))).DispatchDue 255 (order 1 [⟨16, 4, 134217727⟩]) 1 ∧
      (taking 0 (some (order 2 [⟨16, 4, 134217728⟩]))).DispatchDue 0 (order 2 [⟨16, 4, 134217728⟩]) 2 ∧
      lineField (order 1 [⟨16, 4, 134217727⟩]) 16 4 < up.lTotal ∧
      up.lTotal ≤ lineField (order 2 [⟨16, 4, 134217728⟩]) 16 4 :=
  ⟨due _ _ _ (by decide) (by decide +kernel) (by decide +kernel), due _ _ _ (by decide) (by decide +kernel) (by decide +kernel),
    by decide +kernel, by decide +kernel⟩

theorem hyp_RetireRowIsCheckedInOrder :
    (taking 255 (some (order 3 [byteField 16 3, ⟨20, 4, 262143⟩]))).DispatchDue 255 (order 3 [byteField 16 3, ⟨20, 4, 262143⟩]) 3 ∧
      slotMode (order 3 [byteField 16 3, ⟨20, 4, 262143⟩]) = 0 ∧
      lineField (order 3 [byteField 16 3, ⟨20, 4, 262143⟩]) 20 4 = 262143 ∧
      up.rowMigrating 3 262143 = false ∧ up.rowQueued 3 262143 = false ∧ up.waitingCount 3 < up.freeSpares 3 ∧
      slotMode (order 3 [byteField 17 2]) = 2 :=
  ⟨due _ _ _ (by decide) (by decide +kernel) (by decide +kernel), by decide +kernel, by decide +kernel, by decide +kernel,
    by decide +kernel, by decide +kernel, by decide +kernel⟩

theorem hyp_MigrationStartsWithOldest :
    up.migration = none ∧ up.spareState 3 0 = .free ∧
    { up with migrationQueue := [⟨3, 7, .order, some 255⟩] }.migrationQueue = ⟨3, 7, .order, some 255⟩ :: [] ∧
    up.findRemap 3 7 = none ∧
    (withRemap moved).findRemap 1 7 = some moved := by decide +kernel

theorem hyp_RestoreRetiresAtOnce :
    (taking 255 (some (order 3 [byteField 16 3, byteField 17 1]))).DispatchDue 255 (order 3 [byteField 16 3, byteField 17 1]) 3 ∧
      slotMode (order 3 [byteField 16 3, byteField 17 1]) = 1 ∧ up.lowestFree 3 = some 0 ∧
      up.findRemap 3 0 = none ∧ up.waitingCount 3 < up.freeSpares 3 :=
  ⟨due _ _ _ (by decide) (by decide +kernel) (by decide +kernel), by decide +kernel, by decide +kernel, by decide +kernel, by decide +kernel⟩

theorem hyp_MarkOrderMarksDevice :
    (taking 255 (some (order 4 [byteField 16 3, byteField 17 18]))).DispatchDue 255 (order 4 [byteField 16 3, byteField 17 18]) 4 ∧
      up.markCheck (order 4 [byteField 16 3, byteField 17 18]) = none ∧ (up.rankDevices 3).positionOf 18 = some 18 ∧
      (up.rankDevices 3).stateOf 19 = .spare ∧
      up.markCheck (order 4 [byteField 16 3, byteField 17 19]) = some .notInUse ∧
      up.markCheck (order 4 [byteField 16 3, byteField 18 3]) = some .badKind ∧
      slotMode (order 4 [byteField 18 1]) = 1 :=
  ⟨due _ _ _ (by decide) (by decide +kernel) (by decide +kernel), by decide +kernel, by decide +kernel, by decide +kernel,
    by decide +kernel, by decide +kernel, by decide +kernel⟩

theorem hyp_RestoreMarkMovesPosition :
    (taking 255 (some (order 4 [byteField 18 2]))).DispatchDue 255 (order 4 [byteField 18 2]) 4 ∧
      slotMode (order 4 [byteField 18 2]) = 2 ∧
      up.markCheck (order 4 [byteField 18 2]) = none ∧ (up.rankDevices 0).Sound ∧
      (up.rankDevices 0).positionOf 0 = some 0 :=
  ⟨due _ _ _ (by decide) (by decide +kernel) (by decide +kernel), by decide +kernel, by decide +kernel, test_sound_powerOn, by decide +kernel⟩

/-- The part with 8 entries of rank 1 that name one device. -/
def tallied (device : Nat) : State :=
  { up with table := (List.range 8).map fun i => { oneEntry with row := i, devices := addToSet 0 device } }

/-- A marking of device 3 clears the flag of device 2, whose tally has fallen, and keeps those of device 5 and of
rank 0. -/
theorem test_marking_flags :
    let s : State := { tallied 5 with suspects := put (put up.suspects 0 4) 1 0b101100 }
    let t := s.markDevice 1 3 .rebuild .order
    t.isSuspect 1 2 = false ∧ t.isSuspect 1 3 = false ∧ t.isSuspect 1 5 = true ∧ t.isSuspect 0 2 = true := by
  decide +kernel

theorem hyp_MarkingActsAsOne :
    2 ≤ up.policy.markThreshold ∧ (up.rankDevices 3).positionOf 18 = some 18 ∧
      (up.rankDevices 3).stateOf 19 = .spare := by decide +kernel

theorem hyp_SetPolicyClampsAndActs :
    (taking 255 (some (order 5 []))).DispatchDue 255 (order 5 []) 5 ∧
      up.examineAll.journal.coalesce < (clampPolicy (policyOfLine (order 5 []))).coalesceCount ∧
      (clampPolicy (policyOfLine (order 5 []))).coalesceCount ≤
        (State.examineAll { up with journal := { Journal.powerOn with coalesce := 1 } }).journal.coalesce :=
  ⟨due _ _ _ (by decide) (by decide +kernel) (by decide +kernel), by decide +kernel, by decide +kernel⟩

theorem hyp_QuiesceAndResumeSetFlag :
    (taking 255 (some (order 6 []))).DispatchDue 255 (order 6 []) 6 ∧
      (taking 0 (some (order 7 []))).DispatchDue 0 (order 7 []) 7 ∧
      up.noOpenLine = true ∧ up.quiesceSlot = none ∧ { up with quiesceSlot := some 3 }.quiesceSlot = some 3 ∧
      { up with patrolOp := some (targetedAt (.writing poisonContent)) }.noOpenLine = false :=
  ⟨due _ _ _ (by decide) (by decide +kernel) (by decide +kernel), due _ _ _ (by decide) (by decide +kernel) (by decide +kernel),
    rfl, rfl, rfl, rfl⟩

theorem hyp_ExportWritesItsSnapshot :
    (taking 255 (some (order 8 []))).DispatchDue 255 (order 8 []) 8 ∧
      { up with waiters := [.exportLine], writer := List.replicate 31 (.line 0 0) }.mayEnter .exportLine = true ∧
      32 * [oneEntry.fields, oneEntry.fields].length ≤ 64 ∧
      oneEntry.fields.Pairwise (fun f g => f.off + f.bytes ≤ g.off) ∧ ∀ f ∈ oneEntry.fields, f.off + f.bytes ≤ 32 :=
  ⟨due _ _ _ (by decide) (by decide +kernel) (by decide +kernel), by decide +kernel, by decide, by decide, by decide⟩

theorem hyp_ScoredEventUpdatesTable :
    { up with table := [oneEntry] }.findEntry 1 7 = some oneEntry ∧ up.findEntry 1 7 = none ∧
      up.table.length < 1024 := by decide +kernel


theorem hyp_RetireStates :
    { up with policy := { Policy.default with autoRetire := 0 } }.policy.autoRetire ≠ 1 ∧ up.policy.autoRetire = 1 ∧
    { up with spares := Vector.replicate 4 (Vector.replicate 128 .inUse) }.freeSpares 1 ≤ up.waitingCount 1 ∧
    up.waitingCount 1 < up.freeSpares 1 ∧ up.migrationQueue.length < 8 ∧
    8 ≤ (List.replicate 8 (⟨3, 7, .order, none⟩ : Retirement)).length ∧
    up.retireObstacle 1 = none ∧ { up with policy := { Policy.default with autoRetire := 0 } }.retireObstacle 1 ≠ none ∧
    { up with table := [{ oneEntry with retire := .advised }] }.findEntry 1 7 = some { oneEntry with retire := .advised } ∧
    { up with table := [{ oneEntry with score := 64 }] }.findEntry 1 7 = some { oneEntry with score := 64 } ∧
      up.policy.retireThreshold = 64 ∧ oneEntry.score < up.policy.retireThreshold := by decide +kernel

theorem hyp_Suspects :
    up.tally 1 3 < up.policy.markThreshold ∧ (tallied 3).policy.markThreshold ≤ (tallied 3).tally 1 3 ∧
    (tallied 3).isSuspect 1 3 = false ∧ { tallied 3 with suspects := Vector.replicate 4 8 }.isSuspect 1 3 = true ∧
    ((tallied 3).rankDevices 1).stateOf 3 = .active ∧ (tallied 3).policy.autoMark = 1 ∧
      ((tallied 3).rankDevices 1).markedDevice = none ∧
    (tallied 19).policy.markThreshold ≤ (tallied 19).tally 1 19 ∧ ((tallied 19).rankDevices 1).stateOf 19 = .spare ∧
    (marked6 false 0).stateOf 6 = .marked ∧ (marked6 false 0).markedDevice.isSome = true ∧
    { tallied 3 with policy := { Policy.default with autoMark := 0 } }.policy.autoMark ≠ 1 := by decide +kernel

theorem hyp_FullTable :
    1024 ≤ (List.replicate 1024 oneEntry).length ∧
      (∀ e ∈ List.replicate 1024 oneEntry, e.retire = .none → 3 < e.score) := by
  refine ⟨by rw [List.length_replicate], fun e he _ => ?_⟩
  rw [List.eq_of_mem_replicate he]
  decide

/-- A full table whose entries differ in their rows; all but row 0 are PENDING, so row 0's is the victim. -/
theorem hyp_Victim (mk : Nat → FaultEntry)
    (h : ∀ i, mk i = { rank := 1, row := i, score := 4, events := 1, devices := 0, firstSeen := 0, lastSeen := 0,
                       retire := if i = 0 then .none else .pending }) :
    let t := (List.range 1024).map mk
    1024 ≤ t.length ∧ mk 0 ∈ t ∧ (mk 0).retire = .none ∧ (mk 0).score ≤ 4 ∧ t.Nodup ∧
      (∀ e ∈ t, e.retire = .none → e ≠ mk 0 → (mk 0).weaker e = true) := by
  refine ⟨by simp, List.mem_map.2 ⟨0, by simp, rfl⟩, by simp [h], by simp [h], ?_, ?_⟩
  · refine (List.nodup_map_iff fun i j e => ?_).2 List.nodup_range
    have := congrArg FaultEntry.row e
    simpa [h] using this
  · intro e he hr hne
    obtain ⟨i, _, rfl⟩ := List.mem_map.1 he
    by_cases hi : i = 0
    · exact absurd (by rw [hi]) hne
    · simp [h, hi] at hr

theorem hyp_DecayHalvesEveryScore :
    { up with time := 3600000000 }.handOff = none ∧
      hasReached { up with time := 3600000000 }.time up.decayTick = true := by decide +kernel

theorem hyp_ReviewSetsRate :
    up.ready = true ∧ (restartAt .markRead .mark none).ready = false ∧
    1 ≤ up.lTotal - up.patrol.cursor ∧ up.timeLeft / 1000 - up.heldTimeAhead / 1000 = 0 ∧
    { up with patrol := { up.patrol with passEnd := 86400000000 } }.timeLeft / 1000 - up.heldTimeAhead / 1000 = 86400000 ∧
    134217728 * 256 ≤ 398 * 86400000 ∧ 398 * 86400000 < 134217728 * 256 + 86400000 ∧
    134217728 - { up with patrol := { up.patrol with cursor := 134217728 } }.patrol.cursor = 0 := by decide +kernel

theorem hyp_TimeLeft :
    laterThan (1 : PartTime) up.time = true ∧ laterThan up.patrol.passEnd up.time = false ∧
      (State.timeLeft { up with patrol := { up.patrol with passEnd := 1 } }) = 1 := by decide +kernel

/-- The part with a pass that ends at 100, a window over 10 to 60 and one over 50 to 200, both of scope PATROL. -/
def twoWindows : State :=
  ({ up with patrol := { up.patrol with passEnd := 100 } }.setWindow 0
    { state := .armed, scope := 1, start := 10, stop := 60, tag := 0 }).setWindow 31
    { state := .armed, scope := 1, start := 50, stop := 200, tag := 0 }

theorem test_held_time_counted_once : twoWindows.heldTimeAhead = 90 := by decide +kernel

theorem hyp_PaceIntervalAccruesCredit :
    { up with time := 1000 }.nextInterval = some 1000 ∧ hasReached { up with time := 1000 }.time 1000 = true ∧
      isThousandth 1000 = false ∧
    isThousandth 1000000 = true ∧ up.reviewed = false ∧
    up.ready = true ∧ hasReached up.time up.patrol.passEnd = true ∧ up.patrol.cursor < up.lTotal ∧
      up.patrol.late = false ∧
    up.held .patrol = false ∧ up.policy.patrolEnable = 1 := by decide +kernel

theorem hyp_PatrolVisitReadsAndRepairs :
    owing.patrolRequests = true ∧ owing.mayGrant (rankOf owing.patrol.cursor) 8 = true ∧
      { up with patrolOp := some (targetedAt (.writing poisonContent)) }.mayGrant 0 8 = true ∧
      (up.rankDevices 0).Sound ∧ up.MemoriesCanonical ∧
      { up with patrol := { up.patrol with cursor := 134217727 } }.patrol.cursor + 1 = up.lTotal ∧
      up.patrol.passNumber < 4294967295 :=
  ⟨by decide +kernel, by decide +kernel, by decide +kernel, test_sound_powerOn, ⟨rfl, rfl, rfl⟩, by decide +kernel, by decide +kernel⟩

theorem hyp_ScrubVisitsItsRange :
    (withOrder .scrubRange).targetedRequest = some (queued .scrubRange) ∧
      (withOrder .scrubRange).mayGrant 0 7 = true ∧
      (visiting .scrubRange (.decoding clean)).orderUnderWay =
        some (queued .scrubRange) ∧
      (visiting .scrubRange (.writing poisonContent)).mayGrant 0 7 = true ∧
      (up.rankDevices 0).Sound ∧ up.MemoriesCanonical ∧
      (withOrder .scrubRange).orderOf 255 = some (queued .scrubRange) :=
  ⟨by decide +kernel, by decide +kernel, by decide +kernel, by decide +kernel, test_sound_powerOn, ⟨rfl, rfl, rfl⟩,
    by decide +kernel⟩

theorem hyp_ProbeReportsWithoutWriting :
    (withOrder .probeLine).targetedRequest = some (queued .probeLine) ∧
    (withOrder .probeLine).mayGrant 0 4 = true ∧
    (visiting .probeLine (.decoding clean)).orderUnderWay =
      some (queued .probeLine) := by decide +kernel

/-- A migration of rank 0, row 0 onto spare row 127, at a column. -/
def entryAt (cursor : Nat) : RemapEntry :=
  { rank := 0, row := 0, spare := 127, earlier := none, state := .migrating, cursor := cursor, origin := .order }

/-- The part with that migration in progress. -/
def copying (cursor : Nat) : State :=
  { up with
    remaps := [entryAt cursor],
    migration := some { rank := 0, row := 0, origin := .order, slot := some 255, corrected := 0, deepCorrected := 0,
                        uncorrectable := 0, poisoned := 0, copiesDropped := 0 } }

theorem hyp_CopyMovesOneColumn :
    (copying 127).migrationRequest = some (entryAt 127) ∧ (copying 127).mayGrant 0 5 = true ∧
      { copying 127 with migrationOp := some (targetedAt (.writing poisonContent)) }.migratingEntry = some (entryAt 127) ∧
      { copying 127 with migrationOp := some (targetedAt (.writing poisonContent)) }.mayGrant 0 5 = true ∧
      (up.rankDevices 0).Sound ∧ up.MemoriesCanonical ∧ (entryAt 126).cursor + 1 < 128 ∧
      128 ≤ (entryAt 127).cursor + 1 :=
  ⟨by decide +kernel, by decide +kernel, by decide +kernel, by decide +kernel, test_sound_powerOn, ⟨rfl, rfl, rfl⟩, by decide,
    by decide⟩

/-- The part with a rebuild of rank 0 in flight. -/
def rebuilding : State := up.setRankDevices 0 (marked6 true 1000000)

theorem hyp_RebuildRewritesOneLine :
    rebuilding.currentChoice = some 0 ∧ rebuilding.mayGrant 0 6 = true ∧ (rebuilding.rankDevices 0).cursor = 1000000 ∧
      { rebuilding with rebuildOp := some (targetedAt (.writing poisonContent)) }.mayGrant 0 6 = true ∧
      (rebuilding.rankDevices 0).Sound ∧ rebuilding.MemoriesCanonical ∧
      (rebuilding.rankDevices 0).markedDevice = some 6 ∧
      (rebuilding.rankDevices 0).positionOf 6 = some 6 ∧ 33570816 ≤ 262271 * 128 + 127 + 1 ∧
      262271 * 128 + 126 + 1 < 33570816 :=
  ⟨by decide +kernel, by decide +kernel, by decide +kernel, by decide +kernel, test_sound_rebuilding, ⟨rfl, rfl, rfl⟩,
    by decide +kernel, by decide +kernel, by decide, by decide⟩

theorem hyp_RecordIsPublishedStagedOrHeld :
    up.journal.staging = [] ∧ up.writerHasPlace = true ∧ up.roomFor .corrected = true ∧
    (withPublished 991).journalFree = 33 ∧ (withPublished 991).journal.roomArmed = true ∧
      (withPublished 991).roomFor .corrected = true ∧
    (withPublished 992).journalFree ≤ 32 ∧ RecordKind.corrected.isCorrectedKind = true ∧
    (withPublished 1024).journalFree = 0 ∧ RecordKind.uncorrectable.isCorrectedKind = false ∧
    up.journal.coalesce + 1 < up.policy.coalesceCount ∧ up.policy.coalesceCount ≤ 7 + 1 ∧
    15 < 16 ∧ 16 ≤ (List.replicate 16 (up.absorbRecord 0)).length := by decide +kernel

theorem hyp_StagingAndTimersAct :
    { up with journal := { Journal.powerOn with staging := [up.absorbRecord 0] }, waiters := [.journal] }.mayEnter .journal = true ∧
    up.roomFor (up.absorbRecord 0).kind = true ∧
    (withPublished 992).journalFree ≤ 32 ∧
    { up with journal := { Journal.powerOn with holdoff := some 0, statusTimer := some 0 } }.journal.holdoff = some 0 ∧ hasReached up.time 0 = true ∧
    { up with waiters := [.status], writer := List.replicate 30 (.line 0 0) }.writer.length + 2 ≤ 32 := by decide +kernel

/-- The hypotheses of the arbiter's statement: requests and choices that stand, and grants that are not to be given. -/
theorem hyp_ArbiterGrantsByPrecedence :
    rebuilding.ready = true ∧ rebuilding.held .rebuild = false ∧ rebuilding.counts.rebuild < rebuilding.counts.limit ∧
      rebuilding.rebuildOp = none ∧
    (0 < rebuilding.ranks ∧ (rebuilding.rankDevices 0).inFlight = true ∧ (rebuilding.rankDevices 0).cursor < 33570816) ∧
    { rebuilding with rebuildChoice := some 0 }.rebuildChoice = some 0 ∧ (rebuilding.lastRebuilt + 1 + 0) % 4 = 0 ∧
      rebuilding.rebuildChoice = none ∧
    (up.setAccess 0 (.merging 0 1 1 clean false)).mayGrant 0 1 = false ∧ up.windowRank = 0 ∧
    (up.setAccess 0 (.readWaits 9)).mayGrant 0 2 = false ∧ (up.setAccess 0 (.readWaits 9)).mayGrant 0 3 = false ∧
    ((withOrder .scrubRange).setAccess 0 (.readWaits 9)).targetedRequest = some (queued .scrubRange) ∧
      ((withOrder .scrubRange).setAccess 0 (.readWaits 9)).mayGrant 0 7 = false ∧
    ((copying 127).setAccess 0 (.readWaits 9)).migrationRequest = some (entryAt 127) ∧
      ((copying 127).setAccess 0 (.readWaits 9)).mayGrant 0 5 = false ∧
    (rebuilding.setAccess 0 (.readWaits 9)).currentChoice = some 0 ∧
      (rebuilding.setAccess 0 (.readWaits 9)).mayGrant 0 6 = false ∧
    up.patrolRequests = false ∧ (owing.setAccess 0 (.readWaits 9)).mayGrant 0 8 = false ∧
    ((visiting .scrubRange (.writing poisonContent)).setAccess 0 (.readWaits 9)).orderUnderWay =
      some (queued .scrubRange) := by decide +kernel

theorem hyp_HoldoffStarts :
    up.journal.staging = [] ∧ up.writerHasPlace = true ∧ up.roomFor .corrected = true ∧ up.journal.coalesce = 0 ∧
      up.journal.coalesce + 1 < up.policy.coalesceCount ∧
    { up with journal := { Journal.powerOn with coalesce := 6 } }.journal.coalesce ≠ 0 ∧
      { up with journal := { Journal.powerOn with coalesce := 6 } }.journal.coalesce + 1 < up.policy.coalesceCount ∧
      up.policy.coalesceCount ≤ { up with journal := { Journal.powerOn with coalesce := 7 } }.journal.coalesce + 1 ∧
    State.mayEnter { up with waiters := [.journal] } .journal = true := by decide +kernel

theorem test_holdoff_starts :
    (up.handPlain (.deviceSuspect 8) none 0 0 [3]).journal.holdoff = some 1000 := by decide +kernel

theorem hyp_StepsKeepMemoryCanonical :
    State.reset.MemoriesCanonical ∧ ∃ t, step State.reset = .next t :=
  ⟨⟨rfl, rfl, rfl⟩, _, rfl⟩

theorem hyp_StepsKeepQueuesBounded :
    State.reset.QueuesBounded ∧ State.reset.JournalInRange ∧ (busy.setArrivals 0 [.read 9]).AccessesInOrder :=
  ⟨⟨by decide, by decide, by decide, by decide, by decide⟩, by unfold State.JournalInRange; decide, by
    unfold State.AccessesInOrder; decide +kernel⟩

/-- Slot mirrors of which the first `n` are held TAKEN. -/
def heldSlots (n : Nat) : Vector SlotMirror 256 :=
  Vector.ofFn fun i => { SlotMirror.freeMirror with state := if i.val < n then .taken else .free }

theorem hyp_SlotsHeld :
    State.SlotsHeldInRange { up with slots := heldSlots 14 } ∧
      State.SlotsHeldInRange { up with slots := heldSlots 14, ownRead := some ⟨.take 13, .requested, 0⟩ } :=
  ⟨⟨by decide +kernel, fun h => by cases h⟩, by decide +kernel, fun _ => by decide +kernel⟩

theorem hyp_WriteBacksDistinct : State.WriteBacksDistinct { up with writeBacks := [⟨5, none⟩, ⟨134217727, some 1⟩] } := by
  unfold State.WriteBacksDistinct; decide

theorem hyp_PassInRange :
    State.PassInRange { up with patrol := { up.patrol with cursor := 134217727, passNumber := 4294967295 } } := by
  unfold State.PassInRange; decide +kernel

theorem reset_spares (r i : Nat) : State.reset.spareState r i ≠ .inUse := by
  unfold State.spareState nth
  show ((((Vector.replicate 4 (Vector.replicate 128 SpareState.free))[r]?).getD _)[i]?).getD _ ≠ _
  rw [Vector.getElem?_replicate]
  split
  · rw [Option.getD_some, Vector.getElem?_replicate]; split <;> decide
  · rw [Option.getD_none, Vector.getElem?_replicate]; split <;> decide

theorem reset_sound : State.reset.RemapsSound ∧ State.reset.RetirementsSound :=
  ⟨⟨List.nodup_nil, List.nodup_nil, fun r i => ⟨fun h => absurd h (reset_spares r i), fun h => nomatch h⟩,
    fun _ h => (nomatch h), fun _ h => (nomatch h)⟩,
   ⟨List.nodup_nil, fun _ h => (nomatch h), fun _ => Nat.zero_le _, fun _ => rfl, fun _ h => (nomatch h)⟩⟩

/-- A state with one migration in progress and a retirement of another row waiting is sound. -/
theorem hyp_StepsKeepRetirements :
    ∃ s : State, s.RemapsSound ∧ s.RetirementsSound ∧ s.migration.isSome = true ∧ s.migrationQueue.length = 1 ∧
      s.spareState 3 0 = .inUse := by
  obtain ⟨h1, h2⟩ := State.admitRetirement_sound reset_sound.1 reset_sound.2 ⟨3, 7, .order, some 255⟩ (by decide)
    (by decide +kernel) (by decide +kernel) (by decide +kernel)
  obtain ⟨h3, h4⟩ := State.admitRetirement_sound h1 h2 ⟨3, 262143, .auto, none⟩ (by decide)
    (by decide +kernel) (by decide +kernel) (by decide +kernel)
  exact ⟨_, h3, h4, by decide +kernel, by decide +kernel, by decide +kernel⟩

theorem hyp_StepsKeepRanges :
    State.reset.PacerInRange ∧ State.reset.TableSound :=
  ⟨⟨by unfold State.PolicyInRange; decide +kernel, by decide, by decide, by decide, by decide⟩, by decide, by decide, by decide⟩

theorem hyp_StepsKeepDevicesSound :
    ∃ s : State, s.DevicesSound ∧ s.rebuildOp = some (targetedAt (.writing poisonContent)) :=
  ⟨{ rebuilding with rebuildOp := some (targetedAt (.writing poisonContent)) }, ⟨fun r hr => by
    interval_cases r
    · exact test_sound_rebuilding
    · exact test_sound_powerOn
    · exact test_sound_powerOn
    · exact test_sound_powerOn, fun op h => by
    cases h
    exact ⟨by decide, rfl⟩⟩, rfl⟩

end Sys2Proof.Tests
end

section
/-! PROOFS. The array: the resolver, placement, the decoder's class, and a write granted to a host line. -/

namespace Sys2Proof.Machine

/-! ## The resolver (R3) -/

theorem State.servingRow_none {s : State} {rank row : Nat} (column : Nat) (h : s.findRemap rank row = none) :
    s.servingRow rank row column = row := by
  simp only [State.servingRow, h]

theorem State.servingRow_active {s : State} {rank row : Nat} (column : Nat) {e : RemapEntry}
    (h : s.findRemap rank row = some e) (ha : e.state = .active) :
    s.servingRow rank row column = spareRow e.spare := by
  simp only [State.servingRow, h, ha]

theorem State.servingRow_migrating {s : State} {rank row : Nat} (column : Nat) {e : RemapEntry}
    (h : s.findRemap rank row = some e) (hm : e.state = .migrating) :
    s.servingRow rank row column = if column < e.cursor then spareRow e.spare else e.oldRow := by
  simp only [State.servingRow, h, hm]

/-- The remap entry found for a host row is of that row. -/
theorem State.findRemap_key {s : State} {rank row : Nat} {e : RemapEntry} (h : s.findRemap rank row = some e) :
    e.rank = rank ∧ e.row = row := by
  have := List.find?_some h
  simpa using this

/-- Settles O9: each remap state of the row is one branch of the resolver. -/
theorem resolverFollowsRemapState : Obligations.ResolverFollowsRemapState := by
  intro s rank row column
  refine ⟨State.servingRow_none column, fun e h ha => State.servingRow_active column h ha, fun e h hm hc => ?_,
    fun e h hm hc he => ?_, fun e i h hm hc he => ?_⟩
  · rw [State.servingRow_migrating column h hm, if_pos hc]
    rfl
  · rw [State.servingRow_migrating column h hm, if_neg (Nat.not_lt.2 hc), RemapEntry.oldRow, he]
    exact (State.findRemap_key h).2
  · rw [State.servingRow_migrating column h hm, if_neg (Nat.not_lt.2 hc), RemapEntry.oldRow, he]
    rfl

/-! ## Placement (R6, R7) -/

/-- The device a position is read from. -/
theorem RankDevices.readFrom_getElem? (r : RankDevices) (index : Nat) {p : Nat} (hp : p < 19) :
    (r.readFrom index)[p]? =
      some (if r.rebuilt index = true ∧ r.markedPosition = some p then 19 else r.carrier p) := by
  simp [RankDevices.readFrom, Config.positions, hp]

theorem RankDevices.markedPosition_none {r : RankDevices} (h : r.markedDevice = none) : r.markedPosition = none := by
  simp [RankDevices.markedPosition, h]

/-- In a sound map the position a device carries is the one found for it. -/
theorem RankDevices.positionOf_carrier {r : RankDevices} (h : r.Sound) {m : Nat} (hm : m < 19) :
    r.positionOf (r.carrier m) = some m := by
  refine firstBelow_eq_some.2 ⟨hm, by simp, fun j hj => ?_⟩
  have hne : r.carrier j ≠ r.carrier m := fun e => absurd (r.carrier_inj h (Nat.lt_trans hj hm) hm e) (Nat.ne_of_lt hj)
  simpa using hne

theorem RankDevices.markedPosition_carrier {r : RankDevices} (h : r.Sound) {m : Nat} (hm : m < 19)
    (hd : r.markedDevice = some (r.carrier m)) : r.markedPosition = some m := by
  rw [RankDevices.markedPosition, hd]
  exact r.positionOf_carrier h hm

/-- A position that is not the marked one is written to, and read from, the device that carries it. -/
theorem RankDevices.placed_on_carrier {r : RankDevices} (index : Nat) {p : Nat} (hp : p < 19)
    (h : r.markedPosition ≠ some p) :
    (∀ x, (p, x) ∈ r.writeTo index ↔ x = r.carrier p) ∧ (r.readFrom index)[p]? = some (r.carrier p) := by
  refine ⟨fun x => ?_, ?_⟩
  · simp [r.mem_writeTo, hp, h]
  · simp [r.readFrom_getElem? index hp, h]

/-- Where the marked position is written and read, by the rebuild and its cursor. -/
theorem RankDevices.marked_placed {r : RankDevices} (index : Nat) {m : Nat} (hm : m < 19)
    (h : r.markedPosition = some m) :
    (∀ x, (m, x) ∈ r.writeTo index ↔
      if r.inFlight = true then x = 19 ∨ (r.cursor ≤ index ∧ x = r.carrier m) else x = r.carrier m) ∧
    (r.readFrom index)[m]? = some (if r.rebuilt index = true then 19 else r.carrier m) ∧
    r.markedFor index = if r.rebuilt index = true then none else some m := by
  refine ⟨fun x => ?_, ?_, ?_⟩
  · simp [r.mem_writeTo, hm, h]
  · simp [r.readFrom_getElem? index hm, h]
  · simp [RankDevices.markedFor, h]

theorem RankDevices.rebuilt_iff (r : RankDevices) (index : Nat) :
    r.rebuilt index = true ↔ r.inFlight = true ∧ index < r.cursor := by
  simp [RankDevices.rebuilt]

/-- Settles O10: the marked position is the only one whose place depends on the rebuild and its cursor. -/
theorem rebuildCursorDividesTheRank : Obligations.RebuildCursorDividesTheRank := by
  intro r index hr
  refine ⟨fun hn => ?_, fun d m hm hd hmd => ?_⟩
  · have hp := r.markedPosition_none hn
    exact ⟨by simp [RankDevices.markedFor, hp], fun p hp19 => r.placed_on_carrier index hp19 (by simp [hp])⟩
  · subst hd
    have hp := r.markedPosition_carrier hr hm hmd
    obtain ⟨hw, hrd, hf⟩ := r.marked_placed index hm hp
    refine ⟨fun h => ?_, fun h hc => ?_, fun h hc => ?_, fun p hp19 hne => ?_⟩
    · have hb : ¬ r.rebuilt index = true := by simp [r.rebuilt_iff, h]
      exact ⟨fun x => by simp [hw, h], by rw [hrd, if_neg hb], by rw [hf, if_neg hb]⟩
    · have hb : r.rebuilt index = true := (r.rebuilt_iff index).2 ⟨h, hc⟩
      exact ⟨fun x => by simp [hw, h, Nat.not_le.2 hc], by rw [hrd, if_pos hb], by rw [hf, if_pos hb]⟩
    · have hb : ¬ r.rebuilt index = true := fun h' => absurd ((r.rebuilt_iff index).1 h').2 (Nat.not_lt.2 hc)
      exact ⟨fun x => by simp [hw, h, hc, or_comm], by rw [hrd, if_neg hb], by rw [hf, if_neg hb]⟩
    · exact r.placed_on_carrier index hp19 fun e => hne (Option.some.inj (e.symm.trans hp))

/-! ## The class of a decode (R8 to R12) -/

/-- The damaged positions are those whose slice as read differs from the slice the encoder wrote. -/
theorem State.mem_damagedSet (s : State) (rank row column p : Nat) :
    p ∈ s.damagedSet rank row column ↔ p < 19 ∧
      ∃ x, ((s.rankDevices rank).readFrom (physIndex row column))[p]? = some x ∧
        s.storedSlice rank (physIndex row column) x ≠ encodeSlice (s.contentAt rank (physIndex row column)) p := by
  unfold State.damagedSet
  rw [List.mem_filter, List.mem_range]
  refine and_congr_right fun hp => ?_
  rw [RankDevices.readFrom_getElem? _ _ hp]
  simp

theorem State.damagedSet_ascending (s : State) (rank row column : Nat) :
    (s.damagedSet rank row column).Pairwise (· < ·) :=
  List.Pairwise.filter _ List.pairwise_lt_range

theorem Decode.classify_poison {d : Decode} (h : d.content.poison = true) : d.classify = d.classifyPoison := by
  simp [Decode.classify, h]

theorem Decode.classify_plain {d : Decode} (h : d.content.poison = false) (hm : d.marked = none) :
    d.classify = d.classifyPlain := by
  simp [Decode.classify, h, hm]

theorem Decode.classify_marked {d : Decode} {m : Nat} (h : d.content.poison = false) (hm : d.marked = some m) :
    d.classify = d.classifyMarked m := by
  simp [Decode.classify, h, hm]

/-- Two or more damaged positions without a marked one call for the hypothesis search. -/
theorem Decode.classifyPlain_search {d : Decode} (h : 2 ≤ d.damaged.length) : d.classifyPlain = d.search := by
  unfold Decode.classifyPlain
  split
  · next e => simp [e] at h
  · next e => simp [e] at h
  · rfl

/-- With no suspect no hypothesis succeeds. -/
theorem Decode.search_of_no_suspects {d : Decode} (h : d.suspects = []) : d.search = d.lost .uncorrectable 0 := by
  have hn : d.firstSuccess = none := by simp [Decode.firstSuccess, h, firstBelow]
  simp [Decode.search, hn, h]

/-- Two or more damaged positions beside the marked one are more than the code corrects. -/
theorem Decode.classifyMarked_lost {d : Decode} {m : Nat}
    (h : 2 ≤ (d.damaged.filter fun x => decide (x ≠ m)).length) : d.classifyMarked m = d.lost .uncorrectable 0 := by
  unfold Decode.classifyMarked
  split
  · next e => rw [e] at h; simp at h
  · next e => rw [e] at h; simp at h
  · rfl

/-- A result either carries the line's data, in a class that gives data, or carries nothing, in one that gives none. -/
def Decode.Answers (d : Decode) (r : DecodeResult) : Prop :=
  (∃ c ps t, r = d.recovered c ps t ∧ c.hasData = true) ∨ ∃ c t, r = d.lost c t ∧ c.hasData = false

theorem Decode.search_answers (d : Decode) : d.Answers d.search := by
  unfold Decode.search
  split
  · exact .inr ⟨_, _, rfl, rfl⟩
  · exact .inl ⟨_, _, _, rfl, rfl⟩

theorem Decode.classifyPlain_answers (d : Decode) : d.Answers d.classifyPlain := by
  unfold Decode.classifyPlain
  split
  · exact .inl ⟨_, _, _, rfl, rfl⟩
  · exact .inl ⟨_, _, _, rfl, rfl⟩
  · exact d.search_answers

theorem Decode.classifyMarked_answers (d : Decode) (m : Nat) : d.Answers (d.classifyMarked m) := by
  unfold Decode.classifyMarked
  split
  · split
    · exact .inl ⟨_, _, _, rfl, rfl⟩
    · exact .inl ⟨_, _, _, rfl, rfl⟩
  · exact .inl ⟨_, _, _, rfl, rfl⟩
  · exact .inr ⟨_, _, rfl, rfl⟩

theorem Decode.classify_answers (d : Decode) : d.Answers d.classify := by
  unfold Decode.classify
  split
  · unfold Decode.classifyPoison
    split
    · exact .inr ⟨_, _, rfl, rfl⟩
    · exact .inr ⟨_, _, rfl, rfl⟩
  · split
    · exact d.classifyPlain_answers
    · exact d.classifyMarked_answers _

/-- The class of a decode says whether its result has data. -/
theorem Decode.classify_data (d : Decode) :
    (d.classify.cls.hasData = true → d.classify.data = some d.content.data) ∧
    (d.classify.cls.hasData = false → d.classify.data = none ∧ d.classify.devices = []) := by
  rcases d.classify_answers with ⟨c, ps, t, e, hc⟩ | ⟨c, t, e, hc⟩
  · rw [e]
    exact ⟨fun _ => rfl, fun h => absurd (hc.symm.trans h) (by decide)⟩
  · rw [e]
    exact ⟨fun h => absurd (hc.symm.trans h) (by decide), fun _ => ⟨rfl, rfl⟩⟩

/-- Settles O11: the damaged set read off its definition, then the table of R12 row by row. -/
theorem decodeClassFollowsDamage : Obligations.DecodeClassFollowsDamage := by
  refine ⟨fun s rank row column host budget =>
    ⟨rfl, fun p => s.mem_damagedSet rank row column p, s.damagedSet_ascending rank row column, fun h => rfl⟩, fun d => ?_⟩
  refine ⟨fun hp hl => ?_, fun hp hl => ?_, fun hp hm hd => ?_, fun p hp hm hd => ?_, fun hp hm hl hs => ?_,
    fun m hp hm hd => ?_, fun m hp hm hd => ?_, fun m p hp hm hd => ?_, fun m hp hm hl => ?_,
    d.classify_data.1, d.classify_data.2⟩
  · rw [Decode.classify_poison hp, Decode.classifyPoison, if_pos hl]
    rfl
  · rw [Decode.classify_poison hp, Decode.classifyPoison, if_neg (by omega)]
    rfl
  · rw [Decode.classify_plain hp hm, Decode.classifyPlain, hd]
    rfl
  · rw [Decode.classify_plain hp hm, Decode.classifyPlain, hd]
    exact ⟨rfl, rfl⟩
  · rw [Decode.classify_plain hp hm, Decode.classifyPlain_search hl, Decode.search_of_no_suspects hs]
    exact ⟨rfl, rfl⟩
  · rw [Decode.classify_marked hp hm, Decode.classifyMarked, hd]
    rfl
  · rw [Decode.classify_marked hp hm]
    simp [Decode.classifyMarked, hd, Decode.recovered]
  · rw [Decode.classify_marked hp hm, Decode.classifyMarked, hd]
    exact ⟨rfl, rfl⟩
  · rw [Decode.classify_marked hp hm, Decode.classifyMarked_lost hl]
    rfl

end Sys2Proof.Machine
end

section
/-! PROOFS. A write granted to a host line: the line, or the two lines, it stores, and its effects made once. -/

namespace Sys2Proof.Machine

/-! ## What is stored depends on the array alone -/

theorem Memory.readBytes_congr {m m' : Memory} {a n : Nat}
    (h : ∀ b, a ≤ b → b < a + n → Memory.read m b = Memory.read m' b) :
    Memory.readBytes m a n = Memory.readBytes m' a n := by
  induction n generalizing a with
  | zero => rfl
  | succ n ih =>
    rw [Memory.readBytes, Memory.readBytes, h a (Nat.le_refl a) (by omega), ih fun b hb hn => h b (by omega) (by omega)]

theorem State.storedSlice_congr {t u : State} {rank index device : Nat}
    (h : ∀ a, sliceAddress rank index device ≤ a → a < sliceAddress rank index device + 4 →
      u.cells.read a = t.cells.read a) : u.storedSlice rank index device = t.storedSlice rank index device := by
  rw [State.storedSlice, State.storedSlice, Memory.readBytes_congr h]

theorem State.contentAt_congr_read {t u : State} {rank index : Nat}
    (hw : ∀ a, contentByte rank index a → u.written.read a = t.written.read a)
    (hp : u.poisoned.read (lineKey rank index) = t.poisoned.read (lineKey rank index)) :
    u.contentAt rank index = t.contentAt rank index := by
  rw [State.contentAt, State.contentAt, Memory.readBytes_congr fun b h h' => hw b ⟨h, h'⟩, hp]

/-- What a line write stores is read off the three memories. -/
theorem State.LineStored.of_sameArray {s t u : State} {rank row column : Nat} {c : Content}
    (h : s.LineStored t rank row column c) (e : t.SameArray u) : s.LineStored u rank row column c := by
  obtain ⟨hc, hw, hp⟩ := e
  obtain ⟨⟨hs, hcont⟩, h1, h2, h3⟩ := h
  refine ⟨⟨fun x hx => ?_, ?_⟩, ?_, ?_, ?_⟩
  · rw [← hs x hx, State.storedSlice, State.storedSlice, hc]
  · rw [← hcont, State.contentAt_congr rank _ hw hp]
  · rw [hc]; exact h1
  · rw [hw]; exact h2
  · rw [hp]; exact h3

theorem State.TwoLinesStored.of_sameArray {s t u : State} {rank row row' column : Nat} {c : Content}
    (h : s.TwoLinesStored t rank row row' column c) (e : t.SameArray u) :
    s.TwoLinesStored u rank row row' column c := by
  obtain ⟨hc, hw, hp⟩ := e
  obtain ⟨⟨hs, hcont⟩, ⟨hs', hcont'⟩, h1, h2, h3⟩ := h
  have slice : ∀ index device, u.storedSlice rank index device = t.storedSlice rank index device := fun index device => by
    rw [State.storedSlice, State.storedSlice, hc]
  have content : ∀ index, u.contentAt rank index = t.contentAt rank index := fun index =>
    State.contentAt_congr rank index hw hp
  refine ⟨⟨fun x hx => (slice _ _).trans (hs x hx), (content _).trans hcont⟩,
    ⟨fun x hx => (slice _ _).trans (hs' x hx), (content _).trans hcont'⟩, ?_, ?_, ?_⟩
  · rw [hc]; exact h1
  · rw [hw]; exact h2
  · rw [hp]; exact h3

/-! ## Two line writes in one rank -/

/-- In a sound map a line write puts slices on the rank's 20 devices only. -/
theorem RankDevices.writeTo_device_lt {r : RankDevices} (h : r.Sound) {index : Nat} {x : Nat × Nat}
    (hx : x ∈ r.writeTo index) : x.2 < 20 := by
  obtain ⟨-, -, hlt, -⟩ := h
  obtain ⟨hp, hx⟩ := (r.mem_writeTo index x).1 hx
  have hcarrier := hlt _ (r.carrier_mem x.1 hp)
  split at hx
  · rcases hx with hx | ⟨-, hx⟩
    · omega
    · omega
  · omega

/-- A slice of one physical line shares no byte with what a write to another line of the rank places. -/
theorem State.not_sliceByte_of_ne {s : State} {rank index index' d a : Nat} (h : (s.rankDevices rank).Sound) (hd : d < 20)
    (hne : index ≠ index') (ha : sliceAddress rank index d ≤ a) (ha' : a < sliceAddress rank index d + 4) :
    ¬ s.sliceByte rank index' a := by
  rintro ⟨x, hx, h1, h2⟩
  have hx20 := RankDevices.writeTo_device_lt h hx
  simp only [sliceAddress, lineKey, Config.devicesPerRank] at *
  omega

theorem not_contentByte_of_ne {rank index index' a : Nat} (hne : index ≠ index') (ha : contentByte rank index a) :
    ¬ contentByte rank index' a := by
  simp only [contentByte, lineKey] at *
  omega

/-- A write to another physical line of the rank leaves the line held. -/
theorem State.HoldsLine.kept {s t u : State} {rank index row column : Nat} {c c' : Content}
    (h : s.HoldsLine t rank index c) (hs : (s.rankDevices rank).Sound) (hd : t.rankDevices rank = s.rankDevices rank)
    (hne : index ≠ physIndex row column) (hu : t.LineStored u rank row column c') : s.HoldsLine u rank index c := by
  obtain ⟨hslices, hcontent⟩ := h
  obtain ⟨-, hcells, hwritten, hpoisoned⟩ := hu
  have ht : (t.rankDevices rank).Sound := hd ▸ hs
  refine ⟨fun x hx => ?_, ?_⟩
  · rw [State.storedSlice_congr fun a h1 h2 => hcells a
      (State.not_sliceByte_of_ne ht (RankDevices.writeTo_device_lt hs hx) hne h1 h2)]
    exact hslices x hx
  · rw [State.contentAt_congr_read (fun a ha => hwritten a (not_contentByte_of_ne hne ha))
      (hpoisoned _ (by simpa [lineKey] using hne))]
    exact hcontent

theorem State.HoldsLine.of_devices {s t u : State} {rank index : Nat} {c : Content} (h : t.HoldsLine u rank index c)
    (hd : t.rankDevices rank = s.rankDevices rank) : s.HoldsLine u rank index c := by
  rw [State.HoldsLine, ← hd]
  exact h

/-- One line write after another, in one rank and column. -/
theorem State.LineStored.followedBy {s t u : State} {rank row row' column : Nat} {c : Content}
    (h : s.LineStored t rank row column c) (h' : t.LineStored u rank row' column c)
    (hs : (s.rankDevices rank).Sound) (hd : t.rankDevices rank = s.rankDevices rank) :
    s.TwoLinesStored u rank row row' column c := by
  have held : s.HoldsLine u rank (physIndex row column) c := by
    by_cases hrow : physIndex row column = physIndex row' column
    · rw [hrow]
      exact h'.1.of_devices hd
    · exact h.1.kept hs hd hrow h'
  obtain ⟨hold', hc', hw', hp'⟩ := h'
  obtain ⟨-, hc, hw, hp⟩ := h
  refine ⟨held, hold'.of_devices hd, fun a h1 h2 => ?_, fun a h1 h2 => ?_, fun a h1 h2 => ?_⟩
  · rw [hc' a (by rw [State.sliceByte, hd]; exact h2), hc a h1]
  · rw [hw' a h2, hw a h1]
  · rw [hp' a h2, hp a h1]

/-! ## The write of a host line -/

/-- A line write leaves the device maps. -/
theorem State.writeLine_rankDevices (s : State) (rank row column : Nat) (c : Content) (r : Nat) :
    (s.writeLine rank row column c).rankDevices r = s.rankDevices r := by
  obtain ⟨m, w, p, h⟩ := s.writeLine_frame rank row column c
  rw [h]
  rfl

theorem State.hostLineWrites_plain {s : State} {host : Nat} (c : Content) (h : s.copyHost ≠ some host) :
    s.hostLineWrites host c =
      s.writeLine (rankOf host) (s.servingRow (rankOf host) (rowOf host) (columnOf host)) (columnOf host) c := by
  simp only [State.hostLineWrites, if_neg h]

theorem State.hostLineWrites_copy {s : State} {host : Nat} (c : Content) {e : RemapEntry}
    (h : s.copyHost = some host) (he : s.findRemap (rankOf host) (rowOf host) = some e) :
    s.hostLineWrites host c =
      ((s.writeLine (rankOf host) (s.servingRow (rankOf host) (rowOf host) (columnOf host)) (columnOf host) c).writeLine
        (rankOf host) (spareRow e.spare) (columnOf host) c).closeOthersOn (rankOf host) (spareRow e.spare)
          (columnOf host) := by
  simp only [State.hostLineWrites, if_pos h, he]

/-- Beyond its line writes, a host write leaves the array as it is. -/
theorem State.hostWrite_sameArray (s : State) (host : Nat) (c : Content) :
    (s.hostLineWrites host c).SameArray (s.hostWrite host c) := ⟨rfl, rfl, rfl⟩

/-- The record of an engine that names the host line is closed by a write to it. -/
theorem closeIf_names_closed {host : Nat} {o : Option OpenLine} (h : o.bind OpenLine.host = some host) :
    ∀ op, closeIf (fun r => r.names host) o = some op → op.isOpen = false := by
  intro op hop
  obtain ⟨r, rfl, hr⟩ := Option.bind_eq_some_iff.1 h
  simp only [closeIf, Option.map_some, Option.some.injEq, OpenLine.names, hr, decide_true, Bool.and_true] at hop
  subst hop
  split
  · rfl
  · next hclosed => simpa using hclosed

theorem State.markStale_ownRead_decoding {s : State} (host : Nat) {o : OwnRead} {d : Decode} {stale : Bool}
    (ho : s.ownRead = some o) (hd : o.stage = .decoding d stale) :
    (s.markStale host).ownRead = some { o with stage := .decoding d (stale || decide (d.host = some host)) } := by
  simp only [State.markStale, ho, Option.map_some, hd]

/-- Only an own read that is being decoded becomes stale. -/
theorem State.markStale_ownRead_other {s : State} (host : Nat)
    (h : ∀ o d stale, s.ownRead = some o → o.stage ≠ .decoding d stale) : (s.markStale host).ownRead = s.ownRead := by
  cases ho : s.ownRead with
  | none => simp only [State.markStale, ho, Option.map_none]
  | some o =>
    cases hs : o.stage with
    | requested => simp only [State.markStale, ho, Option.map_some, hs]
    | decoding d stale => exact absurd hs (h o d stale ho)
    | ended line => simp only [State.markStale, ho, Option.map_some, hs]

/-- Settles O13: one line write, or two in one rank, and the effects that every host write has. -/
theorem hostWriteReachesServingLine : Obligations.HostWriteReachesServingLine := by
  refine ⟨fun s host p op => ⟨rfl, ?_, fun o d stale ho hd => State.markStale_ownRead_decoding host ho hd,
      State.markStale_ownRead_other host⟩, fun s host c hs hm hcopy => ⟨?_, ?_⟩,
    fun s host c e hs hm hcopy he => ⟨?_, ?_, ?_⟩⟩
  · simp [closeIf]
  · refine State.LineStored.of_sameArray ?_ (s.hostWrite_sameArray host c)
    rw [State.hostLineWrites_plain c hcopy]
    exact s.writeLine_stored _ _ _ c hs hm
  · unfold State.hostWrite
    rw [State.hostLineWrites_plain c hcopy]
    obtain ⟨m, w, p, h⟩ := s.writeLine_frame (rankOf host)
      (s.servingRow (rankOf host) (rowOf host) (columnOf host)) (columnOf host) c
    rw [h]
    rfl
  · refine State.TwoLinesStored.of_sameArray ?_ (s.hostWrite_sameArray host c)
    rw [State.hostLineWrites_copy c hcopy he]
    have hd := s.writeLine_rankDevices (rankOf host) (s.servingRow (rankOf host) (rowOf host) (columnOf host))
      (columnOf host) c (rankOf host)
    have two := (s.writeLine_stored _ _ _ c hs hm).followedBy
      (State.writeLine_stored _ _ (spareRow e.spare) _ c (hd ▸ hs) (s.writeLine_canonical _ _ _ c hm)) hs hd
    exact two.of_sameArray ⟨rfl, rfl, rfl⟩
  · obtain ⟨m, w, p, a, b, r, h⟩ := s.hostLineWrites_frame host c
    intro op hop
    rw [State.hostWrite, h] at hop
    exact closeIf_names_closed hcopy op hop
  · intro onSpare honSpare
    subst honSpare
    unfold State.hostWrite
    rw [State.hostLineWrites_copy c hcopy he]
    obtain ⟨m, w, p, h⟩ := s.writeLine_frame (rankOf host)
      (s.servingRow (rankOf host) (rowOf host) (columnOf host)) (columnOf host) c
    rw [h]
    obtain ⟨m', w', p', h'⟩ := State.writeLine_frame { s with cells := m, written := w, poisoned := p } (rankOf host)
      (spareRow e.spare) (columnOf host) c
    rw [h']
    rfl

end Sys2Proof.Machine
end

section
/-! PROOFS. Resets and start-up: power-on reset, array initialisation, warm reset. -/

namespace Sys2Proof.Machine

/-! ## Steps and vectors -/

/-- With no hand-off pending a step is its own effect, and the keeping of the rebuild's choice. -/
theorem act_next {f : State → State} {s : State} (h : s.handOff = none) : act f s = .next (f s).finish := by
  rw [act, State.settle_none s h]

theorem nth_replicate {α : Type} {n i : Nat} (x d : α) (h : i < n) : nth (Vector.replicate n x) i d = x := by
  simp [nth, h]

theorem nth_map {α β : Type} {n : Nat} (v : Vector α n) (f : α → β) (i : Nat) (d : α) :
    nth (v.map f) i (f d) = f (nth v i d) := by
  simp only [nth, Vector.getElem?_map]
  cases v[i]? <;> rfl

/-! ## Power-on reset (R20, R21) -/

theorem RankDevices.powerOn_atPowerOn : RankDevices.powerOn.AtPowerOn := by
  refine ⟨?_, ?_, ?_, rfl, rfl, rfl, rfl, rfl, rfl, rfl⟩
  · decide
  · decide
  · decide

/-- The state of a power-on reset, whatever the part time and the waiting commands. -/
theorem State.powerOn_atPowerOn (ranks base : Nat) (time : PartTime) (pending : List Instr) :
    ({ State.powerOn ranks base with time := time, pending := pending } : State).AtPowerOn := by
  refine ⟨rfl, fun r hr => nth_replicate _ _ hr, rfl, rfl, rfl, rfl, rfl,
    fun p hp => ⟨nth_replicate _ _ hp, nth_replicate _ _ hp⟩, rfl, rfl, rfl, rfl, fun r d hr hd => ⟨rfl, ?_⟩, ?_,
    fun i hi => ?_, ?_, rfl, fun r i hr hi => ?_, rfl, rfl, rfl, fun r hr => ?_, rfl, fun i hi => ?_, rfl, rfl, rfl, rfl,
    ?_, rfl, rfl, rfl, rfl, ?_, rfl, rfl⟩
  case refine_1 =>
    have flags : nth (Vector.replicate 4 (0 : DeviceSet)) r 0 = 0 := nth_replicate _ _ hr
    show inSet (nth (Vector.replicate 4 (0 : DeviceSet)) r 0) d = false
    rw [flags]
    simp [inSet]
  case refine_2 => rfl
  case refine_3 =>
    have entry : nth (Vector.replicate 32 WindowEntry.emptyEntry) i WindowEntry.emptyEntry = WindowEntry.emptyEntry :=
      nth_replicate _ _ hi
    exact congrArg WindowEntry.state entry
  case refine_4 => exact ⟨rfl, rfl, rfl, rfl, rfl, rfl, rfl, rfl, rfl, rfl, rfl, rfl⟩
  case refine_5 =>
    have row : nth (Vector.replicate 4 (Vector.replicate 128 SpareState.free)) r (Vector.replicate 128 .discarded) =
        Vector.replicate 128 .free := nth_replicate _ _ hr
    show nth (nth (Vector.replicate 4 (Vector.replicate 128 SpareState.free)) r _) i .discarded = .free
    rw [row]
    exact nth_replicate _ _ hi
  case refine_6 =>
    have map : nth (Vector.replicate 4 RankDevices.powerOn) r RankDevices.powerOn = RankDevices.powerOn :=
      nth_replicate _ _ hr
    show (nth (Vector.replicate 4 RankDevices.powerOn) r RankDevices.powerOn).AtPowerOn
    rw [map]
    exact RankDevices.powerOn_atPowerOn
  case refine_7 =>
    have mirror : nth (Vector.replicate 256 SlotMirror.freeMirror) i SlotMirror.freeMirror = SlotMirror.freeMirror :=
      nth_replicate _ _ hi
    exact congrArg SlotMirror.state mirror
  case refine_8 => exact ⟨rfl, rfl, rfl, rfl, rfl, rfl, rfl, rfl, rfl, rfl, rfl, rfl, rfl, rfl, rfl⟩
  case refine_9 => exact ⟨rfl, rfl, rfl, rfl, rfl, rfl, rfl⟩

/-- Settles O3: the reset state is that of a power-on reset, at part time 0 with an empty queue. -/
theorem powerOnResetStartsThePart : Obligations.PowerOnResetStartsThePart := by
  refine ⟨fun rankStraps baseStraps s => ⟨_, rfl, ?_, rfl, rfl, rfl, rfl⟩, ?_, rfl, rfl, rfl, rfl, rfl, rfl, rfl⟩
  · exact State.powerOn_atPowerOn _ _ 0 s.pending
  · exact State.powerOn_atPowerOn 4 0 0 []

/-! ## Array initialisation (R20) -/

theorem RankDevices.powerOn_sound : RankDevices.powerOn.Sound := by
  refine ⟨by decide, by decide, by decide, fun d e hd he hm => ?_, fun d e hd he hm => ?_, by decide, by decide, ?_⟩
  · have : ∀ x, x < 20 → RankDevices.powerOn.stateOf x ≠ .marked := by decide
    exact absurd hm (this d hd)
  · have : ∀ x, x < 20 → RankDevices.powerOn.stateOf x ≠ .replaced := by decide
    exact absurd hm (this d hd)
  · intro h
    exact absurd h (by decide)

/-- At power-on a line write puts position p on device p. -/
theorem RankDevices.mem_writeTo_powerOn (index : Nat) (x : Nat × Nat) :
    x ∈ RankDevices.powerOn.writeTo index ↔ x.1 < 19 ∧ x.2 = x.1 := by
  have carrier : ∀ p, p < 19 → RankDevices.powerOn.carrier p = p := RankDevices.powerOn_atPowerOn.2.2.1
  have hf : RankDevices.powerOn.inFlight = false := rfl
  rw [RankDevices.mem_writeTo, hf]
  simp only [Bool.false_eq_true, and_false, if_false]
  exact and_congr_right fun hp => by rw [carrier _ hp]

/-- Zero data with valid code has every slice zero (R150). -/
theorem encodeSlice_zero (p : Nat) : encodeSlice (validContent 0) p = 0 := by
  rw [encodeSlice, validContent]
  split
  · exact BitVec.extractLsb'_zero
  · rw [if_neg Bool.false_ne_true, if_pos rfl]

theorem physIndex_div_mod (i : Nat) : physIndex (i / Config.columns) (i % Config.columns) = i := by
  simp only [physIndex, Config.columns]
  omega

/-- The line an initialisation write stores, before the slice of device 19. -/
def State.initWrite (s : State) (rank : Nat) : State :=
  s.writeLine rank (s.initWritten rank / Config.columns) (s.initWritten rank % Config.columns) (validContent 0)

theorem State.initLine_eq (s : State) (rank : Nat) :
    s.initLine rank =
      { s with cells := ((s.initWrite rank).storeSlice rank (s.initWritten rank) 19 0).cells,
               written := (s.initWrite rank).written, poisoned := (s.initWrite rank).poisoned,
               initCursor := put s.initCursor rank (s.initWritten rank + 1) } := by
  simp only [State.initLine, State.initWrite]
  obtain ⟨m, w, p, h⟩ := s.writeLine_frame rank (s.initWritten rank / Config.columns)
    (s.initWritten rank % Config.columns) (validContent 0)
  rw [h]
  rfl

/-- An initialisation write zeroes the line on all 20 devices, and stores nothing else. -/
theorem State.initLine_stored {s : State} {rank : Nat} (hd : s.rankDevices rank = RankDevices.powerOn)
    (hm : s.MemoriesCanonical) :
    (∀ device, device < 20 → (s.initLine rank).storedSlice rank (s.initWritten rank) device = 0) ∧
    (s.initLine rank).contentAt rank (s.initWritten rank) = validContent 0 ∧
    (∀ a, a < sliceAddress rank (s.initWritten rank) 0 ∨ sliceAddress rank (s.initWritten rank) 19 + 4 ≤ a →
      (s.initLine rank).cells.read a = s.cells.read a) ∧
    (∀ a, ¬ contentByte rank (s.initWritten rank) a → (s.initLine rank).written.read a = s.written.read a) ∧
    (∀ a, a ≠ lineKey rank (s.initWritten rank) → (s.initLine rank).poisoned.read a = s.poisoned.read a) := by
  have hline : s.LineStored (s.initWrite rank) rank _ _ _ :=
    s.writeLine_stored rank _ _ (validContent 0) (hd ▸ RankDevices.powerOn_sound) hm
  have hwf : (s.initWrite rank).cells.wf = true := (s.writeLine_canonical rank _ _ (validContent 0) hm).1
  unfold State.LineStored at hline
  rw [physIndex_div_mod] at hline
  obtain ⟨⟨hslices, hcontent⟩, hcells, hwritten, hpoisoned⟩ := hline
  rw [s.initLine_eq]
  refine ⟨fun device hdev => ?_, hcontent, fun a ha => ?_, hwritten, hpoisoned⟩
  · show ((s.initWrite rank).storeSlice rank (s.initWritten rank) 19 0).storedSlice rank (s.initWritten rank) device = 0
    by_cases h19 : device = 19
    · rw [h19]
      exact State.storedSlice_storeSlice_same _ _ _ _ _ hwf
    · rw [State.storedSlice_storeSlice_other _ _ _ _ _ _ h19]
      have := hslices (device, device) (by rw [hd, RankDevices.mem_writeTo_powerOn]; exact ⟨by omega, rfl⟩)
      rw [this, encodeSlice_zero]
  · have hout : ¬ s.sliceByte rank (s.initWritten rank) a := by
      rintro ⟨x, hx, h1, h2⟩
      rw [hd, RankDevices.mem_writeTo_powerOn] at hx
      simp only [sliceAddress] at ha h1 h2
      omega
    have h19 : a < sliceAddress rank (s.initWritten rank) 19 ∨ sliceAddress rank (s.initWritten rank) 19 + 4 ≤ a := by
      simp only [sliceAddress] at ha ⊢
      omega
    exact (Memory.read_writeBytes_other _ h19).trans (hcells a hout)

theorem exec_arrayInitLineWrite {s : State} {rank : Nat} (h : s.handOff = none) (hi : s.phase = .initialising)
    (hr : rank < s.ranks) (hw : s.initWritten rank < Config.physLinesPerRank) :
    exec (.arrayInitLineWrite rank) s = .next (State.finish (s.initLine rank)) := by
  show execArrayInitLineWrite rank s = _
  rw [execArrayInitLineWrite, act_next h, if_pos ⟨hi, hr, hw⟩]

theorem exec_arrayInitDone {s : State} (h : s.handOff = none) (hi : s.phase = .initialising)
    (hc : s.initComplete = true) :
    exec .arrayInitDone s =
      .next (State.finish (if s.lTotal ≤ s.base then { s with phase := .halted } else s.openPort)) := by
  show execArrayInitDone s = _
  rw [execArrayInitDone, act_next h, if_pos ⟨hi, hc⟩]

/-- The fields of the identity line lie apart in the places of section 10.6. -/
theorem State.identityLine_holds (s : State) :
    HoldsFields s.identityLine
      [⟨0, 2, 418⟩, byteField 2 Config.revision.toNat, byteField 3 s.resetCause.code, byteField 4 s.ranks,
        ⟨8, 4, s.base⟩, ⟨12, 2, 256⟩, ⟨14, 2, 1024⟩, ⟨16, 2, 1024⟩, byteField 18 128, byteField 19 32,
        timeField 24 s.time] :=
  holdsFields_lineOfFields _ rfl

/-- A pace review leaves the phase. -/
theorem State.review_ready (s : State) : s.review.ready = s.ready := by
  obtain ⟨p, h⟩ := s.review_frame
  rw [h]
  rfl

/-- Settles O4: the initialisation write stores one zero line; ARRAY_INIT_DONE opens the port or halts. -/
theorem initialisationClearsTheArray : Obligations.InitialisationClearsTheArray := by
  refine ⟨fun rank s h hi hr _ hw hd hm => ?_, fun s h hi hc => ⟨fun hb => ?_, fun hb => ?_⟩⟩
  · obtain ⟨hzero, hcontent, hcells, hwritten, hpoisoned⟩ := State.initLine_stored hd hm
    refine ⟨s.initLine rank, ?_, hzero, hcontent, hcells, fun a ha => hwritten a ?_, hpoisoned⟩
    · rw [exec_arrayInitLineWrite h hi hr hw, s.initLine_eq]
    · unfold contentByte
      omega
  · refine ⟨_, ?_, ?_, rfl, ?_⟩
    · rw [exec_arrayInitDone h hi hc, if_neg (Nat.not_le.2 hb)]
      rfl
    · rw [State.review_ready]
      rfl
    · have hline := s.identityLine_holds
      cases hcause : s.resetCause with
      | powerOn => rw [hcause] at hline; exact hline
      | warm => rw [hcause] at hline; exact hline
  · rw [exec_arrayInitDone h hi hc, if_pos hb]

/-! ## Warm reset (R21, R59, R143, R173, R182) -/

theorem exec_warmReset_live {s : State} (h : s.handOff = none) (hp : s.ready = true ∨ s.restarting = true) :
    exec .warmReset s = .next (State.finish (s.warmed.beginRestartStep (.slotScan 0))) := by
  show execWarmReset s = _
  rw [execWarmReset, act_next h]
  cases hphase : s.phase with
  | initialising => simp [State.ready, State.restarting, hphase] at hp
  | running => rfl
  | restarting step => rfl
  | halted => simp [State.ready, State.restarting, hphase] at hp

theorem exec_warmReset_initialising {s : State} (h : s.handOff = none) (hp : s.phase = .initialising) :
    exec .warmReset s =
      .next (State.finish { State.powerOn s.ranks s.base with time := s.time, pending := s.pending }) := by
  show execWarmReset s = _
  rw [execWarmReset, act_next h]
  simp only [hp]

theorem exec_warmReset_halted {s : State} (h : s.handOff = none) (hp : s.phase = .halted) :
    exec .warmReset s = .next s.finish := by
  show execWarmReset s = _
  rw [execWarmReset, act_next h]
  simp only [hp]

theorem State.warmed_window (s : State) {i : Nat} (hi : i < 32) : s.warmed.window i = WindowEntry.emptyEntry :=
  nth_replicate _ _ hi

theorem State.warmed_slot (s : State) (i : Nat) : s.warmed.slot i = { s.slot i with state := .free } :=
  nth_map s.slots (fun m => SlotMirror.mk .free m.kind m.mode m.taken) i SlotMirror.freeMirror

theorem State.warmed_access (s : State) (p : Nat) : s.warmed.access p = (s.access p).afterWarmReset :=
  nth_map s.ports PortAccess.afterWarmReset p .idle

theorem State.warmed_arrivalsAt (s : State) {p : Nat} (hp : p < 4) : s.warmed.arrivalsAt p = [] :=
  nth_replicate _ _ hp

/-- The slots that a warm reset hands over are those of the retirements that wait or migrate. -/
theorem State.mem_orderSlots (s : State) (slot : Nat) :
    slot ∈ s.orderSlots ↔
      (∃ q ∈ s.migrationQueue, q.slot = some slot) ∨ ∃ m, s.migration = some m ∧ m.slot = some slot := by
  simp [State.orderSlots, List.mem_filterMap, Option.bind_eq_some_iff]

/-- Settles O5: what `State.warmed` drops and keeps, and the forms of a reset before the port was READY. -/
theorem warmResetKeepsAndDrops : Obligations.WarmResetKeepsAndDrops := by
  refine ⟨fun s h hp => ⟨_, exec_warmReset_live h hp, rfl, rfl, rfl, rfl, rfl, rfl, rfl, fun i hi => s.warmed_window hi,
      fun i hi => congrArg SlotMirror.state (s.warmed_slot i), fun p hp => ⟨s.warmed_access p, s.warmed_arrivalsAt hp⟩,
      rfl, rfl, rfl, rfl, rfl, rfl, rfl, rfl, rfl, rfl, rfl, rfl, rfl, rfl⟩,
    fun s h => ⟨fun hi => ?_, exec_warmReset_halted h⟩, fun host data mask d c orphan loss => ?_, State.mem_orderSlots⟩
  · exact ⟨_, exec_warmReset_initialising h hi, State.powerOn_atPowerOn _ _ _ _, rfl, rfl, rfl, rfl⟩
  · exact ⟨rfl, rfl, rfl, rfl, rfl, rfl, rfl⟩

end Sys2Proof.Machine
end

section
/-! PROOFS. The server port: which accesses it accepts, and the order in which it presents them. -/

namespace Sys2Proof.Machine

/-! ## Accesses that arrive (R1, R36) -/

/-- What becomes of an access that arrives at the port: nothing while NOT_READY, its answer at or above L_total, else it
is accepted. The three presentation commands are this for their kind of access. -/
def State.arrive (s : State) (kind : AccessKind) (address : Nat) (a : ServerAccess) : State :=
  if s.ready = false then s else if s.lTotal ≤ address then s.serveAbove kind address else s.accept a

theorem exec_serverReadPresent {s : State} (h : s.handOff = none) (address : Nat) :
    exec (.serverReadPresent address) s = .next (s.arrive .read address (.read address)).finish := by
  show execServerReadPresent address s = _
  rw [execServerReadPresent, act_next h, State.arrive]

theorem exec_fullLineWritePresent {s : State} (h : s.handOff = none) (address : Nat) (data : Line) :
    exec (.fullLineWritePresent address data) s =
      .next (s.arrive .fullLineWrite address (.fullLineWrite address data)).finish := by
  show execFullLineWritePresent address data s = _
  rw [execFullLineWritePresent, act_next h, State.arrive]

theorem exec_maskedWritePresent {s : State} (h : s.handOff = none) (address : Nat) (data : Line) (mask : ByteMask) :
    exec (.maskedWritePresent address data mask) s =
      .next (s.arrive .maskedWrite address (.maskedWrite address data mask)).finish := by
  show execMaskedWritePresent address data mask s = _
  rw [execMaskedWritePresent, act_next h, State.arrive]

theorem exec_accessAboveLTotal {s : State} (h : s.handOff = none) (hr : s.ready = true) {address : Nat}
    (ha : s.lTotal ≤ address) (kind : AccessKind) :
    exec (.accessAboveLTotal kind address) s = .next (s.serveAbove kind address).finish := by
  show execAccessAboveLTotal kind address s = _
  rw [execAccessAboveLTotal, act_next h, if_pos ⟨hr, ha⟩]

theorem State.serveAbove_write (s : State) {kind : AccessKind} (h : kind ≠ .read) (address : Nat) :
    s.serveAbove kind address = s := by
  cases kind with
  | read => exact absurd rfl h
  | fullLineWrite => rfl
  | maskedWrite => rfl

theorem State.arrive_notReady {s : State} (h : s.ready = false) (kind : AccessKind) (address : Nat) (a : ServerAccess) :
    s.arrive kind address a = s := by
  rw [State.arrive, if_pos h]

theorem State.arrive_above {s : State} (h : s.ready = true) {address : Nat} (ha : s.lTotal ≤ address)
    (kind : AccessKind) (a : ServerAccess) : s.arrive kind address a = s.serveAbove kind address := by
  rw [State.arrive, if_neg (by simp [h]), if_pos ha]

theorem State.arrive_accepted {s : State} (h : s.ready = true) {address : Nat} (ha : address < s.lTotal)
    (kind : AccessKind) (a : ServerAccess) : s.arrive kind address a = s.accept a := by
  rw [State.arrive, if_neg (by simp [h]), if_neg (Nat.not_le.2 ha)]

/-! ## The order of accepted accesses (R37) -/

/-- Presenting an access leaves those that wait behind it. -/
theorem State.present_arrivalsAt (s : State) (a : ServerAccess) (port : Nat) :
    (s.present a).arrivalsAt port = s.arrivalsAt port := by
  obtain ⟨p, r, y, q, w, j, c, h⟩ := s.present_frame a
  rw [h]
  rfl

theorem State.presentInOrder_idle {s : State} {port : Nat} (h : s.access port = .idle) (a : ServerAccess)
    (rest : List ServerAccess) :
    State.presentInOrder port (a :: rest) s = State.presentInOrder port rest (s.present a) := by
  rw [State.presentInOrder, if_pos h]

theorem State.presentInOrder_busy {s : State} {port : Nat} (h : s.access port ≠ .idle) {rest : List ServerAccess}
    (hr : rest ≠ []) : State.presentInOrder port rest s = s.setArrivals port rest := by
  cases rest with
  | nil => exact absurd rfl hr
  | cons a rest => rw [State.presentInOrder, if_neg h]

theorem State.accept_busy {s : State} {a : ServerAccess} (h : s.access (rankOf a.host) ≠ .idle) :
    s.accept a = s.setArrivals (rankOf a.host) (s.arrivalsAt (rankOf a.host) ++ [a]) := by
  rw [State.accept, State.presentInOrder_busy h (by simp)]

theorem State.accept_idle {s : State} {a : ServerAccess} (h : s.access (rankOf a.host) = .idle)
    (hw : s.arrivalsAt (rankOf a.host) = []) : s.accept a = s.present a := by
  rw [State.accept, hw, List.nil_append, State.presentInOrder_idle h, State.presentInOrder]
  exact State.setArrivals_nil _ _ (by rw [State.present_arrivalsAt, hw])

theorem State.setAccess_access_same (s : State) {port : Nat} (h : port < 4) (a : PortAccess) :
    (s.setAccess port a).access port = a := nth_put_same _ _ _ _ h

theorem State.freePort_none {s : State} {port : Nat} (h : s.arrivalsAt port = []) :
    s.freePort port = s.setAccess port .idle := by
  rw [State.freePort, h, State.presentInOrder]
  exact State.setArrivals_nil _ _ h

theorem State.freePort_next {s : State} {port : Nat} (hp : port < 4) {a : ServerAccess} {rest : List ServerAccess}
    (h : s.arrivalsAt port = a :: rest) :
    s.freePort port = State.presentInOrder port rest ((s.setAccess port .idle).present a) := by
  rw [State.freePort, h, State.presentInOrder_idle (s.setAccess_access_same hp .idle)]

/-- Settles O14: an arrival by the port's state and its address; then the list of a port, by its head and its port. -/
theorem portAcceptsAndKeepsOrder : Obligations.PortAcceptsAndKeepsOrder := by
  refine ⟨fun kind address data mask s h hr ha => ?_, fun kind address data mask s h => ⟨?_, fun hr => ?_⟩,
    fun address data mask s h hr ha => ?_, fun a s => ⟨fun hb hw => ?_, fun b rest hb hw => ?_, State.accept_idle⟩,
    fun port s hp => ⟨State.freePort_none, fun a rest h => State.freePort_next hp h,
      fun rest hb hr => State.presentInOrder_busy hb hr, fun a rest h => State.presentInOrder_idle h a rest, rfl⟩⟩
  · simp only [exec_serverReadPresent h, exec_fullLineWritePresent h, exec_maskedWritePresent h,
      exec_accessAboveLTotal h hr ha, State.arrive_above hr ha, and_self, and_true]
    refine ⟨fun hk => ?_, fun hk => ?_⟩
    · subst hk
      rfl
    · rw [s.serveAbove_write hk]
  · show execAccessNotReady kind address s = _
    rw [execAccessNotReady, act_next h]
  · simp only [exec_serverReadPresent h, exec_fullLineWritePresent h, exec_maskedWritePresent h,
      State.arrive_notReady hr, and_self]
  · simp only [exec_serverReadPresent h, exec_fullLineWritePresent h, exec_maskedWritePresent h,
      State.arrive_accepted hr ha, and_self]
  · rw [State.accept_busy hb, hw]
    rfl
  · rw [State.accept_busy hb, hw]
    rfl

end Sys2Proof.Machine
end

section
/-! PROOFS. The Pacer: interval starts, the periodic review, and the pass that becomes late. -/

namespace Sys2Proof.Machine

theorem State.dueInterval_some {s : State} {start : PartTime} (h : s.nextInterval = some start)
    (hr : hasReached s.time start = true) : s.dueInterval = some start := by
  rw [State.dueInterval, h, Option.filter_some, if_pos hr]

theorem State.accrues_iff (s : State) :
    s.accrues = true ↔ s.ready = true ∧ s.policy.patrolEnable = 1 ∧ s.held .patrol = false := by
  simp [State.accrues, and_assoc]

/-- The work of an interval start after its review: the counts of R18 afresh, and the accrual of R107. -/
theorem State.startCounts_accrue (s : State) :
    s.startCounts.accrueIfAccruing =
      { s with counts := { migration := 0, rebuild := 0, targeted := 0, limit := s.policy.opsPerInterval },
               patrol := if s.accrues = true then
                   { s.patrol with credit := s.creditAdded % 256,
                                   owed := min s.policy.opsPerInterval (s.patrol.owed + s.creditAdded / 256) }
                 else s.patrol } := by
  have same : s.startCounts.accrues = s.accrues := rfl
  unfold State.accrueIfAccruing
  rw [same]
  split
  · rfl
  · rfl

theorem State.passIsLate_iff (s : State) :
    s.passIsLate = true ↔ hasReached s.time s.patrol.passEnd = true ∧ s.patrol.cursor < s.lTotal ∧
      s.patrol.late = false := by
  have hl : 1 ≤ s.linesRemaining ↔ s.patrol.cursor < s.lTotal := by
    unfold State.linesRemaining
    omega
  simp [State.passIsLate, hl, and_assoc]

theorem exec_paceIntervalStart {s : State} (h : s.handOff = none) {start : PartTime} (hd : s.dueInterval = some start) :
    exec .paceIntervalStart s = .next (State.finish
      { (s.periodicReview start).startCounts.accrueIfAccruing with
        nextInterval := some (nextPaceBoundary start), reviewed := false }) := by
  show execPaceIntervalStart s = _
  rw [execPaceIntervalStart, act_next h]
  simp only [hd]

theorem exec_periodicPaceReview {s : State} (h : s.handOff = none) {start : PartTime} (hd : s.dueInterval = some start)
    (ht : isThousandth start = true) (hr : s.reviewed = false) :
    exec .periodicPaceReview s = .next (State.finish { s.askReview with reviewed := true }) := by
  show execPeriodicPaceReview s = _
  rw [execPeriodicPaceReview, act_next h]
  simp only [hd, if_pos (And.intro ht hr)]

/-- A review changes patrol's memory alone. -/
theorem State.periodicReview_frame (s : State) (start : PartTime) :
    ∃ p, s.periodicReview start = { s with patrol := p } := by
  unfold State.periodicReview
  split
  · exact s.askReview_frame
  · exact ⟨s.patrol, rfl⟩

/-- Settles O46: the review of a 1,000th interval, then the counts, then the accrual; and the record of a late pass. -/
theorem paceIntervalAccruesCredit : Obligations.PaceIntervalAccruesCredit := by
  refine fun s start h => ⟨fun u credit hn hr hu hc => ?_, fun hn hr ht hv => ?_, fun hr he hc hl => ?_⟩
  · replace hu : u = s.periodicReview start := hu
    obtain ⟨p, hp⟩ := s.periodicReview_frame start
    rw [exec_paceIntervalStart h (State.dueInterval_some hn hr), ← hu, State.startCounts_accrue]
    rw [← hu] at hp
    subst hp
    simp only [← s.accrues_iff]
    subst hc
    rfl
  · exact exec_periodicPaceReview h (State.dueInterval_some hn hr) ht hv
  · refine ⟨s.markLate, ?_, rfl⟩
    show execPassLate s = _
    rw [execPassLate, act_next h, if_pos ⟨hr, s.passIsLate_iff.2 ⟨he, hc, hl⟩⟩]

end Sys2Proof.Machine
end

section
/-! PROOFS. The background engines: patrol visits, scrub visits, copies and rebuild lines. -/

namespace Sys2Proof.Machine

/-! ## What the engines share -/

/-- What is written of a result: its data with valid code, or poison encoding (R13). -/
theorem DecodeResult.content_cases (r : DecodeResult) :
    (∀ l, r.data = some l → r.content = { data := l, poison := false }) ∧
    (r.data = none → r.content = { data := 0, poison := true }) := by
  refine ⟨fun l h => ?_, fun h => ?_⟩
  · rw [DecodeResult.content, h]
    rfl
  · rw [DecodeResult.content, h]
    rfl

theorem LineClass.isWrittenBack_of {c : LineClass} (h : c = .corrected ∨ c = .deepCorrected ∨ c = .uncorrectable) :
    c.isWrittenBack = true := by
  rcases h with rfl | rfl | rfl
  · rfl
  · rfl
  · rfl

theorem LineClass.not_isWrittenBack_of {c : LineClass} (h : c = .clean ∨ c = .erased ∨ c = .poisoned) :
    ¬ c.isWrittenBack = true := by
  rcases h with rfl | rfl | rfl
  · exact Bool.false_ne_true
  · exact Bool.false_ne_true
  · exact Bool.false_ne_true

theorem decodingOf_some {op : OpenLine} {d : Decode} (h : op.stage = .decoding d) : decodingOf (some op) = some d := by
  simp only [decodingOf, h]

theorem writingOf_some {op : OpenLine} {c : Content} (h : op.stage = .writing c) :
    writingOf (some op) = some (op, op.override.getD c) := by
  simp only [writingOf, h]

/-- The counts of R93 stop at 4,294,967,295. -/
theorem bump_eq (n : Nat) : bump n = min 4294967295 (n + 1) := by
  unfold bump saturate Config.counterMax
  split
  · omega
  · omega

/-- The write that ends a visit, with its record OPEN: one line, and the carry of a rebuild that is open there. -/
theorem State.visitWrite_open {s : State} {op : OpenLine} (c : Content) (h : op.isOpen = true)
    (hs : (s.rankDevices op.rank).Sound) (hm : s.MemoriesCanonical) :
    s.LineStored (s.visitWrite op c) op.rank op.row op.column c ∧
    s.visitWrite op c =
      { s with cells := (s.visitWrite op c).cells, written := (s.visitWrite op c).written,
               poisoned := (s.visitWrite op c).poisoned,
               rebuildOp := leaveOn op.rank op.row op.column c s.rebuildOp } := by
  simp only [State.visitWrite, if_pos h]
  refine ⟨(s.writeLine_stored _ _ _ c hs hm).of_sameArray ⟨rfl, rfl, rfl⟩, ?_⟩
  obtain ⟨m, w, p, e⟩ := s.writeLine_frame op.rank op.row op.column c
  rw [e]

theorem State.visitWrite_closed (s : State) {op : OpenLine} (c : Content) (h : op.isOpen = false) :
    s.visitWrite op c = s := by
  rw [State.visitWrite, if_neg (by simp [h])]

/-! ## Patrol (R93, R95 to R99) -/

theorem exec_patrolReadGrant {s : State} (h : s.handOff = none) (errors : List SliceError) :
    exec (.patrolReadGrant errors) s =
      .next (State.finish (if s.patrolRequests = true ∧ s.mayGrant (rankOf s.patrol.cursor) 8 = true then
        s.grantPatrolRead errors else s)) := by
  show execPatrolReadGrant errors s = _
  rw [execPatrolReadGrant, act_next h]

theorem exec_patrolDecodeEnd {s : State} (h : s.handOff = none) {d : Decode} (hd : decodingOf s.patrolOp = some d) :
    exec .patrolDecodeEnd s = .next (State.finish (s.endPatrolDecode d)) := by
  show execPatrolDecodeEnd s = _
  rw [execPatrolDecodeEnd, act_next h]
  simp only [hd]

theorem exec_patrolWriteGrant {s : State} (h : s.handOff = none) {op : OpenLine} {c : Content}
    (hw : writingOf s.patrolOp = some (op, c)) :
    exec .patrolWriteGrant s =
      .next (State.finish (if s.mayGrant op.rank 8 = true then (s.visitWrite op c).releasePatrol else s)) := by
  show execPatrolWriteGrant s = _
  rw [execPatrolWriteGrant, act_next h]
  simp only [hw]

/-- The read of a patrol visit, field by field. -/
theorem State.grantPatrolRead_eq (s : State) (errors : List SliceError) :
    s.grantPatrolRead errors =
      { s with
        cells := (s.applyErrorsHost s.patrol.cursor errors).cells,
        patrolOp := some (openRecord ((s.applyErrorsHost s.patrol.cursor errors).decodeHost s.patrol.cursor
          s.policy.backgroundBudget) none),
        patrol := { s.patrol with owed := s.patrol.owed - 1 } } := by
  unfold State.grantPatrolRead
  obtain ⟨m, e⟩ := s.applyErrorsHost_frame s.patrol.cursor errors
  rw [e]

/-- The pass counts by class (R93, R97). -/
theorem Patrol.counted_eq (p : Patrol) :
    p.counted .corrected = { p with corrected := min 4294967295 (p.corrected + 1) } ∧
    p.counted .deepCorrected = { p with deepCorrected := min 4294967295 (p.deepCorrected + 1) } ∧
    p.counted .uncorrectable = { p with uncorrectable := min 4294967295 (p.uncorrectable + 1) } ∧
    p.counted .clean = p ∧ p.counted .erased = p ∧ p.counted .poisoned = p := by
  refine ⟨?_, ?_, ?_, rfl, rfl, rfl⟩
  · rw [Patrol.counted, bump_eq]
  · rw [Patrol.counted, bump_eq]
  · rw [Patrol.counted, bump_eq]

/-- The end of a visit that is not the last of its pass. -/
theorem State.endVisit_more {s : State} (h : s.patrol.cursor + 1 < s.lTotal) :
    s.endVisit = { s with patrol := { s.patrol with cursor := s.patrol.cursor + 1 } } := by
  rw [State.endVisit, if_pos h]

/-- The end of the last visit of a pass. -/
theorem State.endVisit_last {s : State} (h : s.patrol.cursor + 1 = s.lTotal) : s.endVisit = s.completePass := by
  rw [State.endVisit, if_neg (by omega)]

/-- A record handed to the Journal leaves patrol's memory, the part time and the policy. -/
theorem State.startPass_handRecord (s : State) (r : JournalRecord) (number : Nat) :
    (s.handRecord r).startPass number = State.review
      { s.handRecord r with
        patrol := { s.patrol with
          passNumber := number, cursor := 0, passStart := s.time,
          passEnd := timeAfter s.time (s.policy.patrolPeriod * Config.second),
          corrected := 0, deepCorrected := 0, uncorrectable := 0, late := false } } := by
  obtain ⟨q, w, j, c, e⟩ := s.handRecord_frame r
  rw [e]
  rfl

theorem nextPassNumber_succ {n : Nat} (h : n < 4294967295) : nextPassNumber n = n + 1 := if_pos h

/-- Settles O47: the read, the decode's end and the write of a visit, then the end of the visit by the cursor. -/
theorem patrolVisitReadsAndRepairs : Obligations.PatrolVisitReadsAndRepairs := by
  refine ⟨Patrol.counted_eq, DecodeResult.content_cases, fun s h => ⟨fun errors hreq hgrant => ?_,
    fun op d hop hd => ?_, fun op c hop hc hgrant hs hm => ?_⟩, fun s => ⟨State.endVisit_more, fun hlast hn => ?_⟩⟩
  · refine ⟨_, _, rfl, rfl, ?_⟩
    rw [exec_patrolReadGrant h, if_pos ⟨hreq, hgrant⟩, State.grantPatrolRead_eq]
    rfl
  · refine ⟨s.reportVisit d, rfl, fun hcls => ?_, fun hcls => ?_⟩
    · rw [exec_patrolDecodeEnd h (hop ▸ decodingOf_some hd), State.endPatrolDecode,
        if_pos (LineClass.isWrittenBack_of hcls), hop]
      rfl
    · rw [exec_patrolDecodeEnd h (hop ▸ decodingOf_some hd), State.endPatrolDecode,
        if_neg (LineClass.not_isWrittenBack_of hcls)]
      rfl
  · refine ⟨s.visitWrite op (op.override.getD c), ?_, s.visitWrite_closed _, fun hopen =>
      State.visitWrite_open _ hopen hs hm⟩
    rw [exec_patrolWriteGrant h (hop ▸ writingOf_some hc), if_pos hgrant]
    rfl
  · refine ⟨_, ?_, rfl⟩
    rw [State.endVisit_last hlast, State.completePass, State.handPlain, State.startPass_handRecord,
      nextPassNumber_succ hn]
    rfl

/-! ## Scrub visits (R118 to R121, R124) -/

theorem TargetedOrder.precedence_eq (o : TargetedOrder) : o.precedence = if o.urgent = true then 4 else 7 := rfl

/-- The read request of an order of this kind that the arbiter would grant. -/
theorem State.targetedReadFor_some {s : State} {k : TargetedKind} {o : TargetedOrder}
    (hr : s.targetedRequest = some o) (hk : o.kind = k) (hg : s.mayGrant (rankOf o.cursor) o.precedence = true) :
    s.targetedReadFor k = some o := by
  simp [State.targetedReadFor, hr, Option.filter_some, hk, hg]

theorem State.underWay_some {s : State} {k : TargetedKind} {o : TargetedOrder} (h : s.orderUnderWay = some o)
    (hk : o.kind = k) : s.underWay k = some o := by
  simp [State.underWay, h, Option.filter_some, hk]

theorem exec_scrubVisitReadGrant {s : State} (h : s.handOff = none) {o : TargetedOrder}
    (hr : s.targetedReadFor .scrubRange = some o) (errors : List SliceError) :
    exec (.scrubVisitReadGrant errors) s = .next (State.finish ((s.grantTargetedRead o errors).countTargeted o)) := by
  show execScrubVisitReadGrant errors s = _
  rw [execScrubVisitReadGrant, act_next h]
  simp only [hr]

theorem exec_scrubVisitDecodeEnd {s : State} (h : s.handOff = none) {d : Decode} {o : TargetedOrder}
    (hd : decodingOf s.targetedOp = some d) (ho : s.underWay .scrubRange = some o) :
    exec .scrubVisitDecodeEnd s = .next (State.finish (s.endScrubDecode o d)) := by
  show execScrubVisitDecodeEnd s = _
  rw [execScrubVisitDecodeEnd, act_next h]
  simp only [hd, ho]

theorem exec_scrubVisitWriteGrant {s : State} (h : s.handOff = none) {op : OpenLine} {c : Content} {o : TargetedOrder}
    (hw : writingOf s.targetedOp = some (op, c)) (ho : s.underWay .scrubRange = some o) :
    exec .scrubVisitWriteGrant s =
      .next (State.finish (if s.mayGrant op.rank o.precedence = true then
        ((s.visitWrite op c).countDropped op o.slot).releaseScrub o.slot else s)) := by
  show execScrubVisitWriteGrant s = _
  rw [execScrubVisitWriteGrant, act_next h]
  simp only [hw, ho]

/-- The read of a targeted order's line, field by field. -/
theorem State.grantTargetedRead_eq (s : State) (o : TargetedOrder) (errors : List SliceError) :
    s.grantTargetedRead o errors =
      { s with
        cells := (s.applyErrorsHost o.cursor errors).cells,
        targetedOp := some (openRecord ((s.applyErrorsHost o.cursor errors).decodeHost o.cursor o.budget)
          (some o.slot)) } := by
  unfold State.grantTargetedRead
  obtain ⟨m, e⟩ := s.applyErrorsHost_frame o.cursor errors
  rw [e]

/-- Only a non-urgent operation counts towards the limit of R18. -/
theorem State.countTargeted_eq (s : State) (o : TargetedOrder) :
    s.countTargeted o =
      { s with counts := { s.counts with
          targeted := if o.urgent = true then s.counts.targeted else s.counts.targeted + 1 } } := by
  unfold State.countTargeted
  cases o.urgent
  · rfl
  · rfl

theorem State.countDropped_open (s : State) {op : OpenLine} (slot : Nat) (h : op.isOpen = true) :
    s.countDropped op slot = s := by
  rw [State.countDropped, if_pos h]

theorem State.countDropped_closed (s : State) {op : OpenLine} (slot : Nat) (h : op.isOpen = false) :
    s.countDropped op slot = s.changeOrder slot fun x =>
      { x with counts := { x.counts with writesDropped := x.counts.writesDropped + 1 } } := by
  rw [State.countDropped, if_neg (by simp [h])]

/-- A change of a slot's order that keeps its slot is seen in that order. -/
theorem State.orderOf_changeOrder (s : State) (slot : Nat) (f : TargetedOrder → TargetedOrder)
    (hf : ∀ o, (f o).slot = o.slot) : (s.changeOrder slot f).orderOf slot = (s.orderOf slot).map f := by
  simp only [State.orderOf, State.changeOrder, List.find?_map]
  have same : ((fun o : TargetedOrder => decide (o.slot = slot)) ∘ fun o => if o.slot = slot then f o else o) =
      fun o => decide (o.slot = slot) := by
    funext o
    by_cases ho : o.slot = slot
    · simp [ho, hf]
    · simp [ho]
  rw [same]
  cases hfind : s.targeted.find? fun o => decide (o.slot = slot) with
  | none => rfl
  | some o =>
    have ho : o.slot = slot := by simpa using List.find?_some hfind
    rw [Option.map_some, Option.map_some, if_pos ho]

/-- The range cursor advances by one line. -/
def TargetedOrder.advanced (o : TargetedOrder) : TargetedOrder := { o with cursor := o.cursor + 1 }

/-- The end of a scrub visit: a QUIESCE that it completes, then the cursor, then the order's end. -/
theorem State.releaseScrub_eq {s q : State} {slot : Nat} {o : TargetedOrder}
    (hq : q = State.checkQuiesce { s with targetedOp := none }) (ho : s.orderOf slot = some o) :
    s.releaseScrub slot =
      if o.endLine ≤ o.cursor + 1 then
        (q.changeOrder slot TargetedOrder.advanced).completeTargeted o.advanced o.counts.fields
      else q.changeOrder slot TargetedOrder.advanced := by
  have kept : q.orderOf slot = some o := by
    obtain ⟨z, wr, w, j, m, e⟩ := State.checkQuiesce_frame { s with targetedOp := none }
    rw [hq, e]
    exact ho
  have advanced := q.orderOf_changeOrder slot TargetedOrder.advanced fun _ => rfl
  rw [kept, Option.map_some] at advanced
  unfold State.releaseScrub
  rw [← hq]
  change (match (q.changeOrder slot TargetedOrder.advanced).orderOf slot with
    | some x => if x.endLine ≤ x.cursor then
        (q.changeOrder slot TargetedOrder.advanced).completeTargeted x x.counts.fields
      else q.changeOrder slot TargetedOrder.advanced
    | none => q.changeOrder slot TargetedOrder.advanced) = _
  rw [advanced]
  rfl

/-- A change of a slot's order that keeps its slot leaves the orders of the other slots. -/
theorem State.mem_otherOrders (s : State) {slot : Nat} {f : TargetedOrder → TargetedOrder}
    (hf : ∀ o, (f o).slot = o.slot) (x : TargetedOrder) :
    x ∈ ((s.changeOrder slot f).targeted.filter fun o => decide (o.slot ≠ slot)) ↔ x ∈ s.targeted ∧ x.slot ≠ slot := by
  simp only [State.changeOrder, List.mem_filter, List.mem_map, decide_eq_true_eq]
  constructor
  · rintro ⟨⟨o, ho, rfl⟩, hne⟩
    by_cases hslot : o.slot = slot
    · rw [if_pos hslot, hf] at hne
      exact absurd hslot hne
    · rw [if_neg hslot]
      exact ⟨ho, hslot⟩
  · rintro ⟨hx, hne⟩
    exact ⟨⟨x, hx, if_neg hne⟩, hne⟩

/-- Settles O48: the read, the decode's end and the write of a visit, then the end of the visit by the end line. -/
theorem scrubVisitsItsRange : Obligations.ScrubVisitsItsRange := by
  refine ⟨fun c => ⟨rfl, rfl, rfl, rfl, rfl, rfl⟩, DecodeResult.content_cases, fun s o h hk =>
    ⟨fun errors hreq hgrant => ?_, fun op d hop ho _ hd => ?_, fun op c hop ho _ hc hgrant hs hm => ?_⟩,
    fun s q o hq ho => ⟨fun hmore => ?_, fun hend => ?_⟩⟩
  · refine ⟨_, _, rfl, rfl, ?_⟩
    rw [exec_scrubVisitReadGrant h (State.targetedReadFor_some hreq hk hgrant), State.countTargeted_eq,
      State.grantTargetedRead_eq]
    rfl
  · refine ⟨s.reportScrub o d, rfl, fun hcls => ?_, fun hcls => ?_⟩
    · rw [exec_scrubVisitDecodeEnd h (hop ▸ decodingOf_some hd) (State.underWay_some ho hk), State.endScrubDecode,
        if_pos (LineClass.isWrittenBack_of hcls), hop]
      rfl
    · rw [exec_scrubVisitDecodeEnd h (hop ▸ decodingOf_some hd) (State.underWay_some ho hk), State.endScrubDecode,
        if_neg (LineClass.not_isWrittenBack_of hcls)]
  · refine ⟨(s.visitWrite op (op.override.getD c)).countDropped op o.slot, ?_, fun hopen => ?_, fun hclosed => ?_⟩
    · rw [exec_scrubVisitWriteGrant h (hop ▸ writingOf_some hc) (State.underWay_some ho hk), o.precedence_eq,
        if_pos hgrant]
    · rw [State.countDropped_open _ _ hopen]
      exact State.visitWrite_open _ hopen hs hm
    · rw [State.countDropped_closed _ _ hclosed, State.visitWrite_closed _ _ hclosed]
  · obtain ⟨z, wr, w, j, m, e⟩ := State.checkQuiesce_frame { s with targetedOp := none }
    rw [State.releaseScrub_eq hq ho, if_neg (Nat.not_le.2 hmore), hq, e]
    rfl
  · obtain ⟨z, wr, w, j, m, e⟩ := State.checkQuiesce_frame { s with targetedOp := none }
    rw [State.releaseScrub_eq hq ho, if_pos hend]
    refine ⟨{ q with targeted := (q.changeOrder o.slot TargetedOrder.advanced).targeted.filter (fun x =>
      decide (x.slot ≠ o.slot)) }, ?_, fun x => ?_, rfl⟩
    · rw [e] at hq
      subst hq
      rfl
    · have same : q.targeted = s.targeted := by rw [hq, e]
      rw [← same]
      exact q.mem_otherOrders (f := TargetedOrder.advanced) (fun _ => rfl) x

/-! ## Copies (R133 to R135, R139) -/

theorem exec_copyReadGrant {s : State} (h : s.handOff = none) {e : RemapEntry} (hr : s.migrationRequest = some e)
    (errors : List SliceError) :
    exec (.copyReadGrant errors) s =
      .next (State.finish (if s.mayGrant e.rank 5 = true then s.grantCopyRead e errors else s)) := by
  show execCopyReadGrant errors s = _
  rw [execCopyReadGrant, act_next h]
  simp only [hr]

theorem exec_copyDecodeEnd {s : State} (h : s.handOff = none) {d : Decode} (hd : decodingOf s.migrationOp = some d) :
    exec .copyDecodeEnd s = .next (State.finish (s.endCopyDecode d)) := by
  show execCopyDecodeEnd s = _
  rw [execCopyDecodeEnd, act_next h]
  simp only [hd]

theorem exec_copyWriteGrant {s : State} (h : s.handOff = none) {op : OpenLine} {c : Content} {e : RemapEntry}
    (hw : writingOf s.migrationOp = some (op, c)) (he : s.migratingEntry = some e) :
    exec .copyWriteGrant s =
      .next (State.finish (if s.mayGrant op.rank 5 = true then (s.copyWrite e op c).endCopy e else s)) := by
  show execCopyWriteGrant s = _
  rw [execCopyWriteGrant, act_next h]
  simp only [hw, he]

/-- The copy read at the migration cursor, field by field. -/
theorem State.grantCopyRead_eq (s : State) (e : RemapEntry) (errors : List SliceError) :
    s.grantCopyRead e errors =
      { s with
        cells := (s.applyErrors e.rank e.oldRow e.cursor errors).cells,
        migrationOp := some (openRecord ((s.applyErrors e.rank e.oldRow e.cursor errors).decodeOf e.rank e.oldRow
          e.cursor (some (hostLineOf e.rank e.row e.cursor)) s.policy.backgroundBudget) none),
        counts := { s.counts with migration := s.counts.migration + 1 } } := by
  unfold State.grantCopyRead
  obtain ⟨m, hm⟩ := s.applyErrors_frame e.rank e.oldRow e.cursor errors
  rw [hm]

/-- A copy write with its record OPEN: the spare line, and the other engines' records there close. -/
theorem State.copyWrite_open {s : State} {op : OpenLine} (e : RemapEntry) (c : Content) (h : op.isOpen = true)
    (hs : (s.rankDevices e.rank).Sound) (hm : s.MemoriesCanonical) :
    s.LineStored (s.copyWrite e op c) e.rank (spareRow e.spare) e.cursor c ∧
    s.copyWrite e op c =
      { s with cells := (s.copyWrite e op c).cells, written := (s.copyWrite e op c).written,
               poisoned := (s.copyWrite e op c).poisoned,
               patrolOp := closeIf (fun r => r.isOn e.rank (spareRow e.spare) e.cursor) s.patrolOp,
               targetedOp := closeIf (fun r => r.isOn e.rank (spareRow e.spare) e.cursor) s.targetedOp,
               rebuildOp := closeIf (fun r => r.isOn e.rank (spareRow e.spare) e.cursor) s.rebuildOp } := by
  simp only [State.copyWrite, if_pos h]
  refine ⟨(s.writeLine_stored _ _ _ c hs hm).of_sameArray ⟨rfl, rfl, rfl⟩, ?_⟩
  obtain ⟨m, w, p, hw⟩ := s.writeLine_frame e.rank (spareRow e.spare) e.cursor c
  rw [hw]
  rfl

theorem State.copyWrite_closed (s : State) {op : OpenLine} (e : RemapEntry) (c : Content) (h : op.isOpen = false) :
    s.copyWrite e op c =
      { s with migration := s.migration.map fun m => { m with copiesDropped := m.copiesDropped + 1 } } := by
  rw [State.copyWrite, if_neg (by simp [h])]

/-- One change of a row's remap entry after another, both keeping the row. -/
theorem State.changeRemap_changeRemap (s : State) (rank row : Nat) (f g : RemapEntry → RemapEntry)
    (hf : ∀ x, (f x).rank = x.rank ∧ (f x).row = x.row) :
    (s.changeRemap rank row f).changeRemap rank row g = s.changeRemap rank row fun x => g (f x) := by
  simp only [State.changeRemap, List.map_map]
  congr 1
  refine List.map_congr_left fun x _ => ?_
  obtain ⟨hrank, hrow⟩ := hf x
  by_cases hx : x.rank = rank ∧ x.row = row
  · simp [hx, hrank, hrow]
  · simp [hx]

/-- The remap entry and the spare row after a completed migration (R139, steps 1 and 2). -/
theorem State.changeRemap_discardEarlier (s : State) (rank row : Nat) (f : RemapEntry → RemapEntry) (e : RemapEntry) :
    (s.changeRemap rank row f).discardEarlier e =
      { s with remaps := s.remaps.map fun x => if x.rank = rank ∧ x.row = row then f x else x,
               spares := (s.discardEarlier e).spares } := by
  unfold State.discardEarlier
  split
  · rfl
  · rfl

theorem State.discardEarlier_spares (s : State) (e : RemapEntry) :
    (s.discardEarlier e).spares =
      match e.earlier with
      | some i => (s.setSpareState e.rank i .discarded).spares
      | none => s.spares := by
  unfold State.discardEarlier
  cases e.earlier with
  | none => rfl
  | some i => rfl

/-- The slot of a completed migration is written DONE with the outcome at the present part time. -/
theorem State.finishMigrationSlot_at {s : State} {t : PartTime} (ht : s.time = t) (m : Migration) (e : RemapEntry) :
    s.finishMigrationSlot m e =
      match m.slot with
      | some slot => s.requestDone slot (doneLine (s.slot slot).taken t .ok .none (m.results e))
      | none => s := by
  subst ht
  unfold State.finishMigrationSlot
  cases m.slot with
  | none => rfl
  | some slot => rfl

/-- The removal of a fault entry and a record leave the part time. -/
theorem State.removeEntry_handPlain_time (s : State) (rank row : Nat) (k : RecordKind) (host : Option Nat) (r w : Nat)
    (ds : List Nat) : ((s.removeEntry rank row).handPlain k host r w ds).time = s.time := by
  obtain ⟨q, w, j, c, h⟩ := (s.removeEntry rank row).handPlain_frame k host r w ds
  rw [h]
  rfl

/-- The end of a column that is not the last: a QUIESCE that it completes, then the cursor. -/
theorem State.endCopy_more {s q : State} {e : RemapEntry} (hq : q = State.checkQuiesce { s with migrationOp := none })
    (hc : e.cursor + 1 < 128) :
    s.endCopy e = q.changeRemap e.rank e.row fun x => { x with cursor := x.cursor + 1 } := by
  unfold State.endCopy
  rw [← hq]
  exact if_pos hc

/-- The end of the last column: the migration is complete. -/
theorem State.endCopy_last {s q : State} {e : RemapEntry} {m : Migration}
    (hq : q = State.checkQuiesce { s with migrationOp := none }) (hc : 128 ≤ e.cursor + 1)
    (hm : q.migration = some m) :
    s.endCopy e =
      (q.changeRemap e.rank e.row fun x => { x with cursor := x.cursor + 1 }).completeMigration m e := by
  have kept : (q.changeRemap e.rank e.row fun x => { x with cursor := x.cursor + 1 }).migration = some m := hm
  unfold State.endCopy
  rw [← hq]
  refine (if_neg (Nat.not_lt.2 hc)).trans ?_
  rw [kept]

/-- Settles O50: the read, the decode's end and the write of a copy, then its end, before and at column 127. -/
theorem copyMovesOneColumn : Obligations.CopyMovesOneColumn := by
  refine ⟨fun m => ⟨rfl, rfl, rfl, rfl, rfl, rfl⟩, DecodeResult.content_cases, fun s e h =>
    ⟨fun errors hreq hgrant => ?_, fun op d hop hd => ?_, fun op c hop hc he hrank hgrant hs hm => ?_⟩,
    fun s q e hq => ⟨fun hmore => ?_, fun m hlast hm => ?_⟩⟩
  · refine ⟨_, _, rfl, rfl, ?_⟩
    rw [exec_copyReadGrant h hreq, if_pos hgrant, State.grantCopyRead_eq]
    rfl
  · refine ⟨_, rfl, ?_⟩
    rw [exec_copyDecodeEnd h (hop ▸ decodingOf_some hd), State.endCopyDecode, hop]
    rfl
  · refine ⟨s.copyWrite e op (op.override.getD c), ?_, fun hopen => State.copyWrite_open e _ hopen hs hm,
      s.copyWrite_closed e _⟩
    rw [exec_copyWriteGrant h (hop ▸ writingOf_some hc) he, hrank, if_pos hgrant]
  · obtain ⟨z, wr, w, j, sl, frame⟩ := State.checkQuiesce_frame { s with migrationOp := none }
    rw [State.endCopy_more hq hmore]
    rw [frame] at hq
    subst hq
    rfl
  · obtain ⟨z, wr, w, j, sl, frame⟩ := State.checkQuiesce_frame { s with migrationOp := none }
    have hqm : q.migration = some m := by
      rw [hq, frame]
      exact hm
    refine ⟨_, _, _, rfl, rfl, rfl, ?_⟩
    rw [State.endCopy_last hq hlast hqm, State.completeMigration]
    simp only [q.changeRemap_changeRemap _ _ (fun x => { x with cursor := x.cursor + 1 }) _ fun _ => ⟨rfl, rfl⟩,
      State.changeRemap_discardEarlier, State.discardEarlier_spares]
    rw [frame] at hq
    subst hq
    rw [State.finishMigrationSlot_at (State.removeEntry_handPlain_time _ _ _ _ _ _ _ _)]
    rfl

/-! ## Rebuild lines (R152 to R154, R156) -/

theorem exec_rebuildReadGrant {s : State} (h : s.handOff = none) {rank : Nat} (hr : s.currentChoice = some rank)
    (errors : List SliceError) :
    exec (.rebuildReadGrant errors) s =
      .next (State.finish (if s.mayGrant rank 6 = true then s.grantRebuildRead rank errors else s)) := by
  show execRebuildReadGrant errors s = _
  rw [execRebuildReadGrant, act_next h]
  simp only [hr]

theorem exec_rebuildDecodeEnd {s : State} (h : s.handOff = none) {d : Decode} (hd : decodingOf s.rebuildOp = some d) :
    exec .rebuildDecodeEnd s = .next (State.finish (s.endRebuildDecode d)) := by
  show execRebuildDecodeEnd s = _
  rw [execRebuildDecodeEnd, act_next h]
  simp only [hd]

theorem exec_rebuildWriteGrant {s : State} (h : s.handOff = none) {op : OpenLine} {c : Content}
    (hw : writingOf s.rebuildOp = some (op, c)) :
    exec .rebuildWriteGrant s =
      .next (State.finish (if s.mayGrant op.rank 6 = true then (s.rebuildWrite op c).endRebuildLine op else s)) := by
  show execRebuildWriteGrant s = _
  rw [execRebuildWriteGrant, act_next h]
  simp only [hw]

/-- The rebuild read of the rank's line at its cursor, field by field. -/
theorem State.grantRebuildRead_eq (s : State) (rank : Nat) (errors : List SliceError) {row column : Nat}
    (hrow : row = (s.rankDevices rank).cursor / 128) (hcolumn : column = (s.rankDevices rank).cursor % 128) :
    s.grantRebuildRead rank errors =
      { s with
        cells := (s.applyErrors rank row column errors).cells,
        rebuildOp := some (openRecord ((s.applyErrors rank row column errors).decodeOf rank row column
          (s.servedHost rank row column) s.policy.backgroundBudget) none),
        counts := { s.counts with rebuild := s.counts.rebuild + 1 }, lastRebuilt := rank } := by
  subst hrow hcolumn
  simp only [State.grantRebuildRead, Config.columns]
  obtain ⟨m, e⟩ := s.applyErrors_frame rank ((s.rankDevices rank).cursor / 128) ((s.rankDevices rank).cursor % 128) errors
  rw [e]
  rfl

/-- A rebuild write with its record OPEN is one line write. -/
theorem State.rebuildWrite_open {s : State} {op : OpenLine} (c : Content) (h : op.isOpen = true)
    (hs : (s.rankDevices op.rank).Sound) (hm : s.MemoriesCanonical) :
    s.LineStored (s.rebuildWrite op c) op.rank op.row op.column c ∧
    s.rebuildWrite op c =
      { s with cells := (s.rebuildWrite op c).cells, written := (s.rebuildWrite op c).written,
               poisoned := (s.rebuildWrite op c).poisoned } := by
  simp only [State.rebuildWrite, if_pos h]
  refine ⟨s.writeLine_stored _ _ _ c hs hm, ?_⟩
  obtain ⟨m, w, p, e⟩ := s.writeLine_frame op.rank op.row op.column c
  rw [e]

theorem State.rebuildWrite_closed (s : State) {op : OpenLine} (c : Content) (h : op.isOpen = false) :
    s.rebuildWrite op c = s.setRankDevices op.rank
      { s.rankDevices op.rank with writesDropped := (s.rankDevices op.rank).writesDropped + 1 } := by
  rw [State.rebuildWrite, if_neg (by simp [h])]

/-- The device map written to a rank is read back, and those of the other ranks are as before. -/
theorem State.rankDevices_setRankDevices (s : State) {rank : Nat} (h : rank < 4) (x : RankDevices) (r : Nat) :
    (s.setRankDevices rank x).rankDevices r = if r = rank then x else s.rankDevices r := by
  split
  · next hr =>
    rw [hr]
    exact nth_put_same _ _ _ _ h
  · next hr => exact nth_put_other _ _ _ _ _ hr

/-- The position found for a device is one of the 19. -/
theorem RankDevices.positionOf_lt {r : RankDevices} {d m : Nat} (h : r.positionOf d = some m) : m < 19 :=
  (firstBelow_eq_some.1 h).1

/-- The rank after its rebuild: device d REPLACED, device 19 ACTIVE in its position, the rest as before (R156, step 1). -/
theorem RankDevices.completed_spec (r : RankDevices) {d m : Nat} (hd : d < 19) (hm : m < 19) :
    (r.completed d m).stateOf d = .replaced ∧ (r.completed d m).stateOf 19 = .active ∧
    (∀ x, x < 19 → x ≠ d → (r.completed d m).stateOf x = r.stateOf x) ∧
    (r.completed d m).carrier m = 19 ∧ ∀ p, p ≠ m → (r.completed d m).carrier p = r.carrier p := by
  refine ⟨?_, nth_put_same _ _ _ _ (by decide), fun x hx hne => ?_, nth_put_same _ _ _ _ hm,
    fun p hne => nth_put_other _ _ _ _ _ hne⟩
  · exact (nth_put_other _ _ _ _ _ (by omega)).trans (nth_put_same _ _ _ _ (by omega))
  · exact (nth_put_other _ _ _ _ _ (by omega)).trans (nth_put_other _ _ _ _ _ hne)

/-- The completion of a rebuild with a MARKED device: the map, REBUILD_DONE, then every device is examined (R156). -/
theorem State.completeRebuild_marked {s : State} {rank d m : Nat} {r : RankDevices} (hr : s.rankDevices rank = r)
    (hd : r.markedDevice = some d) (hm : r.positionOf d = some m) :
    s.completeRebuild rank =
      ((s.setRankDevices rank (r.completed d m)).handPlain
        (.rebuildDone m r.startTime r.corrected r.uncorrectable r.poisoned r.writesDropped) none rank 0 [d]).examineDevices
          rank (fun _ => true) true := by
  unfold State.completeRebuild
  simp only [hr, hd, hm, Option.getD_some]

/-- The end of a rebuild line: the cursor is past it, and the last line of the rank completes the rebuild. -/
theorem State.endRebuildLine_eq {s q : State} {op : OpenLine} {index : Nat}
    (hq : q = State.checkQuiesce { s with rebuildOp := none }) (hi : index = op.row * 128 + op.column) :
    s.endRebuildLine op =
      if index + 1 < 33570816 then
        q.setRankDevices op.rank { q.rankDevices op.rank with cursor := index + 1 }
      else (q.setRankDevices op.rank { q.rankDevices op.rank with cursor := index + 1 }).completeRebuild op.rank := by
  unfold State.endRebuildLine
  rw [← hq, hi]
  rfl

/-- Settles O51: the read, the decode's end and the write of a line, then its end, before and at the last line. -/
theorem rebuildRewritesOneLine : Obligations.RebuildRewritesOneLine := by
  refine ⟨fun r => ⟨rfl, rfl, rfl, rfl, rfl, rfl⟩, DecodeResult.content_cases, fun s h =>
    ⟨fun errors rank index hreq hgrant hindex => ?_, fun op d hop hd => ?_, fun op c hop hc hgrant hs hm => ?_⟩,
    fun s q op index hq hrank hindex => ⟨fun hmore => ?_, fun d m hlast hd hd19 hm => ?_⟩⟩
  · subst hindex
    refine ⟨_, _, rfl, rfl, ?_⟩
    rw [exec_rebuildReadGrant h hreq, if_pos hgrant, s.grantRebuildRead_eq rank errors rfl rfl]
    rfl
  · refine ⟨_, rfl, ?_⟩
    rw [exec_rebuildDecodeEnd h (hop ▸ decodingOf_some hd), State.endRebuildDecode, hop]
    rfl
  · refine ⟨s.rebuildWrite op (op.override.getD c), ?_, fun hopen => State.rebuildWrite_open _ hopen hs hm,
      s.rebuildWrite_closed _⟩
    rw [exec_rebuildWriteGrant h (hop ▸ writingOf_some hc), if_pos hgrant]
  · obtain ⟨z, wr, w, j, sl, frame⟩ := State.checkQuiesce_frame { s with rebuildOp := none }
    rw [State.endRebuildLine_eq hq hindex, if_pos hmore]
    rw [frame] at hq
    subst hq
    rfl
  · have same : q.devices = s.devices := by
      obtain ⟨z, wr, w, j, sl, frame⟩ := State.checkQuiesce_frame { s with rebuildOp := none }
      rw [hq, frame]
    have hr : q.rankDevices op.rank = s.rankDevices op.rank := congrArg (nth · op.rank RankDevices.powerOn) same
    rw [State.endRebuildLine_eq hq hindex, if_neg (Nat.not_lt.2 hlast), hr]
    generalize ha : s.rankDevices op.rank = r at *
    obtain ⟨hreplaced, hactive, hstates, hspare, hcarriers⟩ := RankDevices.completed_spec
      { r with cursor := index + 1 } hd19 (RankDevices.positionOf_lt hm)
    have hmoved := q.rankDevices_setRankDevices hrank { r with cursor := index + 1 }
    have hdone := State.rankDevices_setRankDevices (q.setRankDevices op.rank { r with cursor := index + 1 }) hrank
      (RankDevices.completed { r with cursor := index + 1 } d m)
    have hothers : ∀ x, x < 4 → x ≠ op.rank →
        ((q.setRankDevices op.rank { r with cursor := index + 1 }).setRankDevices op.rank
          (RankDevices.completed { r with cursor := index + 1 } d m)).rankDevices x = s.rankDevices x := fun x _ hne => by
      rw [hdone, if_neg hne, hmoved, if_neg hne]
      exact congrArg (nth · x RankDevices.powerOn) same
    rw [State.completeRebuild_marked ((hmoved op.rank).trans (if_pos rfl)) hd hm]
    refine ⟨_, r, rfl, ?_, ?_, ?_, ?_, ?_, ?_, ?_, ?_, ?_, ?_, ?_, ?_, hothers, rfl, rfl⟩
    all_goals rw [(hdone op.rank).trans (if_pos rfl)]
    · exact hreplaced
    · exact hactive
    · exact hstates
    · exact hspare
    · exact fun p _ hne => hcarriers p hne
    all_goals rfl

end Sys2Proof.Machine
end

section
/-! PROOFS. The arbiter: holds, requests, claims, and grants out of turn. -/

namespace Sys2Proof.Machine

/-! ## Holds (R19, R87) -/

theorem State.window_eq_getElem (s : State) {i : Nat} (hi : i < 32) : s.window i = s.windows[i] := by
  simp [State.window, nth, hi]

/-- A class is held by an ACTIVE window whose scope contains it. -/
theorem State.heldByWindow_iff (s : State) (c : WorkClass) :
    s.heldByWindow c = true ↔ ∃ i, i < 32 ∧ (s.window i).state = .active ∧ (s.window i).scope.getLsbD c.bit = true := by
  simp only [State.heldByWindow, List.any_eq_true, Vector.mem_toList_iff, Bool.and_eq_true, decide_eq_true_eq]
  constructor
  · rintro ⟨w, hw, hstate, hscope⟩
    obtain ⟨i, hi, rfl⟩ := Vector.getElem_of_mem hw
    exact ⟨i, hi, by rw [s.window_eq_getElem hi]; exact hstate, by rw [s.window_eq_getElem hi]; exact hscope⟩
  · rintro ⟨i, hi, hstate, hscope⟩
    rw [s.window_eq_getElem hi] at hstate hscope
    exact ⟨_, Vector.getElem_mem hi, hstate, hscope⟩

theorem State.held_iff (s : State) (c : WorkClass) :
    s.held c = true ↔ s.heldByWindow c = true ∨ s.quiesced = true := by
  simp [State.held]

/-! ## Requests (R95, R117, R133, R152) -/

theorem State.patrolRequests_iff (s : State) :
    s.patrolRequests = true ↔ s.ready = true ∧ s.policy.patrolEnable = 1 ∧ s.held .patrol = false ∧
      1 ≤ s.patrol.owed ∧ s.patrolOp = none ∧ s.patrol.cursor < s.lTotal := by
  have hl : 1 ≤ s.linesRemaining ↔ s.patrol.cursor < s.lTotal := by
    unfold State.linesRemaining
    omega
  simp [State.patrolRequests, hl, and_assoc]

/-- The order the Targeted Scrub Engine chooses: the first urgent one, else the oldest while such may run. -/
theorem State.targetedChoice_eq_some (s : State) (o : TargetedOrder) :
    s.targetedChoice = some o ↔
      (∃ before after, s.targeted = before ++ o :: after ∧ o.urgent = true ∧ ∀ x ∈ before, x.urgent = false) ∨
      ((∀ x ∈ s.targeted, x.urgent = false) ∧ s.targeted.head? = some o ∧ s.heldByWindow .targeted = false ∧
        s.counts.targeted < s.counts.limit) := by
  have first : s.targeted.find? TargetedOrder.urgent = some o ↔
      ∃ before after, s.targeted = before ++ o :: after ∧ o.urgent = true ∧ ∀ x ∈ before, x.urgent = false := by
    rw [List.find?_eq_some_iff_append]
    constructor
    · rintro ⟨hu, before, after, hsplit, hbefore⟩
      exact ⟨before, after, hsplit, hu, fun x hx => by simpa using hbefore x hx⟩
    · rintro ⟨before, after, hsplit, hu, hbefore⟩
      exact ⟨hu, before, after, hsplit, fun x hx => by simpa using hbefore x hx⟩
  have none_urgent : s.targeted.find? TargetedOrder.urgent = none ↔ ∀ x ∈ s.targeted, x.urgent = false := by
    simp [List.find?_eq_none]
  rw [← first, ← none_urgent]
  unfold State.targetedChoice
  cases hfind : s.targeted.find? TargetedOrder.urgent with
  | some x => simp
  | none => simp [State.nonUrgentMayRun, and_comm, and_left_comm]

theorem State.targetedRequest_eq_some (s : State) (o : TargetedOrder) :
    s.targetedRequest = some o ↔
      s.ready = true ∧ s.targetedOp = none ∧ s.quiesced = false ∧ s.targetedChoice = some o := by
  simp [State.targetedRequest, and_assoc]

theorem State.migrationRequest_eq_some (s : State) (e : RemapEntry) :
    s.migrationRequest = some e ↔ s.ready = true ∧ s.held .migration = false ∧ s.counts.migration < s.counts.limit ∧
      s.migrationOp = none ∧ e.cursor < Config.columns ∧ ∃ m, s.migration = some m ∧ s.findRemap m.rank m.row = some e := by
  simp [State.migrationRequest, State.migratingEntry, Option.filter_eq_some_iff, Option.bind_eq_some_iff,
    and_assoc, and_comm, and_left_comm]

theorem State.rankRebuilding_iff (s : State) (r : Nat) :
    s.rankRebuilding r = true ↔
      r < s.ranks ∧ (s.rankDevices r).inFlight = true ∧ (s.rankDevices r).cursor < Config.physLinesPerRank := by
  simp [State.rankRebuilding, and_assoc]

theorem State.rebuildAllowed_iff (s : State) :
    s.rebuildAllowed = true ↔ s.ready = true ∧ s.held .rebuild = false ∧ s.counts.rebuild < s.counts.limit ∧
      s.rebuildOp = none := by
  simp [State.rebuildAllowed, and_assoc]

theorem State.nextRebuildRank_rebuilding {s : State} {last r : Nat} (h : s.nextRebuildRank last = some r) :
    s.rankRebuilding r = true := List.find?_some h

/-- The next rank in rebuild is the first that follows the last one cyclically. -/
theorem State.nextRebuildRank_eq {s : State} {last k : Nat} (hk : k < 4)
    (hr : s.rankRebuilding ((last + 1 + k) % 4) = true)
    (hfirst : ∀ j, j < k → s.rankRebuilding ((last + 1 + j) % 4) = false) :
    s.nextRebuildRank last = some ((last + 1 + k) % 4) := by
  have hfind : (List.range 4).find? (s.rankRebuilding ∘ fun i => (last + 1 + i) % 4) = some k :=
    firstBelow_eq_some.2 ⟨hk, hr, hfirst⟩
  rw [State.nextRebuildRank, List.find?_map, hfind]
  rfl

/-- A choice of rank is one that may be made, of a rank in rebuild. -/
theorem State.currentChoice_some {s : State} {r : Nat} (h : s.currentChoice = some r) :
    s.rebuildAllowed = true ∧ s.rankRebuilding r = true := by
  unfold State.currentChoice at h
  split at h
  · next hallowed =>
    refine ⟨hallowed, ?_⟩
    split at h
    · split at h
      · next hr =>
        rw [← Option.some.inj h]
        exact hr
      · exact State.nextRebuildRank_rebuilding h
    · exact State.nextRebuildRank_rebuilding h
  · cases h

/-- A choice once made is kept while its rank is in rebuild (log 29). -/
theorem State.currentChoice_kept {s : State} {r : Nat} (ha : s.rebuildAllowed = true) (hc : s.rebuildChoice = some r)
    (hr : s.rankRebuilding r = true) : s.currentChoice = some r := by
  simp only [State.currentChoice, if_pos ha, hc, if_pos hr]

/-- Without a choice that stands, the next rank is chosen. -/
theorem State.currentChoice_next {s : State} (ha : s.rebuildAllowed = true)
    (hc : ∀ r, s.rebuildChoice = some r → s.rankRebuilding r = false) :
    s.currentChoice = s.nextRebuildRank s.lastRebuilt := by
  rw [State.currentChoice, if_pos ha]
  cases hchoice : s.rebuildChoice with
  | none => rfl
  | some r => exact if_neg (by simp [hc r hchoice])

/-! ## Claims (R17) -/

/-- An engine waits for its write grant on the port of its record's rank. -/
theorem writeWaits_iff (x : Option OpenLine) (port : Nat) :
    writeWaits x port = true ↔ ∃ op c, x = some op ∧ op.stage = .writing c ∧ op.rank = port := by
  cases x with
  | none => simp [writeWaits]
  | some op => cases hs : op.stage <;> simp [writeWaits, hs]

theorem State.pairHolds_false_iff (s : State) (port : Nat) :
    s.pairHolds port = false ↔
      (∀ h d m x o, s.access port ≠ .merging h d m x o) ∧ ∀ h c o x, s.access port ≠ .halfWaits h c o x := by
  unfold State.pairHolds
  cases s.access port with
  | merging h d m x o => exact ⟨fun held => (nomatch held), fun free => absurd rfl (free.1 h d m x o)⟩
  | halfWaits h c o x => exact ⟨fun held => (nomatch held), fun free => absurd rfl (free.2 h c o x)⟩
  | idle => simp
  | readWaits h => simp
  | fullWaits h d => simp
  | mergeWaits h d m => simp
  | entryWaits h d m => simp

theorem State.mayGrant_iff (s : State) (port k : Nat) :
    s.mayGrant port k = true ↔ port < s.ranks ∧ (∀ h d m x o, s.access port ≠ .merging h d m x o) ∧
      (∀ h c o x, s.access port ≠ .halfWaits h c o x) ∧ ∀ j, j < k → s.claims port j = false := by
  have hp := s.pairHolds_false_iff port
  simp only [State.mayGrant, Bool.and_eq_true, decide_eq_true_eq, Bool.not_eq_true', hp, List.any_eq_false,
    List.mem_range, Bool.not_eq_true, and_assoc]

theorem State.claims_server (s : State) (port : Nat) :
    s.claims port 1 = true ↔ s.ready = true ∧ ((∃ h, s.access port = .readWaits h) ∨
      (∃ h d, s.access port = .fullWaits h d) ∨ (∃ h d m, s.access port = .mergeWaits h d m) ∨
      ∃ h d m, s.access port = .entryWaits h d m) := by
  show s.serverWaits port = true ↔ _
  unfold State.serverWaits
  cases s.access port <;> simp

theorem State.windowTraffic_iff (s : State) : s.windowTraffic = true ↔ s.ready = true ∨ s.restarting = true := by
  simp [State.windowTraffic]

theorem State.writerWaits_iff (s : State) (port : Nat) :
    s.writerWaits port = true ↔ s.windowTraffic = true ∧ port = s.windowRank ∧ s.writer ≠ [] := by
  simp [State.writerWaits, and_assoc]

theorem State.ownReadWaits_iff (s : State) (port : Nat) :
    s.ownReadWaits port = true ↔
      s.windowTraffic = true ∧ port = s.windowRank ∧ ∃ o, s.ownRead = some o ∧ o.stage = .requested := by
  unfold State.ownReadWaits
  cases s.ownRead with
  | none => simp
  | some o => cases hs : o.stage <;> simp [hs]

theorem State.claims_window (s : State) (port : Nat) :
    s.claims port 2 = true ↔ (s.ready = true ∨ s.restarting = true) ∧ port = rankOf s.base ∧
      (s.writer ≠ [] ∨ ∃ o, s.ownRead = some o ∧ o.stage = .requested) := by
  show (s.writerWaits port || s.ownReadWaits port) = true ↔ _
  rw [Bool.or_eq_true, s.writerWaits_iff, s.ownReadWaits_iff, s.windowTraffic_iff, ← and_or_left, ← and_or_left]
  rfl

theorem State.claims_writeBack (s : State) (port : Nat) :
    s.claims port 3 = true ↔ s.ready = true ∧ ∃ e ∈ s.writeBacks, rankOf e.host = port := by
  show (s.writeBackFor port).isSome = true ↔ _
  unfold State.writeBackFor
  cases hr : s.ready
  · simp
  · simp [List.find?_isSome]

theorem State.targetedClaims_iff (s : State) (port : Nat) (urgent : Bool) :
    s.targetedClaims port urgent = true ↔
      (∃ o, s.targetedRequest = some o ∧ o.urgent = urgent ∧ rankOf o.cursor = port) ∨
      (writeWaits s.targetedOp port = true ∧ ∃ o, s.orderUnderWay = some o ∧ o.urgent = urgent) := by
  simp only [State.targetedClaims, Bool.or_eq_true, Bool.and_eq_true, Option.any_eq_true, decide_eq_true_eq]

theorem State.claims_targeted (s : State) (port : Nat) (urgent : Bool) :
    s.claims port (if urgent = true then 4 else 7) = s.targetedClaims port urgent := by
  cases urgent
  · rfl
  · rfl

theorem State.claims_migration (s : State) (port : Nat) :
    s.claims port 5 = true ↔
      (∃ e, s.migrationRequest = some e ∧ e.rank = port) ∨ writeWaits s.migrationOp port = true := by
  show s.migrationClaims port = true ↔ _
  simp only [State.migrationClaims, Bool.or_eq_true, Option.any_eq_true, decide_eq_true_eq]

theorem State.claims_rebuild (s : State) (port : Nat) :
    s.claims port 6 = true ↔ s.currentChoice = some port ∨ writeWaits s.rebuildOp port = true := by
  show s.rebuildClaims port = true ↔ _
  simp only [State.rebuildClaims, Bool.or_eq_true, decide_eq_true_eq]

theorem State.claims_patrol (s : State) (port : Nat) :
    s.claims port 8 = true ↔
      (s.patrolRequests = true ∧ rankOf s.patrol.cursor = port) ∨ writeWaits s.patrolOp port = true := by
  show s.patrolClaims port = true ↔ _
  simp only [State.patrolClaims, Bool.or_eq_true, Bool.and_eq_true, decide_eq_true_eq]

/-! ## Grants out of turn (log 1) -/

section Denied

variable {s : State} (h : s.handOff = none)
include h

theorem exec_serverReadGrant_denied {port : Nat} (hg : s.mayGrant port 1 = false) (errors : List SliceError) :
    exec (.serverReadGrant port errors) s = .next s.finish := by
  show execServerReadGrant port errors s = _
  rw [execServerReadGrant, act_next h]
  split
  · rw [if_neg (by simp [hg])]
  · rfl

theorem exec_fullLineWriteGrant_denied {port : Nat} (hg : s.mayGrant port 1 = false) :
    exec (.fullLineWriteGrant port) s = .next s.finish := by
  show execFullLineWriteGrant port s = _
  rw [execFullLineWriteGrant, act_next h]
  split
  · rw [if_neg (by simp [hg])]
  · rfl

theorem exec_mergeReadGrant_denied {port : Nat} (hg : s.mayGrant port 1 = false) (errors : List SliceError) :
    exec (.mergeReadGrant port errors) s = .next s.finish := by
  show execMergeReadGrant port errors s = _
  rw [execMergeReadGrant, act_next h]
  split
  · rw [if_neg (by simp [hg])]
  · rfl

theorem exec_maskedWriteEntryGrant_denied {port : Nat} (hg : s.mayGrant port 1 = false) :
    exec (.maskedWriteEntryGrant port) s = .next s.finish := by
  show execMaskedWriteEntryGrant port s = _
  rw [execMaskedWriteEntryGrant, act_next h]
  split
  · rw [if_neg (by simp [hg])]
  · rfl

theorem exec_cwWriterGrant_denied (hg : s.mayGrant s.windowRank 2 = false) : exec .cwWriterGrant s = .next s.finish := by
  show execCwWriterGrant s = _
  rw [execCwWriterGrant, act_next h]
  split
  · rfl
  · rw [if_neg (by simp [hg])]

/-- The writer's oldest write goes before an own read. -/
theorem exec_ownReadGrant_denied (hg : s.mayGrant s.windowRank 2 = false ∨ s.writer ≠ []) (errors : List SliceError) :
    exec (.ownReadGrant errors) s = .next s.finish := by
  show execOwnReadGrant errors s = _
  rw [execOwnReadGrant, act_next h]
  split
  · rw [if_neg]
    rintro ⟨hread, hwriter, hmay⟩
    rcases hg with hg | hg
    · exact absurd (hg.symm.trans hmay) Bool.false_ne_true
    · have := (s.writerWaits_iff s.windowRank).2 ⟨((s.ownReadWaits_iff _).1 hread).1, rfl, hg⟩
      exact absurd (hwriter.symm.trans this) Bool.false_ne_true
  · rfl

theorem exec_writeBackGrant_denied {port : Nat} (hg : s.mayGrant port 3 = false) :
    exec (.writeBackGrant port) s = .next s.finish := by
  show execWriteBackGrant port s = _
  rw [execWriteBackGrant, act_next h]
  split
  · rw [if_neg (by simp [hg])]
  · rfl

omit h in
theorem State.targetedReadFor_denied (k : TargetedKind)
    (hg : ∀ o, s.targetedRequest = some o → s.mayGrant (rankOf o.cursor) (if o.urgent then 4 else 7) = false) :
    s.targetedReadFor k = none := by
  unfold State.targetedReadFor
  rw [Option.filter_eq_none_iff]
  intro o ho
  have : s.mayGrant (rankOf o.cursor) o.precedence = false := hg o ho
  simp [this]

theorem exec_scrubVisitReadGrant_denied (hr : s.targetedReadFor .scrubRange = none) (errors : List SliceError) :
    exec (.scrubVisitReadGrant errors) s = .next s.finish := by
  show execScrubVisitReadGrant errors s = _
  rw [execScrubVisitReadGrant, act_next h]
  simp only [hr]

theorem exec_probeReadGrant_denied (hr : s.targetedReadFor .probeLine = none) (errors : List SliceError) :
    exec (.probeReadGrant errors) s = .next s.finish := by
  show execProbeReadGrant errors s = _
  rw [execProbeReadGrant, act_next h]
  simp only [hr]

theorem exec_copyReadGrant_denied (hg : ∀ e, s.migrationRequest = some e → s.mayGrant e.rank 5 = false)
    (errors : List SliceError) : exec (.copyReadGrant errors) s = .next s.finish := by
  cases hr : s.migrationRequest with
  | some e => rw [exec_copyReadGrant h hr, if_neg (by simp [hg e hr])]
  | none =>
    show execCopyReadGrant errors s = _
    rw [execCopyReadGrant, act_next h]
    simp only [hr]

theorem exec_rebuildReadGrant_denied (hg : ∀ r, s.currentChoice = some r → s.mayGrant r 6 = false)
    (errors : List SliceError) : exec (.rebuildReadGrant errors) s = .next s.finish := by
  cases hr : s.currentChoice with
  | some r => rw [exec_rebuildReadGrant h hr, if_neg (by simp [hg r hr])]
  | none =>
    show execRebuildReadGrant errors s = _
    rw [execRebuildReadGrant, act_next h]
    simp only [hr]

theorem exec_patrolReadGrant_denied
    (hg : s.patrolRequests = false ∨ s.mayGrant (rankOf s.patrol.cursor) 8 = false) (errors : List SliceError) :
    exec (.patrolReadGrant errors) s = .next s.finish := by
  rw [exec_patrolReadGrant h, if_neg]
  rintro ⟨hreq, hmay⟩
  rcases hg with hg | hg
  · exact absurd (hg.symm.trans hreq) Bool.false_ne_true
  · exact absurd (hg.symm.trans hmay) Bool.false_ne_true

omit h in
/-- The record of an operation that waits for its write grant is the engine's own. -/
theorem writingOf_eq_some {x : Option OpenLine} {op : OpenLine} {c : Content} (hw : writingOf x = some (op, c)) :
    x = some op := by
  unfold writingOf at hw
  split at hw
  · split at hw
    · cases hw
    · cases hw
      rfl
  · cases hw

theorem exec_scrubVisitWriteGrant_denied {op : OpenLine} {o : TargetedOrder} (hop : s.targetedOp = some op)
    (ho : s.orderUnderWay = some o) (hg : s.mayGrant op.rank (if o.urgent then 4 else 7) = false) :
    exec .scrubVisitWriteGrant s = .next s.finish := by
  show execScrubVisitWriteGrant s = _
  rw [execScrubVisitWriteGrant, act_next h]
  split
  · next op' c o' hw hu =>
    have hop' : op' = op := Option.some.inj ((writingOf_eq_some hw).symm.trans hop)
    have ho' : o' = o := Option.some.inj ((Option.filter_eq_some_iff.1 hu).1.symm.trans ho)
    subst hop' ho'
    rw [TargetedOrder.precedence_eq, if_neg (by simp [hg])]
  · rfl

theorem exec_copyWriteGrant_denied {op : OpenLine} (hop : s.migrationOp = some op) (hg : s.mayGrant op.rank 5 = false) :
    exec .copyWriteGrant s = .next s.finish := by
  show execCopyWriteGrant s = _
  rw [execCopyWriteGrant, act_next h]
  split
  · next op' c e hw he =>
    have hop' : op' = op := Option.some.inj ((writingOf_eq_some hw).symm.trans hop)
    subst hop'
    rw [if_neg (by simp [hg])]
  · rfl

theorem exec_rebuildWriteGrant_denied {op : OpenLine} (hop : s.rebuildOp = some op)
    (hg : s.mayGrant op.rank 6 = false) : exec .rebuildWriteGrant s = .next s.finish := by
  show execRebuildWriteGrant s = _
  rw [execRebuildWriteGrant, act_next h]
  split
  · next op' c hw =>
    have hop' : op' = op := Option.some.inj ((writingOf_eq_some hw).symm.trans hop)
    subst hop'
    rw [if_neg (by simp [hg])]
  · rfl

theorem exec_patrolWriteGrant_denied {op : OpenLine} (hop : s.patrolOp = some op)
    (hg : s.mayGrant op.rank 8 = false) : exec .patrolWriteGrant s = .next s.finish := by
  show execPatrolWriteGrant s = _
  rw [execPatrolWriteGrant, act_next h]
  split
  · next op' c hw =>
    have hop' : op' = op := Option.some.inj ((writingOf_eq_some hw).symm.trans hop)
    subst hop'
    rw [if_neg (by simp [hg])]
  · rfl

end Denied

/-- Settles O60: the holds, each engine's request, the rebuild's choice, each claim, and each grant out of turn. -/
theorem arbiterGrantsByPrecedence : Obligations.ArbiterGrantsByPrecedence := by
  refine ⟨fun s c => ⟨?_, s.held_iff c⟩,
    fun s => ⟨s.patrolRequests_iff, fun o => ?_, s.migrationRequest_eq_some⟩,
    fun s rebuilding hreb => ⟨fun r hr => ?_, fun hready hheld hcount hop => ⟨fun r hc hr => ?_,
      fun k hc hk hr hfirst => ?_⟩⟩,
    fun s port waits hw => ⟨s.mayGrant_iff port, s.claims_server port, s.claims_window port, s.claims_writeBack port,
      fun urgent => ?_, ?_, ?_, ?_, rfl⟩,
    fun s errors h => ⟨fun port hg => ⟨exec_serverReadGrant_denied h hg errors, exec_fullLineWriteGrant_denied h hg,
        exec_mergeReadGrant_denied h hg errors, exec_maskedWriteEntryGrant_denied h hg⟩,
      exec_cwWriterGrant_denied h, fun hg => exec_ownReadGrant_denied h hg errors,
      fun port hg => exec_writeBackGrant_denied h hg,
      fun hg => ⟨exec_scrubVisitReadGrant_denied h (State.targetedReadFor_denied _ hg) errors,
        exec_probeReadGrant_denied h (State.targetedReadFor_denied _ hg) errors⟩,
      fun hg => exec_copyReadGrant_denied h hg errors, fun hg => exec_rebuildReadGrant_denied h hg errors,
      fun hg => exec_patrolReadGrant_denied h hg errors,
      fun op o hop ho hg => exec_scrubVisitWriteGrant_denied h hop ho hg,
      fun op hop hg => exec_copyWriteGrant_denied h hop hg, fun op hop hg => exec_rebuildWriteGrant_denied h hop hg,
      fun op hop hg => exec_patrolWriteGrant_denied h hop hg⟩⟩
  · rw [s.heldByWindow_iff]
    cases c with
    | patrol => rfl
    | migration => rfl
    | rebuild => rfl
    | targeted => rfl
  · rw [s.targetedRequest_eq_some, s.targetedChoice_eq_some]
  · obtain ⟨hallowed, hrank⟩ := State.currentChoice_some hr
    obtain ⟨hready, hheld, hcount, hop⟩ := s.rebuildAllowed_iff.1 hallowed
    exact ⟨hready, hheld, hcount, hop, (hreb r).2 ((s.rankRebuilding_iff r).1 hrank)⟩
  · exact State.currentChoice_kept (s.rebuildAllowed_iff.2 ⟨hready, hheld, hcount, hop⟩) hc
      ((s.rankRebuilding_iff r).2 ((hreb r).1 hr))
  · have not_rebuilding : ∀ r, ¬ rebuilding r → s.rankRebuilding r = false := fun r hn =>
      Bool.eq_false_iff.2 fun h' => hn ((hreb r).2 ((s.rankRebuilding_iff r).1 h'))
    rw [State.currentChoice_next (s.rebuildAllowed_iff.2 ⟨hready, hheld, hcount, hop⟩) fun r h' =>
      not_rebuilding r (hc r h')]
    exact State.nextRebuildRank_eq hk ((s.rankRebuilding_iff _).2 ((hreb _).1 hr)) fun j hj =>
      not_rebuilding _ (hfirst j hj)
  · rw [s.claims_targeted, s.targetedClaims_iff, writeWaits_iff, hw]
  · rw [s.claims_migration, writeWaits_iff, hw]
  · rw [s.claims_rebuild, writeWaits_iff, hw]
  · rw [s.claims_patrol, writeWaits_iff, hw]

end Sys2Proof.Machine
end

section
/-! PROOFS. Deep correction: the suspect list and its order, the hypothesis search, and what the reader of a decode
reports. -/

namespace Sys2Proof.Machine

/-! ## Devices by tally (R27, R72) -/

/-- The order of the second part of the suspect list: descending tally, ties to the lower number. -/
def State.TallyOrder (s : State) (rank a b : Nat) : Prop :=
  s.tally rank b < s.tally rank a ∨ (s.tally rank a = s.tally rank b ∧ a < b)

theorem State.mem_devicesByTally (s : State) (rank d : Nat) : d ∈ s.devicesByTally rank ↔ d < 20 := by
  rw [State.devicesByTally, List.mem_insertionSort, List.mem_range, Config.devicesPerRank]

theorem State.devicesByTally_nodup (s : State) (rank : Nat) : (s.devicesByTally rank).Nodup :=
  (List.perm_insertionSort _ _).nodup_iff.2 List.nodup_range

/-- The sort leaves equal tallies in weak order of number; no device being listed twice, the order is strict. -/
theorem State.devicesByTally_pairwise (s : State) (rank : Nat) :
    (s.devicesByTally rank).Pairwise (s.TallyOrder rank) := by
  have sorted := @List.pairwise_insertionSort Nat
    (fun a b => s.tally rank b < s.tally rank a ∨ (s.tally rank a = s.tally rank b ∧ a ≤ b)) _
    ⟨fun a b => by omega⟩ ⟨fun a b c => by omega⟩ (List.range Config.devicesPerRank)
  refine sorted.imp₂ (fun a b hab hne => ?_) (s.devicesByTally_nodup rank)
  exact hab.imp_right fun ⟨heq, hle⟩ => ⟨heq, Nat.lt_of_le_of_ne hle hne⟩

/-! ## The suspect list (R25 to R29) -/

theorem State.ownDevices_of_entry {s : State} {rank h : Nat} {e : FaultEntry}
    (he : s.findEntry rank (rowOf h) = some e) :
    s.ownDevices rank (some h) = (List.range 20).filter (inSet e.devices) := by
  have hfind : s.table.find? (fun e => decide (e.rank = rank ∧ e.row = rowOf h)) = some e := he
  simp only [State.ownDevices, hfind, Config.devicesPerRank]

theorem State.ownDevices_of_no_entry {s : State} {rank h : Nat} (he : s.findEntry rank (rowOf h) = none) :
    s.ownDevices rank (some h) = [] := by
  have hfind : s.table.find? (fun e => decide (e.rank = rank ∧ e.row = rowOf h)) = none := he
  simp only [State.ownDevices, hfind]

/-- The first part of the list holds the devices of the row's own entry (R26). -/
theorem State.mem_ownDevices (s : State) (rank : Nat) (host : Option Nat) (d : Nat) :
    d ∈ s.ownDevices rank host ↔
      d < 20 ∧ ∃ h e, host = some h ∧ s.findEntry rank (rowOf h) = some e ∧ inSet e.devices d = true := by
  cases host with
  | none => simp [State.ownDevices]
  | some h =>
    cases he : s.findEntry rank (rowOf h) with
    | none => simp [State.ownDevices_of_no_entry he, he]
    | some e => simp [State.ownDevices_of_entry he, he]

theorem State.ownDevices_ascending (s : State) (rank : Nat) (host : Option Nat) :
    (s.ownDevices rank host).Pairwise (· < ·) := by
  cases host with
  | none => exact List.Pairwise.nil
  | some h =>
    cases he : s.findEntry rank (rowOf h) with
    | none => rw [State.ownDevices_of_no_entry he]; exact List.Pairwise.nil
    | some e => rw [State.ownDevices_of_entry he]; exact List.Pairwise.filter _ List.pairwise_lt_range

/-- The second part of the list: the other devices of tally 1 or more (R27). -/
def State.otherDevices (s : State) (rank : Nat) (host : Option Nat) : List Nat :=
  (s.devicesByTally rank).filter fun d => decide (1 ≤ s.tally rank d) && !(s.ownDevices rank host).contains d

theorem State.suspectDevices_eq (s : State) (rank : Nat) (host : Option Nat) :
    s.suspectDevices rank host = s.ownDevices rank host ++ s.otherDevices rank host := rfl

theorem State.mem_otherDevices (s : State) (rank : Nat) (host : Option Nat) (d : Nat) :
    d ∈ s.otherDevices rank host ↔ d < 20 ∧ 1 ≤ s.tally rank d ∧ d ∉ s.ownDevices rank host := by
  simp [State.otherDevices, s.mem_devicesByTally]

theorem State.otherDevices_pairwise (s : State) (rank : Nat) (host : Option Nat) :
    (s.otherDevices rank host).Pairwise (s.TallyOrder rank) :=
  (s.devicesByTally_pairwise rank).filter _

theorem RankDevices.suspectPosition_dropped {r : RankDevices} (carriers : List Nat) {d : Nat}
    (h : r.stateOf d = .marked ∨ r.stateOf d = .replaced) : r.suspectPosition carriers d = none := by
  rw [RankDevices.suspectPosition, if_pos h]

/-- A device that is neither MARKED nor REPLACED gives the first position it carries in the placement (R28). -/
theorem RankDevices.suspectPosition_eq_some {r : RankDevices} (carriers : List Nat) {d : Nat}
    (hm : r.stateOf d ≠ .marked) (hr : r.stateOf d ≠ .replaced) (p : Nat) :
    r.suspectPosition carriers d = some p ↔
      p < 19 ∧ carriers[p]? = some d ∧ ∀ q, q < p → carriers[q]? ≠ some d := by
  rw [RankDevices.suspectPosition, if_neg (not_or.2 ⟨hm, hr⟩), firstBelow_eq_some]
  simp only [Config.positions, decide_eq_true_eq, decide_eq_false_iff_not, ne_eq]

/-! ## The hypothesis search (R23, R24, R32) -/

/-- With no damaged suspect, or with a damaged set of other than two positions, no hypothesis succeeds. -/
theorem Decode.firstSuccess_eq_none {d : Decode}
    (h : d.damaged.length ≠ 2 ∨ ∀ z ∈ d.suspects, z ∉ d.damaged) : d.firstSuccess = none := by
  unfold Decode.firstSuccess
  split
  · next h2 =>
    have hall := h.resolve_left (not_not_intro h2)
    refine List.find?_eq_none.2 fun i hi => ?_
    have hlt : i < d.suspects.length := List.mem_range.1 hi
    simpa [hlt] using hall _ (List.getElem_mem hlt)
  · rfl

/-- The first damaged suspect ends the search, the damaged set holding two positions (R24). -/
theorem Decode.firstSuccess_eq_some {d : Decode} {before after : List Nat} {x : Nat} (h2 : d.damaged.length = 2)
    (hs : d.suspects = before ++ x :: after) (hx : x ∈ d.damaged) (hb : ∀ z ∈ before, z ∉ d.damaged) :
    d.firstSuccess = some before.length := by
  rw [Decode.firstSuccess, if_pos h2, firstBelow_eq_some]
  refine ⟨by simp [hs], by simpa [hs] using hx, fun j hj => ?_⟩
  have hj' : d.suspects[j]? = some before[j] := by rw [hs, List.getElem?_append_left hj, List.getElem?_eq_getElem hj]
  simpa [hj'] using hb _ (List.getElem_mem hj)

theorem Decode.search_lost {d : Decode} (h : d.firstSuccess = none) :
    d.search = d.lost .uncorrectable d.suspects.length := by
  simp only [Decode.search, h]

/-- A trial that succeeds names its suspect and the other damaged position. -/
theorem Decode.search_recovered {d : Decode} {before after : List Nat} {x y : Nat} (hxy : x ≠ y)
    (hd : d.damaged = [x, y] ∨ d.damaged = [y, x]) (hs : d.suspects = before ++ x :: after)
    (hb : ∀ z ∈ before, z ≠ x ∧ z ≠ y) :
    d.search = d.recovered .deepCorrected [x, y] (before.length + 1) := by
  have hmem : ∀ z, z ∈ d.damaged ↔ z = x ∨ z = y := by
    rcases hd with hd | hd
    · simp [hd]
    · simp [hd, or_comm]
  have hlen : d.damaged.length = 2 := by rcases hd with hd | hd <;> rw [hd] <;> rfl
  have hother : (d.damaged.filter fun p => decide (p ≠ x)) = [y] := by
    rcases hd with hd | hd
    · simp [hd, hxy.symm]
    · simp [hd, hxy.symm]
  have hfirst := Decode.firstSuccess_eq_some hlen hs ((hmem x).2 (.inl rfl)) fun z hz hmz =>
    ((hmem z).1 hmz).elim (hb z hz).1 (hb z hz).2
  have hat : d.suspects[before.length]?.getD 0 = x := by simp [hs]
  simp only [Decode.search, hfirst, hat, hother]

/-- A line without poison and without a marked position is lost where no hypothesis succeeds. -/
theorem Decode.classify_search_lost {d : Decode} (hp : d.content.poison = false) (hm : d.marked = none)
    (hl : 2 ≤ d.damaged.length) (h : d.firstSuccess = none) :
    d.classify = d.lost .uncorrectable d.suspects.length := by
  rw [Decode.classify_plain hp hm, Decode.classifyPlain_search hl, Decode.search_lost h]

/-- Settles O12: the two parts of the list by membership and order, then the search by its first success. -/
theorem searchTriesSuspectsInOrder : Obligations.SearchTriesSuspectsInOrder := by
  refine ⟨fun s rank host => ⟨s.ownDevices rank host, s.otherDevices rank host, s.mem_ownDevices rank host,
      s.ownDevices_ascending rank host, s.mem_otherDevices rank host, s.otherDevices_pairwise rank host,
      fun index budget => ⟨(s.rankDevices rank).suspectPosition ((s.rankDevices rank).readFrom index), ?_,
        fun d => RankDevices.suspectPosition_dropped _, fun d p hm hr => RankDevices.suspectPosition_eq_some _ hm hr p⟩⟩,
    fun d before after x y hp hm hxy => ⟨fun hd hs hb => ?_, fun hl hz => ?_, fun hl => ?_⟩⟩
  · rw [State.suspectList, s.suspectDevices_eq]
  · have hl : 2 ≤ d.damaged.length := by rcases hd with hd | hd <;> rw [hd] <;> exact Nat.le_refl 2
    rw [Decode.classify_plain hp hm, Decode.classifyPlain_search hl, Decode.search_recovered hxy hd hs hb]
    exact ⟨rfl, rfl, rfl, rfl, rfl⟩
  · rw [Decode.classify_search_lost hp hm hl (Decode.firstSuccess_eq_none (.inr hz))]
    exact ⟨rfl, rfl⟩
  · rw [Decode.classify_search_lost hp hm (Nat.le_of_lt hl)
      (Decode.firstSuccess_eq_none (.inl (Nat.ne_of_gt hl)))]
    exact ⟨rfl, rfl⟩

/-! ## What the reader of a decode reports (R42, R62, R97, R153) -/

section Report

variable {s : State} {d : Decode} {src : Source} {t : PartTime}

theorem State.report_nothing (h : d.classify.cls = .clean ∨ d.classify.cls = .poisoned) : s.report d src t = s := by
  rcases h with h | h
  · simp only [State.report, h]
  · simp only [State.report, h]

theorem State.report_erased (h : d.classify.cls = .erased) : s.report d src t = s.countErased := by
  simp only [State.report, h]

theorem State.report_corrected (h : d.classify.cls = .corrected) :
    s.report d src t = ((s.scoreDecode d t).handRecord (d.record .corrected src t)).countCorrected := by
  simp only [State.report, h]

theorem State.report_deepCorrected (h : d.classify.cls = .deepCorrected) :
    s.report d src t = ((s.scoreDecode d t).handRecord (d.record .deepCorrected src t)).countDeepCorrected := by
  simp only [State.report, h]

theorem State.report_uncorrectable (h : d.classify.cls = .uncorrectable) :
    s.report d src t =
      ((((s.scoreDecode d t).handRecord (d.record .uncorrectable src t)).countUncorrectable).noteUncorrectable
        d.host t).raiseCause .uncorrectable := by
  simp only [State.report, h]

/-- A line that serves a host line is scored at its class's weight; a line that serves none is not scored. -/
theorem State.scoreDecode_host {h : Nat} (hh : d.host = some h) {c : LineClass} (hc : d.classify.cls = c) :
    s.scoreDecode d t = s.scoredEvent d.rank (rowOf h) c.weight d.classify.devices t := by
  simp only [State.scoreDecode, hh, hc]

theorem State.scoreDecode_no_host (hh : d.host = none) : s.scoreDecode d t = s := by
  simp only [State.scoreDecode, hh]

end Report

theorem State.raiseCause_uncorrectable (s : State) :
    (s.raiseCause .uncorrectable).journal.causes.uncorrectable = true := by
  obtain ⟨w, e⟩ := s.raiseCause_eq .uncorrectable
  rw [e]
  rfl

/-- Settles O17: the report of each class, with the score of a line that serves a host line and without. -/
theorem reportFollowsClass : Obligations.ReportFollowsClass := by
  intro s d src t
  refine ⟨fun kind => rfl, State.report_nothing, State.report_erased, fun h hh hc => ?_, fun h hh hc => ?_,
    fun h hh hc => ?_, fun hh hc => ?_, fun hh hc => ?_, fun hh hc => ?_, fun hc => ?_⟩
  · rw [State.report_corrected hc, State.scoreDecode_host hh hc]
    rfl
  · rw [State.report_deepCorrected hc, State.scoreDecode_host hh hc]
    rfl
  · rw [State.report_uncorrectable hc, State.scoreDecode_host hh hc, hh]
    rfl
  · rw [State.report_corrected hc, State.scoreDecode_no_host hh]
  · rw [State.report_deepCorrected hc, State.scoreDecode_no_host hh]
  · rw [State.report_uncorrectable hc, State.scoreDecode_no_host hh, hh]
    rfl
  · rw [State.report_uncorrectable hc]
    exact State.raiseCause_uncorrectable _

end Sys2Proof.Machine
end

section
/-! PROOFS. The queues: what each shared operation does to the places, the order of accesses, the write-backs and the
slots held TAKEN. -/

namespace Sys2Proof.Machine

/-! ## The relation that every step keeps -/

/-- From `s` to `t` every queue stays within its places, the write-backs stay distinct, and the slots held TAKEN stay in
their range. -/
structure State.KeepsPlaces (s t : State) : Prop where
  writer : s.writer.length ≤ writerCapacity → t.writer.length ≤ writerCapacity
  writeBacks : s.writeBacks.length ≤ writeBackCapacity → t.writeBacks.length ≤ writeBackCapacity
  staging : s.journal.staging.length ≤ stagingCapacity → t.journal.staging.length ≤ stagingCapacity
  targeted : s.targeted.length ≤ targetedCapacity → t.targeted.length ≤ targetedCapacity
  retirements : s.migrationQueue.length ≤ migrationCapacity → t.migrationQueue.length ≤ migrationCapacity
  distinct : s.WriteBacksDistinct → t.WriteBacksDistinct
  slots : s.SlotsHeldInRange → t.SlotsHeldInRange

/-- The places are kept, and accesses wait on a rank port only behind one that has not received its grants. -/
structure State.KeepsQueues (s t : State) : Prop extends State.KeepsPlaces s t where
  accesses : s.AccessesInOrder → t.AccessesInOrder

theorem State.KeepsPlaces.refl (s : State) : s.KeepsPlaces s := ⟨id, id, id, id, id, id, id⟩

theorem State.KeepsPlaces.trans {s t u : State} (h : s.KeepsPlaces t) (h' : t.KeepsPlaces u) : s.KeepsPlaces u :=
  ⟨h'.writer ∘ h.writer, h'.writeBacks ∘ h.writeBacks, h'.staging ∘ h.staging, h'.targeted ∘ h.targeted,
    h'.retirements ∘ h.retirements, h'.distinct ∘ h.distinct, h'.slots ∘ h.slots⟩

theorem State.KeepsQueues.refl (s : State) : s.KeepsQueues s := ⟨.refl s, id⟩

/-- The last operation first, so that it tells the state it starts from. -/
theorem State.KeepsQueues.after {s t u : State} (h' : t.KeepsQueues u) (h : s.KeepsQueues t) : s.KeepsQueues u :=
  ⟨h.toKeepsPlaces.trans h'.toKeepsPlaces, h'.accesses ∘ h.accesses⟩

/-- What the queues' invariants are read off. -/
def State.queueFields (s : State) : List WriterItem × List WriteBack × List JournalRecord × List TargetedOrder ×
    List Retirement × Vector PortAccess 4 × Vector (List ServerAccess) 4 × Vector SlotMirror 256 × Option Nat :=
  (s.writer, s.writeBacks, s.journal.staging, s.targeted, s.migrationQueue, s.ports, s.arrivals, s.slots, s.takeSlot)

/-- A state that differs in none of these fields. -/
theorem State.KeepsQueues.of_same {s t : State} (h : t.queueFields = s.queueFields) : s.KeepsQueues t := by
  simp only [State.queueFields, Prod.mk.injEq] at h
  obtain ⟨hwriter, hback, hstaging, htargeted, hqueue, hports, harrivals, hslots, htake⟩ := h
  refine ⟨⟨?_, ?_, ?_, ?_, ?_, ?_, ?_⟩, ?_⟩
  · rw [hwriter]; exact id
  · rw [hback]; exact id
  · rw [hstaging]; exact id
  · rw [htargeted]; exact id
  · rw [hqueue]; exact id
  · rw [State.WriteBacksDistinct, State.WriteBacksDistinct, hback]; exact id
  · simp only [State.SlotsHeldInRange, State.takenWhere, State.slot, hslots, htake]; exact id
  · simp only [State.AccessesInOrder, State.access, State.arrivalsAt, hports, harrivals, imp_self]

theorem State.KeepsQueues.then_same {s t u : State} (h : s.KeepsQueues t) (e : u.queueFields = t.queueFields) :
    s.KeepsQueues u := .after (.of_same e) h

/-! ## The slots held TAKEN (R164, R166) -/

theorem countBelow_mono {n : Nat} {p q : Nat → Bool} (h : ∀ i, p i = true → q i = true) :
    countBelow n p ≤ countBelow n q := List.countP_mono_left fun i _ => h i

/-- One index more. -/
theorem countBelow_le_succ {n k : Nat} {p q : Nat → Bool} (h : ∀ i, p i = true → i = k ∨ q i = true) :
    countBelow n p ≤ countBelow n q + 1 := by
  have one : (List.range n).countP (fun i => decide (i = k)) ≤ 1 := by
    have := (List.nodup_iff_count_le_one.1 (List.nodup_range (n := n))) k
    simpa [List.count, BEq.beq] using this
  have split : countBelow n p ≤ (List.range n).countP (fun i => decide (i = k)) + countBelow n q := by
    unfold countBelow
    induction List.range n with
    | nil => simp
    | cons i l ih =>
      simp only [List.countP_cons]
      have hi : (if p i = true then 1 else 0) ≤ (if decide (i = k) = true then 1 else 0) + if q i = true then 1 else 0 := by
        by_cases hp : p i = true
        · rcases h i hp with hk | hq
          · rw [if_pos hp, if_pos (decide_eq_true hk)]
            exact Nat.le_add_right 1 _
          · simp [hp, hq]
        · simp [hp]
      omega
  omega

/-- No slot becomes held TAKEN, and no take begins. -/
theorem State.SlotsHeldInRange.shrink {s t : State} (h : s.SlotsHeldInRange)
    (hslot : ∀ i, (t.slot i).state = .taken → (s.slot i).state = .taken)
    (htake : t.takeSlot = s.takeSlot ∨ t.takeSlot = none) : t.SlotsHeldInRange := by
  obtain ⟨hcount, hbeside⟩ := h
  refine ⟨le_trans (countBelow_mono fun i hi => by simpa using hslot i (by simpa using hi)) hcount, fun hs => ?_⟩
  rcases htake with htake | htake
  · refine le_trans (countBelow_mono fun i hi => ?_) (hbeside (htake ▸ hs))
    simp only [htake, Bool.and_true, Bool.and_eq_true, decide_eq_true_eq] at hi ⊢
    exact ⟨hslot i hi.1, hi.2⟩
  · rw [htake] at hs
    cases hs

/-- The slot whose take has begun is held TAKEN: the 14th at most. -/
theorem State.SlotsHeldInRange.hold {s t : State} (h : s.SlotsHeldInRange) {slot : Nat} (hs : s.takeSlot = some slot)
    (hslot : ∀ i, (t.slot i).state = .taken → i = slot ∨ (s.slot i).state = .taken)
    (htake : t.takeSlot = some slot ∨ t.takeSlot = none) : t.SlotsHeldInRange := by
  have beside : s.takenWhere (fun _ => true) ≤ 13 := h.2 (by rw [hs]; rfl)
  refine ⟨?_, fun ht => ?_⟩
  · have : countBelow 256 (fun i => decide ((t.slot i).state = .taken)) ≤ s.takenWhere (fun _ => true) + 1 := by
      refine countBelow_le_succ (k := slot) fun i hi => ?_
      by_cases hk : i = slot
      · exact .inl hk
      · have := (hslot i (by simpa using hi)).resolve_left hk
        simp [this, hs, Ne.symm hk]
    omega
  · rcases htake with htake | htake
    · refine le_trans (countBelow_mono fun i hi => ?_) beside
      simp only [htake, Bool.and_true, Bool.and_eq_true, decide_eq_true_eq] at hi
      have hne : i ≠ slot := fun e => hi.2 (by rw [e])
      simp [(hslot i hi.1).resolve_left hne, hs, hne.symm]
    · rw [htake] at ht
      cases ht

/-- A slot's mirror as written, or, for an index past 255, as it was. -/
theorem State.slot_setSlot (s : State) (k : Nat) (m : SlotMirror) (i : Nat) :
    (s.setSlot k m).slot i = s.slot i ∨ i = k ∧ (s.setSlot k m).slot i = m := by
  by_cases hik : i = k
  · by_cases hk : k < 256
    · exact .inr ⟨hik, by rw [hik]; exact nth_put_same _ _ _ _ hk⟩
    · refine .inl ?_
      rw [State.slot, State.setSlot_slots, put_outside _ _ _ (Nat.le_of_not_lt hk)]
      rfl
  · exact .inl (nth_put_other _ _ _ _ _ hik)

theorem State.taken_of_setSlot {s : State} {k i : Nat} {m : SlotMirror} (hm : m.state ≠ .taken)
    (h : ((s.setSlot k m).slot i).state = .taken) : (s.slot i).state = .taken := by
  rcases s.slot_setSlot k m i with e | ⟨-, e⟩
  · rw [← e]; exact h
  · rw [e] at h
    exact absurd h hm

theorem State.taken_or_of_setSlot {s : State} {k i : Nat} {m : SlotMirror}
    (h : ((s.setSlot k m).slot i).state = .taken) : i = k ∨ (s.slot i).state = .taken := by
  rcases s.slot_setSlot k m i with e | ⟨hik, -⟩
  · rw [← e]; exact .inr h
  · exact .inl hik

/-- A slot's mirror that leaves it not TAKEN. -/
theorem State.setSlot_keeps (s : State) (k : Nat) {m : SlotMirror} (hm : m.state ≠ .taken) :
    s.KeepsQueues (s.setSlot k m) :=
  { State.KeepsQueues.refl s with
    slots := fun h => h.shrink (fun _ hi => State.taken_of_setSlot hm hi) (.inl rfl) }

/-- No own read is left: no take has begun. -/
theorem State.dropOwnRead_keeps (s : State) : s.KeepsQueues { s with ownRead := none } :=
  { State.KeepsQueues.refl s with slots := fun h => h.shrink (fun _ hi => hi) (.inr rfl) }

/-! ## Causes and the writer -/

theorem State.askStatus_keeps (s : State) : s.KeepsQueues s.askStatus := by
  obtain ⟨w, h⟩ := s.askStatus_frame
  rw [h]
  exact .of_same rfl

theorem State.setCauses_keeps (s : State) (c : CauseSet) : s.KeepsQueues (s.setCauses c) := by
  unfold State.setCauses
  split
  · exact .refl s
  · exact .after (State.askStatus_keeps _) (.of_same rfl)

/-- A line write enters where there is a place. -/
theorem State.enterWriter_keeps {s : State} (h : s.writer.length + 1 ≤ writerCapacity) (w : WriterItem) :
    s.KeepsQueues (s.enterWriter w) :=
  { State.KeepsQueues.refl s with writer := fun _ => by simpa using h }

theorem State.writer_place {s : State} (h : s.writerHasPlace = true) : s.writer.length + 1 ≤ writerCapacity := by
  simp only [State.writerHasPlace, Bool.and_eq_true, decide_eq_true_eq] at h
  omega

theorem State.mayEnter_place {s : State} {w : Waiter} (h : s.mayEnter w = true) :
    s.writer.length + w.places ≤ writerCapacity := by
  simp only [State.mayEnter, Bool.and_eq_true, decide_eq_true_eq] at h
  exact h.2

theorem State.requestItem_keeps (s : State) (w : WriterItem) : s.KeepsQueues (s.requestItem w) := by
  unfold State.requestItem
  split
  · next h => exact State.enterWriter_keeps (State.writer_place h) w
  · exact .of_same rfl

theorem State.requestRecord_keeps (s : State) (record : Nat) : s.KeepsQueues (s.requestRecord record) := by
  unfold State.requestRecord
  split
  · exact .refl s
  · exact s.requestItem_keeps _

theorem State.enterDone_keeps {s : State} (h : s.writer.length + 1 ≤ writerCapacity) (slot : Nat) (l : Line) :
    s.KeepsQueues (s.enterDone slot l) :=
  .after (State.setCauses_keeps _ _)
    (.after (State.setSlot_keeps _ slot SlotState.noConfusion) (State.enterWriter_keeps h _))

theorem State.requestDone_keeps (s : State) (slot : Nat) (l : Line) : s.KeepsQueues (s.requestDone slot l) := by
  unfold State.requestDone
  split
  · next h => exact State.enterDone_keeps (State.writer_place h) slot l
  · exact .of_same rfl

/-! ## The journal -/

/-- A publication enters one line write. -/
theorem State.publish_keeps {s : State} (h : s.writer.length + 1 ≤ writerCapacity) (r : JournalRecord) :
    s.KeepsQueues (s.publish r) := by
  obtain ⟨w, cs, co, ho, ra, e, -⟩ := s.publish_eq r
  rw [e]
  exact { State.KeepsQueues.refl s with writer := fun _ => by simpa using h }

theorem State.syncJournal_keeps (s : State) : s.KeepsQueues s.syncJournal := by
  obtain ⟨w, h⟩ := s.syncJournal_frame
  rw [h]
  exact .of_same rfl

theorem State.stage_keeps (s : State) (r : JournalRecord) : s.KeepsQueues (s.stage r) := by
  by_cases h : s.journal.staging.length < stagingCapacity
  · obtain ⟨w, e⟩ := s.stage_eq r h
    rw [e]
    exact { State.KeepsQueues.refl s with staging := fun _ => by simpa using h }
  · rw [State.stage, if_neg h]
    exact .of_same rfl

theorem State.handRecord_keeps (s : State) (r : JournalRecord) : s.KeepsQueues (s.handRecord r) := by
  unfold State.handRecord
  split
  · exact s.stage_keeps r
  · split
    · next h => exact State.publish_keeps (State.writer_place (Bool.and_eq_true .. ▸ h).1) r
    · split
      · exact .of_same rfl
      · exact s.stage_keeps r

/-- The records behind the head of staging remain. -/
theorem State.dropStaged_keeps {s : State} {r : JournalRecord} {rest : List JournalRecord}
    (h : s.journal.staging = r :: rest) : s.KeepsQueues { s with journal := { s.journal with staging := rest } } :=
  { State.KeepsQueues.refl s with
    staging := fun hs => by
      rw [h, List.length_cons] at hs
      exact Nat.le_of_succ_le hs }

theorem State.stagingDeparts_keeps (s : State) : s.KeepsQueues s.stagingDeparts := by
  unfold State.stagingDeparts
  split
  · exact .refl s
  · next r rest h =>
    split
    · exact .after (State.syncJournal_keeps _) (.then_same (State.dropStaged_keeps h) rfl)
    · split
      · next hm =>
        have hplace := State.mayEnter_place (Bool.and_eq_true .. ▸ hm).1
        refine .after (State.syncJournal_keeps _) (.after (State.publish_keeps ?_ r) ?_)
        · exact hplace
        · exact .then_same (State.dropStaged_keeps h) rfl
      · exact .refl s

theorem State.raiseJournal_keeps (s : State) : s.KeepsQueues s.raiseJournal :=
  .after (State.setCauses_keeps _ _) (.of_same rfl)

theorem State.checkCoalesce_keeps (s : State) : s.KeepsQueues s.checkCoalesce := by
  unfold State.checkCoalesce
  split
  · exact s.raiseJournal_keeps
  · exact .refl s

theorem State.moveMark_keeps (s : State) (x : Count32) : s.KeepsQueues (s.moveMark x) := by
  simp only [State.moveMark]
  split
  · exact .after (State.syncJournal_keeps _) (.of_same rfl)
  · exact .after (State.syncJournal_keeps _) (.of_same rfl)

/-! ## Retirements -/

theorem State.startMigration_keeps (s : State) : s.KeepsQueues s.startMigration := by
  unfold State.startMigration
  split
  · next q rest _ hq =>
    split
    · exact .refl s
    · next i _ =>
      obtain ⟨r, e⟩ := State.startRemap_frame
        (State.setSpareState
          { s with migrationQueue := rest,
                   migration := some { rank := q.rank, row := q.row, origin := q.origin, slot := q.slot,
                                       corrected := 0, deepCorrected := 0, uncorrectable := 0, poisoned := 0,
                                       copiesDropped := 0 } }
          q.rank i .inUse) q i
      rw [e]
      exact { State.KeepsQueues.refl s with
        retirements := fun hl => by
          rw [hq, List.length_cons] at hl
          exact Nat.le_of_succ_le hl }
  · exact .refl s

/-- A retirement is admitted where the migration queue has a place. -/
theorem State.admitRetirement_keeps {s : State} (h : s.migrationQueue.length < migrationCapacity) (q : Retirement) :
    s.KeepsQueues (s.admitRetirement q) := by
  have joined : s.KeepsQueues { s with migrationQueue := s.migrationQueue ++ [q] } :=
    { State.KeepsQueues.refl s with retirements := fun _ => by simpa using h }
  exact .after (State.startMigration_keeps _) joined

theorem State.retireObstacle_none {s : State} {rank : Nat} (h : s.retireObstacle rank = none) :
    s.migrationQueue.length < migrationCapacity := by
  unfold State.retireObstacle at h
  split at h
  · cases h
  · split at h
    · cases h
    · split at h
      · cases h
      · next hl => exact Nat.lt_of_not_le hl

theorem State.retireInternally_keeps {s : State} {rank : Nat} (h : s.retireObstacle rank = none) (row : Nat) :
    s.KeepsQueues (s.retireInternally rank row) := by
  have room : (s.setRetire rank row .pending).migrationQueue.length < migrationCapacity := State.retireObstacle_none h
  exact .after (State.admitRetirement_keeps room _) (.of_same rfl)

theorem State.examineRetire_keeps (s : State) (rank row : Nat) : s.KeepsQueues (s.examineRetire rank row) := by
  unfold State.examineRetire
  split
  · exact .refl s
  · split
    · exact .refl s
    · split
      · next h => exact State.retireInternally_keeps h row
      · exact .refl s
    · split
      · exact .refl s
      · split
        · next h => exact State.retireInternally_keeps h row
        · exact .after (State.handRecord_keeps _ _) (.of_same rfl)

/-! ## Scored events and reports -/

theorem State.makeSuspect_keeps (s : State) (rank device : Nat) : s.KeepsQueues (s.makeSuspect rank device) := by
  unfold State.makeSuspect
  split
  · exact .refl s
  · exact .after (State.handRecord_keeps _ _) (.of_same rfl)

theorem State.markDevice_keeps (s : State) (rank device : Nat) (mode : MarkMode) (origin : Origin) :
    s.KeepsQueues (s.markDevice rank device mode origin) :=
  .after (State.handRecord_keeps _ _) (.of_same rfl)

theorem State.examineDevice_keeps (s : State) (rank device : Nat) (again : Bool) :
    s.KeepsQueues (s.examineDevice rank device again) := by
  unfold State.examineDevice
  split
  · exact .refl s
  · split
    · exact .refl s
    · split
      · exact .refl s
      · exact .refl s
      · exact s.makeSuspect_keeps rank device
      · split
        · exact s.markDevice_keeps rank device _ _
        · exact s.makeSuspect_keeps rank device

theorem State.foldl_keeps {α : Type} {f : State → α → State} (hf : ∀ (u : State) (x : α), u.KeepsQueues (f u x))
    (l : List α) (s : State) :
    s.KeepsQueues (l.foldl f s) := by
  induction l generalizing s with
  | nil => exact .refl s
  | cons x l ih => exact (ih (f s x)).after (hf s x)

theorem State.examineDevices_keeps (s : State) (rank : Nat) (which : Nat → Bool) (again : Bool) :
    s.KeepsQueues (s.examineDevices rank which again) :=
  State.foldl_keeps (fun u d => u.examineDevice_keeps rank d again) _ s

theorem State.afterEvent_keeps (s : State) (rank row : Nat) (risen : List Nat) :
    s.KeepsQueues (s.afterEvent rank row risen) :=
  .after (State.examineDevices_keeps _ _ _ _) (s.examineRetire_keeps rank row)

theorem State.createEntry_keeps (s : State) (rank row weight : Nat) (devices : List Nat) (t : PartTime) :
    s.KeepsQueues (s.createEntry rank row weight devices t) :=
  .after (State.afterEvent_keeps _ _ _ _) (.of_same rfl)

theorem State.scoredEvent_keeps (s : State) (rank row weight : Nat) (named : List Nat) (t : PartTime) :
    s.KeepsQueues (s.scoredEvent rank row weight named t) := by
  simp only [State.scoredEvent]
  split
  · exact .after (State.afterEvent_keeps _ _ _ _) (.of_same rfl)
  · split
    · exact s.createEntry_keeps _ _ _ _ _
    · split
      · exact .of_same rfl
      · split
        · exact .after (State.createEntry_keeps _ _ _ _ _ _) (.of_same rfl)
        · exact .of_same rfl

theorem State.scoreDecode_keeps (s : State) (d : Decode) (t : PartTime) : s.KeepsQueues (s.scoreDecode d t) := by
  unfold State.scoreDecode
  split
  · exact .refl s
  · exact s.scoredEvent_keeps _ _ _ _ _

theorem State.noteUncorrectable_keeps (s : State) (host : Option Nat) (t : PartTime) :
    s.KeepsQueues (s.noteUncorrectable host t) := by
  cases host with
  | none => exact .refl s
  | some h => exact .of_same rfl

theorem State.report_keeps (s : State) (d : Decode) (src : Source) (t : PartTime) :
    s.KeepsQueues (s.report d src t) := by
  have scored : ∀ k, s.KeepsQueues ((s.scoreDecode d t).handRecord (d.record k src t)) := fun k =>
    .after (State.handRecord_keeps _ _) (s.scoreDecode_keeps d t)
  cases h : d.classify.cls with
  | clean => rw [State.report_nothing (.inl h)]; exact .refl s
  | poisoned => rw [State.report_nothing (.inr h)]; exact .refl s
  | erased => rw [State.report_erased h]; exact .of_same rfl
  | corrected => rw [State.report_corrected h]; exact .then_same (scored _) rfl
  | deepCorrected => rw [State.report_deepCorrected h]; exact .then_same (scored _) rfl
  | uncorrectable =>
    rw [State.report_uncorrectable h]
    exact .after (State.setCauses_keeps _ _)
      (.after (State.noteUncorrectable_keeps _ _ _) (.then_same (scored _) rfl))

end Sys2Proof.Machine
end

section
/-! PROOFS. The queues, continued: the Demand Path, and the order of accepted accesses. -/

namespace Sys2Proof.Machine

/-! ## The array and the write-back queue -/

theorem State.writeLine_keeps (s : State) (rank row column : Nat) (c : Content) :
    s.KeepsQueues (s.writeLine rank row column c) := by
  obtain ⟨m, w, p, h⟩ := s.writeLine_frame rank row column c
  rw [h]
  exact .of_same rfl

theorem State.applyErrors_keeps (s : State) (rank row column : Nat) (errors : List SliceError) :
    s.KeepsQueues (s.applyErrors rank row column errors) := by
  obtain ⟨m, h⟩ := s.applyErrors_frame rank row column errors
  rw [h]
  exact .of_same rfl

theorem State.applyErrorsHost_keeps (s : State) (host : Nat) (errors : List SliceError) :
    s.KeepsQueues (s.applyErrorsHost host errors) := s.applyErrors_keeps _ _ _ errors

/-- Fewer write-backs, in their order. -/
theorem State.sublist_keeps {s : State} {l : List WriteBack} (h : l.Sublist s.writeBacks) :
    s.KeepsQueues { s with writeBacks := l } :=
  { State.KeepsQueues.refl s with
    writeBacks := fun hl => le_trans h.length_le hl
    distinct := fun hd => (h.map WriteBack.host).nodup hd }

theorem State.dropWriteBack_keeps (s : State) (host : Nat) : s.KeepsQueues (s.dropWriteBack host) :=
  State.sublist_keeps List.filter_sublist

/-- An own read that becomes stale is still its reader's. -/
theorem State.markStale_takeSlot (s : State) (host : Nat) : (s.markStale host).takeSlot = s.takeSlot := by
  unfold State.takeSlot State.markStale
  cases s.ownRead with
  | none => rfl
  | some o =>
    cases hs : o.stage with
    | requested => simp only [Option.map_some, hs]
    | decoding d stale => simp only [Option.map_some, hs]
    | ended line => simp only [Option.map_some, hs]

theorem State.markStale_keeps (s : State) (host : Nat) : s.KeepsQueues (s.markStale host) := by
  have take := s.markStale_takeSlot host
  refine .of_same ?_
  unfold State.queueFields
  rw [take]
  rfl

theorem State.hostWrite_keeps (s : State) (host : Nat) (c : Content) : s.KeepsQueues (s.hostWrite host c) := by
  have lines : s.KeepsQueues (s.hostLineWrites host c) := by
    obtain ⟨m, w, p, a, b, r, h⟩ := s.hostLineWrites_frame host c
    rw [h]
    exact .of_same rfl
  exact .after (State.markStale_keeps _ _) (.after (State.dropWriteBack_keeps _ _) (.then_same lines rfl))

theorem State.findWriteBack_none {s : State} {host : Nat} (h : s.findWriteBack host = none) :
    host ∉ s.writeBacks.map WriteBack.host := by
  simpa [State.findWriteBack, List.find?_eq_none] using h

/-- A host line that has no entry joins the queue where there is a place. -/
theorem State.addWriteBack_keeps {s : State} {host : Nat} (h : s.findWriteBack host = none)
    (hl : s.writeBacks.length < writeBackCapacity) (data : Option Line) :
    s.KeepsQueues { s with writeBacks := s.writeBacks ++ [{ host := host, data := data }] } :=
  { State.KeepsQueues.refl s with
    writeBacks := fun _ => by simpa using hl
    distinct := fun hd => by
      have hn := State.findWriteBack_none h
      rw [State.WriteBacksDistinct, List.map_append, List.nodup_append]
      exact ⟨hd, List.nodup_singleton _, fun a ha b hb => by
        rintro rfl
        rw [List.map_singleton, List.mem_singleton] at hb
        subst hb
        exact hn ha⟩ }

theorem State.requestCorrective_keeps (s : State) (host : Nat) (data : Line) :
    s.KeepsQueues (s.requestCorrective host data) := by
  unfold State.requestCorrective
  split
  · exact .refl s
  · next h =>
    split
    · next hroom => exact State.addWriteBack_keeps h (lt_trans hroom.2 (by decide)) _
    · exact .of_same rfl

/-- An entry that becomes POISON keeps its place and its host line. -/
theorem State.poisonWriteBack_keeps (s : State) (host : Nat) :
    s.KeepsQueues
      { s with writeBacks := s.writeBacks.map fun e => if e.host = host then { e with data := none } else e } := by
  have hosts : (s.writeBacks.map fun e => if e.host = host then { e with data := none } else e).map WriteBack.host =
      s.writeBacks.map WriteBack.host := by
    rw [List.map_map]
    refine List.map_congr_left fun e _ => ?_
    by_cases he : e.host = host
    · simp [he]
    · simp [he]
  exact { State.KeepsQueues.refl s with
    writeBacks := fun hl => by simpa using hl
    distinct := fun hd => by
      rw [State.WriteBacksDistinct, hosts]
      exact hd }

theorem State.requestPoison_keeps (s : State) (host : Nat) : s.KeepsQueues (s.requestPoison host) := by
  unfold State.requestPoison
  split
  · exact s.poisonWriteBack_keeps host
  · next h =>
    split
    · next hl => exact State.addWriteBack_keeps h hl _
    · exact .of_same rfl

theorem State.requestUnlessStale_keeps (s : State) (stale : Bool) (host : Nat) (r : DecodeResult) :
    s.KeepsQueues (s.requestUnlessStale stale host r) := by
  unfold State.requestUnlessStale State.requestWriteBack
  split
  · exact .refl s
  · split
    · exact s.requestCorrective_keeps _ _
    · exact s.requestCorrective_keeps _ _
    · exact s.requestPoison_keeps _
    · exact .refl s

/-! ## The order of accepted accesses (R37) -/

/-- Only a write of IDLE makes a port idle. -/
theorem State.access_of_setAccess {s : State} {port p : Nat} {a : PortAccess} (ha : a ≠ .idle)
    (h : (s.setAccess port a).access p = .idle) : s.access p = .idle := by
  by_cases hp : p = port
  · by_cases h4 : port < 4
    · rw [hp, s.setAccess_access_same h4] at h
      exact absurd h ha
    · rw [State.access, State.setAccess_ports, put_outside _ _ _ (Nat.le_of_not_lt h4)] at h
      exact h
  · rw [State.access, State.setAccess_ports, nth_put_other _ _ _ _ _ hp] at h
    exact h

/-- An access that asks for a grant. -/
theorem State.setAccess_keeps (s : State) (port : Nat) {a : PortAccess} (ha : a ≠ .idle) :
    s.KeepsQueues (s.setAccess port a) :=
  { State.KeepsQueues.refl s with accesses := fun h p hp hi => h p hp (State.access_of_setAccess ha hi) }

/-- Presenting an access asks for a grant, or leaves every port's access as it was. -/
theorem State.present_cases (s : State) (a : ServerAccess) :
    (∃ port x, x ≠ .idle ∧ s.present a = s.setAccess port x) ∨
      s.KeepsQueues (s.present a) ∧ (s.present a).ports = s.ports := by
  have asks : ∀ port x, x ≠ .idle → (∃ port' x', x' ≠ .idle ∧ s.setAccess port x = s.setAccess port' x') ∨
      s.KeepsQueues (s.setAccess port x) ∧ (s.setAccess port x).ports = s.ports := fun port x hx =>
    .inl ⟨port, x, hx, rfl⟩
  have guarded : ∀ host slot x, (∃ port' x', x' ≠ .idle ∧ s.guardWrite host slot x = s.setAccess port' x') ∨
      s.KeepsQueues (s.guardWrite host slot x) ∧ (s.guardWrite host slot x).ports = s.ports := fun host slot x => by
    refine .inr ⟨.then_same (s.handRecord_keeps _) rfl, ?_⟩
    unfold State.guardWrite
    obtain ⟨q, w, j, c, h⟩ := s.handPlain_frame (.slotGuard slot x) none 0 0 []
    rw [h]
    rfl
  cases a with
  | read host =>
    simp only [State.present, State.presentRead]
    split
    · unfold State.answerInTurn
      split
      · exact .inr ⟨.of_same rfl, rfl⟩
      · exact .inr ⟨.of_same rfl, rfl⟩
    · exact asks _ _ PortAccess.noConfusion
  | fullLineWrite host data =>
    simp only [State.present, State.presentFull]
    split
    · exact guarded _ _ _
    · exact asks _ _ PortAccess.noConfusion
  | maskedWrite host data mask =>
    simp only [State.present, State.presentMasked, State.presentMask]
    split
    · exact guarded _ _ _
    · split
      · exact .inr ⟨.of_same rfl, rfl⟩
      · split
        · exact asks _ _ PortAccess.noConfusion
        · split
          · exact asks _ _ PortAccess.noConfusion
          · exact asks _ _ PortAccess.noConfusion

theorem State.present_keeps (s : State) (a : ServerAccess) : s.KeepsQueues (s.present a) := by
  rcases s.present_cases a with ⟨port, x, hx, e⟩ | ⟨h, -⟩
  · rw [e]
    exact s.setAccess_keeps port hx
  · exact h

/-- Presenting an access frees no port. -/
theorem State.present_access {s : State} {a : ServerAccess} {p : Nat} (h : (s.present a).access p = .idle) :
    s.access p = .idle := by
  rcases s.present_cases a with ⟨port, x, hx, e⟩ | ⟨-, e⟩
  · rw [e] at h
    exact State.access_of_setAccess hx h
  · rw [State.access, e] at h
    exact h

theorem State.presentInOrder_keepsPlaces (port : Nat) (l : List ServerAccess) (s : State) :
    s.KeepsPlaces (State.presentInOrder port l s) := by
  induction l generalizing s with
  | nil => exact { State.KeepsPlaces.refl s with }
  | cons a rest ih =>
    unfold State.presentInOrder
    split
    · exact (s.present_keeps a).toKeepsPlaces.trans (ih _)
    · exact { State.KeepsPlaces.refl s with }

/-- Presenting the accesses of one port leaves each other port no freer, and its accesses as they wait. -/
theorem State.presentInOrder_other {port p : Nat} (hp : p ≠ port) (l : List ServerAccess) (s : State) :
    ((State.presentInOrder port l s).access p = .idle → s.access p = .idle) ∧
      (State.presentInOrder port l s).arrivalsAt p = s.arrivalsAt p := by
  induction l generalizing s with
  | nil => exact ⟨id, nth_put_other _ _ _ _ _ hp⟩
  | cons a rest ih =>
    unfold State.presentInOrder
    split
    · obtain ⟨hidle, hwait⟩ := ih (s.present a)
      exact ⟨fun h => State.present_access (hidle h), hwait.trans (s.present_arrivalsAt a p)⟩
    · exact ⟨id, nth_put_other _ _ _ _ _ hp⟩

/-- Presenting the accesses of a port keeps the order of every port's, where the other ports have theirs in order. -/
theorem State.presentInOrder_accesses {port : Nat} (l : List ServerAccess) {s : State}
    (h : ∀ p, p < 4 → p ≠ port → s.access p = .idle → s.arrivalsAt p = []) :
    (State.presentInOrder port l s).AccessesInOrder := by
  intro p hp hidle
  by_cases hport : p = port
  · subst hport
    exact State.presentInOrder_inOrder p l s hp hidle
  · obtain ⟨hfree, hwait⟩ := State.presentInOrder_other hport l s
    rw [hwait]
    exact h p hp hport (hfree hidle)

theorem State.accept_keeps (s : State) (a : ServerAccess) : s.KeepsQueues (s.accept a) :=
  ⟨State.presentInOrder_keepsPlaces _ _ s, fun h => State.presentInOrder_accesses _ fun p hp _ => h p hp⟩

theorem State.freePort_keeps (s : State) (port : Nat) : s.KeepsQueues (s.freePort port) := by
  have freed : s.KeepsPlaces (s.setAccess port .idle) := { State.KeepsPlaces.refl s with }
  exact ⟨freed.trans (State.presentInOrder_keepsPlaces port _ _), fun h =>
    State.presentInOrder_accesses _ fun p hp hne hidle =>
    h p hp ((nth_put_other s.ports port p .idle .idle hne).symm.trans hidle)⟩

end Sys2Proof.Machine
end

section
/-! PROOFS. The queues, continued: what each command does to them. -/

namespace Sys2Proof.Machine

/-! ## The frame of a command -/

theorem State.finish_keeps (s : State) : s.KeepsQueues s.finish := .of_same rfl

theorem State.review_keeps (s : State) : s.KeepsQueues s.review := by
  obtain ⟨p, h⟩ := s.review_frame
  rw [h]
  exact .of_same rfl

theorem State.askReview_keeps (s : State) : s.KeepsQueues s.askReview := by
  obtain ⟨p, h⟩ := s.askReview_frame
  rw [h]
  exact .of_same rfl

theorem State.armWindow_keeps (s : State) (record : Nat) (l : Line) (now : PartTime) :
    s.KeepsQueues (s.armWindow record l now) := by
  unfold State.armWindow
  split
  · exact .after (State.requestRecord_keeps _ _) (.of_same rfl)
  · exact .of_same rfl

/-- A slot line handed over takes no slot, and ends no take but its own slot's. -/
theorem State.slotHandOff_keeps (s : State) (slot : Nat) (l : Line) : s.KeepsQueues (s.slotHandOff slot l) := by
  unfold State.slotHandOff
  split
  · exact .then_same (State.setSlot_keeps _ slot SlotState.noConfusion) rfl
  · simp only
    split
    · exact .then_same (.after (State.dropOwnRead_keeps _) (State.setSlot_keeps _ slot SlotState.noConfusion)) rfl
    · exact .then_same (State.setSlot_keeps _ slot SlotState.noConfusion) rfl

theorem State.windowHandOff_keeps (s : State) (record : Nat) (l : Line) :
    s.KeepsQueues (s.windowHandOff record l) := by
  unfold State.windowHandOff
  split
  · exact .after (State.askReview_keeps _) (s.armWindow_keeps _ _ _)
  · split
    · exact .after (State.askReview_keeps _) (.after (State.requestRecord_keeps _ _) (.of_same rfl))
    · split
      · exact .after (State.askReview_keeps _) (.of_same rfl)
      · exact s.requestRecord_keeps _

theorem State.markHandOff_keeps (s : State) (h : HandOff) : s.KeepsQueues (s.markHandOff h) := by
  simp only [State.markHandOff]
  split
  · split
    · exact .refl s
    · exact s.moveMark_keeps _
  · split
    · exact s.setCauses_keeps _
    · exact .after (State.setCauses_keeps _ _) (s.moveMark_keeps _)

theorem State.actOn_keeps (s : State) (h : HandOff) : s.KeepsQueues (s.actOn h) := by
  unfold State.actOn
  split
  · exact s.slotHandOff_keeps _ _
  · split
    · exact s.windowHandOff_keeps _ _
    · split
      · exact s.markHandOff_keeps h
      · exact .refl s

theorem State.settle_keeps (s : State) : s.KeepsQueues s.settle := by
  unfold State.settle
  split
  · exact .refl s
  · exact .after (State.actOn_keeps _ _) (.of_same rfl)

/-- Every next state that a command's effect gives keeps the queues. -/
def EffectKeepsQueues (e : State → Host.Outcome State Fault Refusal) : Prop :=
  ∀ s t : State, e s = .next t → s.KeepsQueues t

/-- A command whose own effect keeps the queues, from whatever state the pending hand-off leaves. -/
theorem act_keeps {f : State → State} (hf : ∀ u : State, u.KeepsQueues (f u)) : EffectKeepsQueues (act f) :=
  fun s t h => by
    cases h
    exact .after (State.finish_keeps _) (.after (hf _) s.settle_keeps)

theorem onHandOff_keeps {p : HandOff → Bool} {f : State → HandOff → State}
    (hf : ∀ (u : State) (h : HandOff), u.KeepsQueues (f u h)) : EffectKeepsQueues (onHandOff p f) := fun s t h => by
  unfold onHandOff at h
  split at h
  · split at h
    · cases h
      exact .after (State.finish_keeps _) (hf _ _)
    · cases h
      exact .refl s
  · cases h
    exact .refl s

/-! ## Resets and start-up -/

/-- A state with no slot held TAKEN and no own read under way. -/
theorem State.slotsHeld_of_none {s : State} (h : ∀ i, (s.slot i).state ≠ .taken) (ho : s.ownRead = none) :
    s.SlotsHeldInRange := by
  refine ⟨?_, fun ht => ?_⟩
  · have : countBelow 256 (fun i => decide ((s.slot i).state = .taken)) = 0 :=
      List.countP_eq_zero.2 fun i _ => by simp [h i]
    omega
  · rw [State.takeSlot, ho] at ht
    cases ht

theorem nth_replicate_same {α : Type} (n i : Nat) (x : α) : nth (Vector.replicate n x) i x = x := by
  by_cases h : i < n
  · exact nth_replicate x x h
  · simp [nth, h]

/-- After a power-on reset the queues are empty, whatever they were. -/
theorem State.powerOn_keeps (s : State) (ranks base : Nat) (time : PartTime) (pending : List Instr) :
    s.KeepsQueues { State.powerOn ranks base with time := time, pending := pending } where
  writer _ := Nat.zero_le _
  writeBacks _ := Nat.zero_le _
  staging _ := Nat.zero_le _
  targeted _ := Nat.zero_le _
  retirements _ := Nat.zero_le _
  distinct _ := List.nodup_nil
  slots _ := State.slotsHeld_of_none (fun i => by
    have free : ({ State.powerOn ranks base with time := time, pending := pending } : State).slot i =
        SlotMirror.freeMirror := nth_replicate_same 256 i SlotMirror.freeMirror
    rw [free]
    exact SlotState.noConfusion) rfl
  accesses _ p _ _ := nth_replicate_same 4 p []

theorem State.initLine_keeps (s : State) (rank : Nat) : s.KeepsQueues (s.initLine rank) := by
  rw [s.initLine_eq]
  exact .of_same rfl

/-- The writer starts with the identity line and the two status lines. -/
theorem State.openPort_keeps (s : State) : s.KeepsQueues s.openPort := by
  refine .after (State.review_keeps _) ?_
  exact { State.KeepsQueues.refl s with writer := fun _ => show 3 ≤ 32 by decide }

theorem State.beginRestartStep_keeps (s : State) (step : RestartStep) : s.KeepsQueues (s.beginRestartStep step) := by
  have read : ∀ r : Reader, (∀ slot, r ≠ .take slot) → s.KeepsQueues (s.requestRead r) := fun r hr =>
    { State.KeepsQueues.refl s with
      slots := fun h => h.shrink (fun _ hi => hi) (.inr (by
        cases r with
        | take slot => exact absurd rfl (hr slot)
        | scan slot => rfl
        | window record => rfl
        | mark => rfl)) }
  cases step with
  | slotScan slot => exact .then_same (read (.scan slot) fun _ => Reader.noConfusion) rfl
  | windowReread record => exact .then_same (read (.window record) fun _ => Reader.noConfusion) rfl
  | markRead => exact .then_same (read .mark fun _ => Reader.noConfusion) rfl
  | identity => exact .then_same s.dropOwnRead_keeps rfl

/-- A warm reset empties the queues, or hands them over as they are. -/
theorem State.warmed_keeps (s : State) : s.KeepsQueues s.warmed where
  writer _ := Nat.zero_le _
  writeBacks _ := Nat.zero_le _
  staging _ := Nat.zero_le _
  targeted _ := Nat.zero_le _
  retirements h := by simpa [State.warmed] using h
  distinct _ := List.nodup_nil
  slots _ := State.slotsHeld_of_none (fun i => by rw [s.warmed_slot]; exact SlotState.noConfusion) rfl
  accesses _ p hp _ := s.warmed_arrivalsAt hp

theorem State.scanSlot_keeps (s : State) (slot : Nat) (line : Option Line) : s.KeepsQueues (s.scanSlot slot line) := by
  unfold State.scanSlot
  split
  · exact s.setSlot_keeps slot SlotState.noConfusion
  · split
    · exact s.setSlot_keeps slot SlotState.noConfusion
    · split
      · exact .after (State.requestDone_keeps _ _ _) (s.setSlot_keeps slot SlotState.noConfusion)
      · split
        · exact s.setSlot_keeps slot SlotState.noConfusion
        · exact s.setSlot_keeps slot SlotState.noConfusion

theorem State.rereadWindow_keeps (s : State) (record : Nat) (line : Option Line) (now : PartTime) :
    s.KeepsQueues (s.rereadWindow record line now) := by
  unfold State.rereadWindow
  split
  · exact .of_same rfl
  · split
    · exact .of_same rfl
    · split
      · exact s.armWindow_keeps _ _ _
      · split
        · exact .of_same rfl
        · exact .after (State.requestRecord_keeps _ _) (.of_same rfl)

theorem State.rereadMark_keeps (s : State) (line : Option Line) : s.KeepsQueues (s.rereadMark line) := by
  unfold State.rereadMark
  refine .after (State.syncJournal_keeps _) ?_
  cases line with
  | none => exact .of_same rfl
  | some l => exact .of_same rfl

theorem State.markLate_keeps (s : State) : s.KeepsQueues s.markLate :=
  .after (State.handRecord_keeps _ _) (.of_same rfl)

theorem State.admitIdentity_keeps (s : State) : s.KeepsQueues s.admitIdentity := by
  unfold State.admitIdentity
  split
  · next h =>
    have line : s.KeepsQueues (s.stopAwaiting .identity).enterIdentity := by
      refine .after (State.enterWriter_keeps ?_ _) (.of_same rfl)
      exact State.mayEnter_place h
    have entered : s.KeepsQueues (State.settleCursor
        { (s.stopAwaiting .identity).enterIdentity with phase := .running, retained := [], writeBacks := [] }) :=
      .then_same (.after (State.sublist_keeps (List.nil_sublist _)) line) rfl
    refine .after (State.askStatus_keeps _) (.after (State.review_keeps _) ?_)
    split
    · exact .after (State.markLate_keeps _) entered
    · exact entered
  · exact .refl s

end Sys2Proof.Machine
end

section
/-! PROOFS. The queues, continued: the control window, takes and orders, and the background engines. -/

namespace Sys2Proof.Machine

/-! ## Control-window traffic (R161, R174) -/

/-- Both status lines enter where there are two places. -/
theorem State.enterStatus_keeps {s : State} (h : s.writer.length + 2 ≤ writerCapacity) :
    s.KeepsQueues s.enterStatus := by
  have first : s.KeepsQueues (s.enterWriter (.line 1 s.statusPart1)) := State.enterWriter_keeps (by omega) _
  have both := State.KeepsQueues.after (State.enterWriter_keeps (s := s.enterWriter (.line 1 s.statusPart1))
    (by rw [State.enterWriter_writer, List.length_append]; exact h) (.line 3 s.statusPart2)) first
  exact .then_same both rfl

theorem State.admitStatus_keeps (s : State) : s.KeepsQueues s.admitStatus := by
  unfold State.admitStatus
  split
  · next h =>
    refine .after (State.enterStatus_keeps ?_) (.of_same rfl)
    exact State.mayEnter_place h
  · exact .refl s

theorem State.admitExportLine_keeps (s : State) : s.KeepsQueues s.admitExportLine := by
  unfold State.admitExportLine
  split
  · next h =>
    have place : s.writer.length + 1 ≤ writerCapacity := State.mayEnter_place h
    split
    · exact .of_same rfl
    · split
      · exact .after (State.requestDone_keeps _ _ _) (.of_same rfl)
      · simp only
        have entered : ∀ w, s.KeepsQueues ((s.stopAwaiting .exportLine).enterWriter w) := fun w => by
          refine .after (State.enterWriter_keeps ?_ w) (.of_same rfl)
          exact place
        split
        · exact .after (State.requestDone_keeps _ _ _) (.then_same (entered _) rfl)
        · exact .then_same (entered _) rfl
  · exact .refl s

theorem State.admitOldest_keeps (s : State) : s.KeepsQueues s.admitOldest := by
  unfold State.admitOldest
  split
  · exact .refl s
  · split
    · next h =>
      refine .after (State.enterWriter_keeps ?_ _) (.of_same rfl)
      exact State.mayEnter_place h
    · exact .refl s
  · split
    · next h =>
      refine .after (State.enterDone_keeps ?_ _ _) (.of_same rfl)
      exact State.mayEnter_place h
    · exact .refl s
  · exact s.stagingDeparts_keeps
  · exact s.admitExportLine_keeps
  · exact s.admitStatus_keeps
  · exact s.admitIdentity_keeps

/-- The writer's oldest write leaves it. -/
theorem State.writerGrant_keeps {s : State} {w : WriterItem} {rest : List WriterItem} (h : s.writer = w :: rest) :
    s.KeepsQueues (s.writerGrant w rest) := by
  have left : s.KeepsQueues { s with writer := rest } :=
    { State.KeepsQueues.refl s with
      writer := fun hl => by
        rw [h, List.length_cons] at hl
        exact Nat.le_of_succ_le hl }
  exact .after (State.hostWrite_keeps _ _ _) left

/-- The slot whose take read is granted is held TAKEN. -/
theorem State.holdTaken_keeps {s : State} {r : Reader} (h : ∀ slot, r = .take slot → s.takeSlot = some slot) :
    s.KeepsQueues (s.holdTaken r) := by
  cases r with
  | take slot =>
    have take := h slot rfl
    exact { State.KeepsQueues.refl s with
      slots := fun hs => hs.hold take (fun _ hi => State.taken_or_of_setSlot hi) (.inl take) }
  | scan slot => exact .refl s
  | window record => exact .refl s
  | mark => exact .refl s

theorem State.grantOwnRead_keeps {s : State} {o : OwnRead} (h : s.ownRead = some o) (errors : List SliceError) :
    s.KeepsQueues (s.grantOwnRead o errors) := by
  simp only [State.grantOwnRead]
  obtain ⟨m, e⟩ := s.applyErrorsHost_frame (s.base + o.reader.offset) errors
  rw [e]
  refine .after (State.holdTaken_keeps fun slot hr => ?_) (.of_same ?_)
  · simp only [State.takeSlot, hr]
  · simp only [State.queueFields, State.takeSlot, h]

theorem State.endOwnRead_keeps {s : State} {o : OwnRead} (h : s.ownRead = some o) (d : Decode) (stale : Bool) :
    s.KeepsQueues (s.endOwnRead o d stale) := by
  refine .after (State.report_keeps _ _ _ _) (.after (State.requestUnlessStale_keeps _ _ _ _) (.of_same ?_))
  simp only [State.queueFields, State.takeSlot, h]

/-! ## Takes (R164 to R166) -/

theorem State.takeRead_takeSlot {s : State} {slot : Nat} {line : Option Line} (h : s.takeRead = some (slot, line)) :
    s.takeSlot = some slot := by
  unfold State.takeRead at h
  split at h
  · next o ho =>
    split at h
    · next hreader _ =>
      cases h
      simp only [State.takeSlot, ho, hreader]
    · cases h
  · cases h

/-- A take begins with at most 13 slots held TAKEN. -/
theorem State.startTake_keeps (s : State) : s.KeepsQueues s.startTake := by
  unfold State.startTake
  split
  · next h =>
    simp only [State.takeMayStart, State.roomAllows, Bool.and_eq_true, decide_eq_true_eq, Option.isNone_iff_eq_none] at h
    obtain ⟨⟨⟨-, hown⟩, -⟩, hroom, -⟩ := h
    have none_begun : s.takeSlot = none := by simp only [State.takeSlot, hown]
    have count : s.takenWhere (fun _ => true) = countBelow 256 fun i => decide ((s.slot i).state = .taken) := by
      simp [State.takenWhere, none_begun]
    refine { State.KeepsQueues.refl s with slots := fun hs => ⟨hs.1, fun _ => ?_⟩ }
    have beside : (s.requestRead (.take s.takeCursor)).takenWhere (fun _ => true) ≤ s.takenWhere fun _ => true := by
      rw [count]
      exact countBelow_mono fun i hi => by
        simp only [Bool.and_true, Bool.and_eq_true] at hi
        exact hi.1
    exact le_trans beside (Nat.le_of_lt_succ hroom)
  · exact .refl s

/-- The take of a slot ends with the slot held TAKEN. -/
theorem State.endTake_keeps {s : State} {slot : Nat} (h : s.takeSlot = some slot) (l : Line) :
    s.KeepsQueues (s.endTake slot l) :=
  { State.KeepsQueues.refl s with
    slots := fun hs => hs.hold h (fun _ hi => State.taken_or_of_setSlot hi) (.inr rfl) }

theorem State.freeTake_keeps (s : State) (slot : Nat) : s.KeepsQueues (s.freeTake slot) :=
  .then_same (.after (State.dropOwnRead_keeps _) (State.setSlot_keeps s slot SlotState.noConfusion)) rfl

theorem State.returnTake_keeps (s : State) (slot : Nat) (l : Line) : s.KeepsQueues (s.returnTake slot l) :=
  .after (State.setSlot_keeps _ slot SlotState.noConfusion) s.dropOwnRead_keeps

/-! ## Orders (R166) -/

/-- The room that the targeted queue and the migration queue have for an order. -/
def State.HasPlaceFor (s : State) (l : Line) : Prop :=
  (slotKind l = 1 ∨ slotKind l = 2 → s.targeted.length < targetedCapacity) ∧
    (slotKind l = 3 → slotMode l = 0 → s.migrationQueue.length < migrationCapacity)

theorem State.hasPlaceFor_of_room {s : State} {l : Line} (h : s.roomAllows (slotKind l) (slotMode l) = true) :
    s.HasPlaceFor l := by
  simp only [State.roomAllows, Bool.and_eq_true] at h
  obtain ⟨-, h⟩ := h
  refine ⟨fun hk => ?_, fun hk hm => ?_⟩
  · rw [if_pos hk] at h
    exact of_decide_eq_true h
  · rw [if_neg (by omega), if_pos ⟨hk, hm⟩, Bool.and_eq_true] at h
    exact of_decide_eq_true h.1

theorem State.dispatched_some {s : State} {p : Line → Bool} {slot : Nat} {l : Line}
    (h : s.dispatched p = some (slot, l)) : s.takeSlot = some slot ∧ s.HasPlaceFor l ∧ p l = true := by
  unfold State.dispatched at h
  split at h
  · next hread =>
    split at h
    · next hdue =>
      obtain ⟨-, -, hroom, hp⟩ := hdue
      cases h
      exact ⟨State.takeRead_takeSlot hread, State.hasPlaceFor_of_room hroom, hp⟩
    · cases h
  · cases h

/-- An order whose own effect keeps the queues, once its slot is held TAKEN and there is room for it. -/
theorem onOrder_keeps {p : Line → Bool} {f : State → Nat → Line → State}
    (hf : ∀ (u : State) (slot : Nat) (l : Line), u.HasPlaceFor l → p l = true → u.KeepsQueues (f u slot l)) :
    EffectKeepsQueues (onOrder p f) := by
  refine act_keeps fun u => ?_
  split
  · next slot l hd =>
    obtain ⟨htake, hplace, hp⟩ := State.dispatched_some hd
    exact .after (hf _ slot l hplace hp) (State.endTake_keeps htake l)
  · exact .refl u

/-- A targeted order joins its queue where there is a place. -/
theorem State.admitTargeted_keeps {s : State} (h : s.targeted.length < targetedCapacity) (o : TargetedOrder) (slot : Nat)
    (l : Line) : s.KeepsQueues (s.admitTargeted o slot l) := by
  have joined : s.KeepsQueues { s with targeted := s.targeted ++ [o] } :=
    { State.KeepsQueues.refl s with targeted := fun _ => by simpa using h }
  exact .after (State.requestItem_keeps _ _) joined

theorem State.takeScrub_keeps {s : State} {l : Line} (h : s.HasPlaceFor l) (hk : slotKind l = 1) (slot : Nat) :
    s.KeepsQueues (s.takeScrub slot l) := by
  unfold State.takeScrub
  split
  · exact s.requestDone_keeps _ _
  · exact State.admitTargeted_keeps (h.1 (.inl hk)) _ _ _

theorem State.takeProbe_keeps {s : State} {l : Line} (h : s.HasPlaceFor l) (hk : slotKind l = 2) (slot : Nat) :
    s.KeepsQueues (s.takeProbe slot l) := by
  unfold State.takeProbe
  split
  · exact s.requestDone_keeps _ _
  · exact State.admitTargeted_keeps (h.1 (.inr hk)) _ _ _

/-- A RETIRE ROW that passes its checks has a mode that names one. -/
theorem State.retireCheck_mode {s : State} {l : Line} {already : Bool} (h : s.retireCheck l already = none) :
    slotMode l = 0 ∨ slotMode l = 1 := by
  unfold State.retireCheck at h
  split at h
  · cases h
  · split at h
    · cases h
    · split at h
      · cases h
      · next hm => omega

theorem State.takeMigrate_keeps {s : State} {l : Line} (h : s.HasPlaceFor l) (hk : slotKind l = 3)
    (hm : slotMode l ≠ 1) (slot : Nat) : s.KeepsQueues (s.takeMigrate slot l) := by
  unfold State.takeMigrate
  split
  · exact s.requestDone_keeps _ _
  · next hcheck =>
    have room := h.2 hk ((State.retireCheck_mode hcheck).resolve_right hm)
    refine .after (State.requestItem_keeps _ _) (.after (State.admitRetirement_keeps ?_ _) (.of_same rfl))
    exact room

theorem State.restoreRow_keeps (s : State) (rank row i : Nat) : s.KeepsQueues (s.restoreRow rank row i) :=
  .after (State.handRecord_keeps _ _) (.of_same rfl)

theorem State.takeRestoreRow_keeps (s : State) (slot : Nat) (l : Line) : s.KeepsQueues (s.takeRestoreRow slot l) := by
  unfold State.takeRestoreRow
  split
  · exact s.requestDone_keeps _ _
  · split
    · exact s.requestDone_keeps _ _
    · exact .after (State.requestDone_keeps _ _ _) (s.restoreRow_keeps _ _ _)

theorem State.markByOrder_keeps (s : State) (slot : Nat) (l : Line) (mode : MarkMode) :
    s.KeepsQueues (s.markByOrder slot l mode) :=
  .after (State.requestDone_keeps _ _ _) (s.markDevice_keeps _ _ _ _)

theorem State.takeMarkRebuild_keeps (s : State) (slot : Nat) (l : Line) :
    s.KeepsQueues (s.takeMarkRebuild slot l) := by
  unfold State.takeMarkRebuild
  split
  · exact s.requestDone_keeps _ _
  · exact s.markByOrder_keeps _ _ _

theorem State.takeMarkEraseOnly_keeps (s : State) (slot : Nat) (l : Line) :
    s.KeepsQueues (s.takeMarkEraseOnly slot l) := by
  unfold State.takeMarkEraseOnly
  split
  · exact s.requestDone_keeps _ _
  · exact s.markByOrder_keeps _ _ _

theorem State.takeMarkRestore_keeps (s : State) (slot : Nat) (l : Line) :
    s.KeepsQueues (s.takeMarkRestore slot l) := by
  unfold State.takeMarkRestore
  split
  · exact s.requestDone_keeps _ _
  · exact .after (State.requestDone_keeps _ _ _) (.after (State.handRecord_keeps _ _) (.of_same rfl))

theorem State.clearAllSuspects_keeps (s : State) : s.KeepsQueues s.clearAllSuspects :=
  State.foldl_keeps (f := State.clearSuspects) (fun _ _ => .of_same rfl) _ s

theorem State.examineAll_keeps (s : State) : s.KeepsQueues s.examineAll :=
  .after (State.foldl_keeps (fun u r => u.examineDevices_keeps r _ _) _ s.clearAllSuspects) s.clearAllSuspects_keeps

theorem State.takePolicy_keeps (s : State) (slot : Nat) (l : Line) : s.KeepsQueues (s.takePolicy slot l) :=
  .after (State.requestDone_keeps _ _ _) (.after (State.checkCoalesce_keeps _) (.after (State.examineAll_keeps _)
    (.after (State.review_keeps _) (.of_same rfl))))

theorem State.takeQuiesce_keeps (s : State) (slot : Nat) (l : Line) : s.KeepsQueues (s.takeQuiesce slot l) := by
  unfold State.takeQuiesce
  split
  · exact s.requestDone_keeps _ _
  · split
    · exact .after (State.requestDone_keeps _ _ _) (.of_same rfl)
    · exact .after (State.requestItem_keeps _ _) (.of_same rfl)

theorem State.abandonQuiesce_keeps (s : State) : s.KeepsQueues s.abandonQuiesce := by
  unfold State.abandonQuiesce
  split
  · exact .refl s
  · exact .after (State.requestDone_keeps _ _ _) (.of_same rfl)

theorem State.takeResume_keeps (s : State) (slot : Nat) (l : Line) : s.KeepsQueues (s.takeResume slot l) :=
  .after (State.requestDone_keeps _ _ _) (.after (State.abandonQuiesce_keeps _) (.of_same rfl))

theorem State.await_keeps (s : State) (w : Waiter) : s.KeepsQueues (s.await w) := .of_same rfl

theorem State.takeExport_keeps (s : State) (slot : Nat) (l : Line) : s.KeepsQueues (s.takeExport slot l) :=
  .after (State.await_keeps _ _) (.after (State.requestItem_keeps _ _) (.of_same rfl))

/-! ## Windows, pacing and patrol -/

theorem State.turnWindow_keeps (s : State) (record : Nat) (x : WindowState) : s.KeepsQueues (s.turnWindow record x) :=
  .after (State.askReview_keeps _) (.after (State.requestRecord_keeps _ _) (.of_same rfl))

theorem State.accrueIfAccruing_keeps (s : State) : s.KeepsQueues s.accrueIfAccruing := by
  unfold State.accrueIfAccruing
  split
  · exact .of_same rfl
  · exact .refl s

theorem State.periodicReview_keeps (s : State) (t : PartTime) : s.KeepsQueues (s.periodicReview t) := by
  obtain ⟨p, h⟩ := s.periodicReview_frame t
  rw [h]
  exact .of_same rfl

theorem State.checkQuiesce_keeps (s : State) : s.KeepsQueues s.checkQuiesce := by
  unfold State.checkQuiesce
  split
  · exact .refl s
  · split
    · exact .after (State.requestDone_keeps _ _ _) (.of_same rfl)
    · exact .refl s

theorem State.endVisit_keeps (s : State) : s.KeepsQueues s.endVisit := by
  unfold State.endVisit
  split
  · exact .of_same rfl
  · exact .after (State.review_keeps _) (.then_same (s.handRecord_keeps _) rfl)

theorem State.releasePatrol_keeps (s : State) : s.KeepsQueues s.releasePatrol :=
  .after (State.endVisit_keeps _) (.after (State.checkQuiesce_keeps _) (.of_same rfl))

theorem State.visitWrite_keeps (s : State) (op : OpenLine) (c : Content) : s.KeepsQueues (s.visitWrite op c) := by
  unfold State.visitWrite
  split
  · exact .then_same (s.writeLine_keeps _ _ _ _) rfl
  · exact .refl s

theorem State.endPatrolDecode_keeps (s : State) (d : Decode) : s.KeepsQueues (s.endPatrolDecode d) := by
  have reported : s.KeepsQueues (s.reportVisit d) := .then_same (s.report_keeps d _ _) rfl
  unfold State.endPatrolDecode
  split
  · exact .then_same reported rfl
  · exact .after (State.releasePatrol_keeps _) reported

/-! ## Targeted work -/

/-- A change of a slot's order leaves as many orders. -/
theorem State.changeOrder_keeps (s : State) (slot : Nat) (f : TargetedOrder → TargetedOrder) :
    s.KeepsQueues (s.changeOrder slot f) :=
  { State.KeepsQueues.refl s with targeted := fun h => by simpa [State.changeOrder] using h }

theorem State.completeTargeted_keeps (s : State) (o : TargetedOrder) (fs : List FieldValue) :
    s.KeepsQueues (s.completeTargeted o fs) := by
  have left : s.KeepsQueues { s with targeted := s.targeted.filter fun x => decide (x.slot ≠ o.slot) } :=
    { State.KeepsQueues.refl s with targeted := fun h => le_trans (List.length_filter_le _ _) h }
  exact .after (State.requestDone_keeps _ _ _) left

theorem State.releaseScrub_keeps (s : State) (slot : Nat) : s.KeepsQueues (s.releaseScrub slot) := by
  simp only [State.releaseScrub]
  have advanced : s.KeepsQueues (State.changeOrder (State.checkQuiesce { s with targetedOp := none }) slot
      fun o => { o with cursor := o.cursor + 1 }) :=
    .after (State.changeOrder_keeps _ _ _) (.after (State.checkQuiesce_keeps _) (.of_same rfl))
  split
  · split
    · exact .after (State.completeTargeted_keeps _ _ _) advanced
    · exact advanced
  · exact advanced

theorem State.endScrubDecode_keeps (s : State) (o : TargetedOrder) (d : Decode) :
    s.KeepsQueues (s.endScrubDecode o d) := by
  have reported : s.KeepsQueues (s.reportScrub o d) := .after (State.changeOrder_keeps _ _ _) (s.report_keeps d _ _)
  unfold State.endScrubDecode
  split
  · exact .then_same reported rfl
  · exact .after (State.releaseScrub_keeps _ _) reported

theorem State.countTargeted_keeps (s : State) (o : TargetedOrder) : s.KeepsQueues (s.countTargeted o) := by
  rw [s.countTargeted_eq]
  exact .of_same rfl

theorem State.countDropped_keeps (s : State) (op : OpenLine) (slot : Nat) :
    s.KeepsQueues (s.countDropped op slot) := by
  unfold State.countDropped
  split
  · exact .refl s
  · exact s.changeOrder_keeps _ _

theorem State.grantTargetedRead_keeps (s : State) (o : TargetedOrder) (errors : List SliceError) :
    s.KeepsQueues (s.grantTargetedRead o errors) := by
  rw [s.grantTargetedRead_eq]
  exact .of_same rfl

theorem State.endProbe_keeps (s : State) (o : TargetedOrder) (d : Decode) : s.KeepsQueues (s.endProbe o d) :=
  .after (State.completeTargeted_keeps _ _ _)
    (.after (State.checkQuiesce_keeps _) (.then_same (s.report_keeps d .probe s.time) rfl))

/-! ## Migration and rebuild -/

theorem State.copyWrite_keeps (s : State) (e : RemapEntry) (op : OpenLine) (c : Content) :
    s.KeepsQueues (s.copyWrite e op c) := by
  unfold State.copyWrite
  split
  · exact .then_same (s.writeLine_keeps _ _ _ _) rfl
  · exact .of_same rfl

theorem State.changeRemap_keeps (s : State) (rank row : Nat) (f : RemapEntry → RemapEntry) :
    s.KeepsQueues (s.changeRemap rank row f) := .of_same rfl

theorem State.removeEntry_keeps (s : State) (rank row : Nat) : s.KeepsQueues (s.removeEntry rank row) := .of_same rfl

theorem State.discardEarlier_keeps (s : State) (e : RemapEntry) : s.KeepsQueues (s.discardEarlier e) := by
  unfold State.discardEarlier
  split
  · exact .of_same rfl
  · exact .refl s

theorem State.finishMigrationSlot_keeps (s : State) (m : Migration) (e : RemapEntry) :
    s.KeepsQueues (s.finishMigrationSlot m e) := by
  unfold State.finishMigrationSlot
  split
  · exact s.requestDone_keeps _ _
  · exact .refl s

theorem State.completeMigration_keeps (s : State) (m : Migration) (e : RemapEntry) :
    s.KeepsQueues (s.completeMigration m e) := by
  have finished : s.KeepsQueues (State.finishMigrationSlot (State.handPlain (State.removeEntry (State.discardEarlier
      (s.changeRemap e.rank e.row fun x => { x with state := .active, cursor := 128, earlier := none }) e) e.rank e.row)
      (.rowRetired e.spare m.origin e.oldRow m.corrected m.deepCorrected m.uncorrectable m.poisoned m.copiesDropped)
      none e.rank e.row []) m e) :=
    .after (State.finishMigrationSlot_keeps _ _ _) (.after (State.handRecord_keeps _ _)
      (.after (State.removeEntry_keeps _ _ _) (.after (State.discardEarlier_keeps _ e) (.of_same rfl))))
  exact .after (State.startMigration_keeps _) (.then_same finished rfl)

theorem State.endCopy_keeps (s : State) (e : RemapEntry) : s.KeepsQueues (s.endCopy e) := by
  have advanced : s.KeepsQueues ((State.checkQuiesce { s with migrationOp := none }).changeRemap e.rank e.row
      fun x => { x with cursor := x.cursor + 1 }) :=
    .after (State.changeRemap_keeps _ _ _ _) (.after (State.checkQuiesce_keeps _) (.of_same rfl))
  simp only [State.endCopy]
  split
  · exact advanced
  · split
    · exact .after (State.completeMigration_keeps _ _ _) advanced
    · exact advanced

theorem State.setRankDevices_keeps (s : State) (rank : Nat) (d : RankDevices) :
    s.KeepsQueues (s.setRankDevices rank d) := .of_same rfl

theorem State.rebuildWrite_keeps (s : State) (op : OpenLine) (c : Content) : s.KeepsQueues (s.rebuildWrite op c) := by
  unfold State.rebuildWrite
  split
  · exact s.writeLine_keeps _ _ _ _
  · exact .of_same rfl

theorem State.completeRebuild_keeps (s : State) (rank : Nat) : s.KeepsQueues (s.completeRebuild rank) := by
  simp only [State.completeRebuild]
  split
  · exact .of_same rfl
  · exact .after (State.examineDevices_keeps _ _ _ _) (.after (State.handRecord_keeps _ _) (.of_same rfl))

theorem State.endRebuildLine_keeps (s : State) (op : OpenLine) : s.KeepsQueues (s.endRebuildLine op) := by
  have advanced : ∀ d, s.KeepsQueues ((State.checkQuiesce { s with rebuildOp := none }).setRankDevices op.rank d) :=
    fun d => .after (State.setRankDevices_keeps _ _ _) (.after (State.checkQuiesce_keeps _) (.of_same rfl))
  simp only [State.endRebuildLine]
  split
  · exact advanced _
  · exact .after (State.completeRebuild_keeps _ _) (advanced _)

end Sys2Proof.Machine
end

section
/-! PROOFS. O55: every command keeps the queues bounded and in order, and so does every step. -/

namespace Sys2Proof.Machine

/-! ## The demand path -/

theorem State.serveAbove_keeps (s : State) (kind : AccessKind) (address : Nat) :
    s.KeepsQueues (s.serveAbove kind address) := by
  cases kind with
  | read => exact .of_same rfl
  | fullLineWrite => exact .refl s
  | maskedWrite => exact .refl s

/-- A presentation: refused while the port is not READY, served above L_total, else accepted. -/
theorem State.arrive_keeps (s : State) (kind : AccessKind) (address : Nat) (a : ServerAccess) :
    s.KeepsQueues (s.arrive kind address a) := by
  unfold State.arrive
  split
  · exact .refl s
  · split
    · exact s.serveAbove_keeps kind address
    · exact s.accept_keeps a

theorem State.grantServerRead_keeps (s : State) (port host : Nat) (errors : List SliceError) :
    s.KeepsQueues (s.grantServerRead port host errors) := .then_same (s.applyErrorsHost_keeps host errors) rfl

theorem State.endServerRead_keeps (s : State) (x : ServerRead) : s.KeepsQueues (s.endServerRead x) :=
  .after (State.report_keeps _ _ _ _) (.after (State.requestUnlessStale_keeps _ _ _ _) (.of_same rfl))

theorem State.writeBackNow_keeps (s : State) (e : WriteBack) : s.KeepsQueues (s.writeBackNow e) :=
  .then_same (.after (State.writeLine_keeps _ _ _ _ _) (s.dropWriteBack_keeps e.host)) rfl

theorem State.handOver_keeps (s : State) (host : Nat) (l : Line) : s.KeepsQueues (s.handOver host l) := by
  unfold State.handOver
  split
  · exact .of_same rfl
  · exact .refl s

theorem State.grantMergeRead_keeps (s : State) (port host : Nat) (data : Line) (mask : ByteMask)
    (errors : List SliceError) : s.KeepsQueues (s.grantMergeRead port host data mask errors) :=
  .after (State.setAccess_keeps _ _ PortAccess.noConfusion) (s.applyErrorsHost_keeps host errors)

theorem State.endMerge_keeps (s : State) (port host : Nat) (data : Line) (mask : ByteMask) (d : Decode) (orphan : Bool) :
    s.KeepsQueues (s.endMerge port host data mask d orphan) := by
  unfold State.endMerge
  split
  · exact .after (State.setAccess_keeps _ _ PortAccess.noConfusion) (s.report_keeps d .merge s.time)
  · exact s.setAccess_keeps _ PortAccess.noConfusion

theorem State.reportLoss_keeps (s : State) (loss : Option MergeLoss) : s.KeepsQueues (s.reportLoss loss) := by
  unfold State.reportLoss
  split
  · exact .refl s
  · split
    · exact s.handRecord_keeps _
    · exact s.report_keeps _ _ _

/-- A write and its acknowledgement. -/
theorem State.hostWrite_reply_keeps (s : State) (host : Nat) (c : Content) (r : Reply) :
    s.KeepsQueues ((s.hostWrite host c).reply r) := .then_same (s.hostWrite_keeps host c) rfl

theorem State.writeHalf_keeps (s : State) (port host : Nat) (c : Content) (loss : Option MergeLoss) :
    s.KeepsQueues (s.writeHalf port host c loss) := by
  have reported := State.KeepsQueues.after (State.reportLoss_keeps _ loss) (s.hostWrite_reply_keeps host c (.ack host))
  unfold State.writeHalf
  refine .after (State.freePort_keeps _ port) ?_
  split
  · exact reported
  · exact .after (State.handOver_keeps _ _ _) reported

theorem State.writeOrphanHalf_keeps (s : State) (port host : Nat) (c : Content) (loss : Option MergeLoss) :
    s.KeepsQueues (s.writeOrphanHalf port host c loss) :=
  .after (State.freePort_keeps _ _) (.after (State.reportLoss_keeps _ _) (s.hostWrite_keeps host c))

theorem State.writeFromEntry_keeps (s : State) (port host : Nat) (data : Line) (mask : ByteMask) :
    s.KeepsQueues (s.writeFromEntry port host data mask) := by
  unfold State.writeFromEntry
  split
  · exact s.setAccess_keeps port PortAccess.noConfusion
  · split
    · exact .after (State.freePort_keeps _ _) (.after (State.handOver_keeps _ _ _) (s.hostWrite_reply_keeps _ _ _))
    · exact .after (State.freePort_keeps _ _)
        (.then_same (.after (State.handRecord_keeps _ _) (s.hostWrite_keeps host poisonContent)) rfl)

/-! ## The hand-offs and the background engines -/

theorem State.actOnSlot_keeps (s : State) (h : HandOff) : s.KeepsQueues (s.actOnSlot h) := by
  unfold State.actOnSlot
  split
  · exact .after (State.slotHandOff_keeps _ _ _) (.of_same rfl)
  · exact .refl s

theorem State.actOnRecord_keeps (s : State) (h : HandOff) : s.KeepsQueues (s.actOnRecord h) := by
  unfold State.actOnRecord
  split
  · exact .after (State.windowHandOff_keeps _ _ _) (.of_same rfl)
  · exact .refl s

theorem State.grantPatrolRead_keeps (s : State) (errors : List SliceError) :
    s.KeepsQueues (s.grantPatrolRead errors) := .then_same (s.applyErrorsHost_keeps _ errors) rfl

theorem State.grantCopyRead_keeps (s : State) (e : RemapEntry) (errors : List SliceError) :
    s.KeepsQueues (s.grantCopyRead e errors) := .then_same (s.applyErrors_keeps _ _ _ errors) rfl

theorem State.grantRebuildRead_keeps (s : State) (rank : Nat) (errors : List SliceError) :
    s.KeepsQueues (s.grantRebuildRead rank errors) := .then_same (s.applyErrors_keeps _ _ _ errors) rfl

theorem State.endCopyDecode_keeps (s : State) (d : Decode) : s.KeepsQueues (s.endCopyDecode d) :=
  .then_same (s.report_keeps d .migration s.time) rfl

theorem State.endRebuildDecode_keeps (s : State) (d : Decode) : s.KeepsQueues (s.endRebuildDecode d) :=
  .then_same (s.report_keeps d .rebuild s.time) rfl

/-! ## Every command keeps the queues -/

/-- An effect under its condition. -/
theorem State.KeepsQueues.when {c : Prop} [Decidable c] {s t : State} (h : c → s.KeepsQueues t) :
    s.KeepsQueues (if c then t else s) := by
  split
  · next hc => exact h hc
  · exact .refl s

/-! ### Resets and restart -/

theorem execPowerOnReset_keeps (ranks : BitVec 2) (base : BitVec 13) :
    EffectKeepsQueues (execPowerOnReset ranks base) := fun s t h => by
  cases h
  exact s.powerOn_keeps _ _ _ _

theorem execArrayInitLineWrite_keeps (rank : Nat) : EffectKeepsQueues (execArrayInitLineWrite rank) :=
  act_keeps fun u => .when fun _ => u.initLine_keeps _

theorem execArrayInitDone_keeps : EffectKeepsQueues execArrayInitDone := act_keeps fun u => .when fun _ => by
  split
  · exact .of_same rfl
  · exact u.openPort_keeps

theorem execWarmReset_keeps : EffectKeepsQueues execWarmReset := act_keeps fun u => by
  split
  · exact u.powerOn_keeps _ _ _ _
  · exact .refl u
  · exact .after (State.beginRestartStep_keeps _ _) u.warmed_keeps
  · exact .after (State.beginRestartStep_keeps _ _) u.warmed_keeps

theorem execRestartSlotScanRead_keeps : EffectKeepsQueues execRestartSlotScanRead := act_keeps fun u => by
  split
  · exact .after (State.beginRestartStep_keeps _ _) (u.scanSlot_keeps _ _)
  · exact .refl u

theorem execRestartWindowReread_keeps : EffectKeepsQueues execRestartWindowReread := act_keeps fun u => by
  split
  · exact .after (State.beginRestartStep_keeps _ _) (u.rereadWindow_keeps _ _ _)
  · exact .refl u

theorem execRestartMarkRead_keeps : EffectKeepsQueues execRestartMarkRead := act_keeps fun u => by
  split
  · exact .after (State.beginRestartStep_keeps _ _) (u.rereadMark_keeps _)
  · exact .refl u

theorem execRestartEnd_keeps : EffectKeepsQueues execRestartEnd := act_keeps fun u => u.admitIdentity_keeps

/-! ### The demand path -/

theorem execAccessAboveLTotal_keeps (kind : AccessKind) (address : Nat) :
    EffectKeepsQueues (execAccessAboveLTotal kind address) :=
  act_keeps fun u => .when fun _ => u.serveAbove_keeps _ _

theorem execAccessNotReady_keeps (kind : AccessKind) (address : Nat) :
    EffectKeepsQueues (execAccessNotReady kind address) :=
  act_keeps fun u => .refl u

theorem execServerReadPresent_keeps (address : Nat) : EffectKeepsQueues (execServerReadPresent address) :=
  act_keeps fun u => u.arrive_keeps .read address (.read address)

theorem execFullLineWritePresent_keeps (address : Nat) (data : Line) :
    EffectKeepsQueues (execFullLineWritePresent address data) :=
  act_keeps fun u => u.arrive_keeps .fullLineWrite address (.fullLineWrite address data)

theorem execMaskedWritePresent_keeps (address : Nat) (data : Line) (mask : ByteMask) :
    EffectKeepsQueues (execMaskedWritePresent address data mask) :=
  act_keeps fun u => u.arrive_keeps .maskedWrite address (.maskedWrite address data mask)

theorem execServerReadGrant_keeps (port : Nat) (errors : List SliceError) :
    EffectKeepsQueues (execServerReadGrant port errors) := act_keeps fun u => by
  split
  · exact .when fun _ => .after (State.freePort_keeps _ _) (u.grantServerRead_keeps _ _ _)
  · exact .refl u

theorem execServerReadDecodeEnd_keeps (port : Nat) : EffectKeepsQueues (execServerReadDecodeEnd port) :=
  act_keeps fun u => by
    split
    · exact .after (State.endServerRead_keeps _ _) (.of_same rfl)
    · exact .refl u

theorem execWriteBackGrant_keeps (port : Nat) : EffectKeepsQueues (execWriteBackGrant port) := act_keeps fun u => by
  split
  · exact .when fun _ => u.writeBackNow_keeps _
  · exact .refl u

theorem execFullLineWriteGrant_keeps (port : Nat) : EffectKeepsQueues (execFullLineWriteGrant port) :=
  act_keeps fun u => by
    split
    · exact .when fun _ =>
        .after (State.freePort_keeps _ _) (.after (State.handOver_keeps _ _ _) (u.hostWrite_reply_keeps _ _ _))
    · exact .refl u

theorem execMergeReadGrant_keeps (port : Nat) (errors : List SliceError) :
    EffectKeepsQueues (execMergeReadGrant port errors) := act_keeps fun u => by
  split
  · exact .when fun _ => u.grantMergeRead_keeps _ _ _ _ _
  · exact .refl u

theorem execMergeDecodeEnd_keeps (port : Nat) : EffectKeepsQueues (execMergeDecodeEnd port) := act_keeps fun u => by
  split
  · exact u.endMerge_keeps _ _ _ _ _ _
  · exact .refl u

theorem execMaskedWriteHalfGrant_keeps (port : Nat) : EffectKeepsQueues (execMaskedWriteHalfGrant port) :=
  act_keeps fun u => by
    split
    · refine .when fun _ => ?_
      split
      · exact u.writeOrphanHalf_keeps _ _ _ _
      · exact u.writeHalf_keeps _ _ _ _
    · exact .refl u

theorem execMaskedWriteEntryGrant_keeps (port : Nat) : EffectKeepsQueues (execMaskedWriteEntryGrant port) :=
  act_keeps fun u => by
    split
    · exact .when fun _ => u.writeFromEntry_keeps _ _ _ _
    · exact .refl u

/-! ### Hand-offs and windows -/

theorem execSlotPost_keeps : EffectKeepsQueues execSlotPost := onHandOff_keeps State.actOnSlot_keeps

theorem execSlotFree_keeps : EffectKeepsQueues execSlotFree := onHandOff_keeps State.actOnSlot_keeps

theorem execWindowArm_keeps : EffectKeepsQueues execWindowArm := onHandOff_keeps State.actOnRecord_keeps

theorem execWindowCancel_keeps : EffectKeepsQueues execWindowCancel := onHandOff_keeps State.actOnRecord_keeps

theorem execWindowEmpty_keeps : EffectKeepsQueues execWindowEmpty := onHandOff_keeps State.actOnRecord_keeps

theorem execWindowStateNotActedOn_keeps : EffectKeepsQueues execWindowStateNotActedOn :=
  onHandOff_keeps State.actOnRecord_keeps

theorem execReadMarkWrite_keeps : EffectKeepsQueues execReadMarkWrite :=
  onHandOff_keeps fun _ _ => .after (State.moveMark_keeps _ _) (.of_same rfl)

theorem execCauseAcknowledge_keeps : EffectKeepsQueues execCauseAcknowledge :=
  onHandOff_keeps fun _ _ => .after (State.setCauses_keeps _ _) (.of_same rfl)

theorem execOtherWindowWrite_keeps : EffectKeepsQueues execOtherWindowWrite := onHandOff_keeps fun _ _ => .of_same rfl

theorem execWindowStart_keeps (record : Nat) : EffectKeepsQueues (execWindowStart record) :=
  act_keeps fun u => .when fun _ => u.turnWindow_keeps _ _

theorem execWindowEnd_keeps (record : Nat) : EffectKeepsQueues (execWindowEnd record) :=
  act_keeps fun u => .when fun _ => u.turnWindow_keeps _ _

/-! ### The writer, the own reads and the takes -/

theorem execCwWriterGrant_keeps : EffectKeepsQueues execCwWriterGrant := act_keeps fun u => by
  split
  · exact .refl u
  · next hw => exact .when fun _ => State.writerGrant_keeps hw

theorem execCwWriterAdmission_keeps : EffectKeepsQueues execCwWriterAdmission :=
  act_keeps fun u => u.admitOldest_keeps

theorem execOwnReadGrant_keeps (errors : List SliceError) : EffectKeepsQueues (execOwnReadGrant errors) :=
  act_keeps fun u => by
    split
    · next ho => exact .when fun _ => State.grantOwnRead_keeps ho errors
    · exact .refl u

theorem execOwnReadDecodeEnd_keeps : EffectKeepsQueues execOwnReadDecodeEnd := act_keeps fun u => by
  split
  · next ho =>
    split
    · exact State.endOwnRead_keeps ho _ _
    · exact .refl u
    · exact .refl u
  · exact .refl u

theorem execTakeStart_keeps : EffectKeepsQueues execTakeStart :=
  act_keeps fun u => .after u.settleCursor.startTake_keeps (.of_same rfl)

theorem execTakeUnusableLine_keeps : EffectKeepsQueues execTakeUnusableLine := act_keeps fun u => by
  split
  · exact u.freeTake_keeps _
  · exact .refl u

theorem execTakeNotPosted_keeps : EffectKeepsQueues execTakeNotPosted := act_keeps fun u => by
  split
  · exact .when fun _ => u.freeTake_keeps _
  · exact .refl u

theorem execTakeUnknownKind_keeps : EffectKeepsQueues execTakeUnknownKind := act_keeps fun u => by
  split
  · next hread =>
    exact .when fun _ =>
      .after (State.requestDone_keeps _ _ _) (State.endTake_keeps (State.takeRead_takeSlot hread) _)
  · exact .refl u

theorem execTakeLackOfRoom_keeps : EffectKeepsQueues execTakeLackOfRoom := act_keeps fun u => by
  split
  · exact .when fun _ => u.returnTake_keeps _ _
  · exact .refl u

/-! ### Orders -/

theorem execScrubRange_keeps : EffectKeepsQueues execScrubRange :=
  onOrder_keeps fun _ slot _ room kind => State.takeScrub_keeps room (of_decide_eq_true kind) slot

theorem execProbeLine_keeps : EffectKeepsQueues execProbeLine :=
  onOrder_keeps fun _ slot _ room kind => State.takeProbe_keeps room (of_decide_eq_true kind) slot

theorem execRetireRowMigrate_keeps : EffectKeepsQueues execRetireRowMigrate := onOrder_keeps fun _ slot _ room kind => by
    simp only [Bool.and_eq_true, decide_eq_true_eq] at kind
    exact State.takeMigrate_keeps room kind.1 kind.2 slot

theorem execRetireRowRestore_keeps : EffectKeepsQueues execRetireRowRestore :=
  onOrder_keeps fun u slot l _ _ => u.takeRestoreRow_keeps slot l

theorem execMarkDeviceRebuild_keeps : EffectKeepsQueues execMarkDeviceRebuild :=
  onOrder_keeps fun u slot l _ _ => u.takeMarkRebuild_keeps slot l

theorem execMarkDeviceEraseOnly_keeps : EffectKeepsQueues execMarkDeviceEraseOnly :=
  onOrder_keeps fun u slot l _ _ => u.takeMarkEraseOnly_keeps slot l

theorem execMarkDeviceRestore_keeps : EffectKeepsQueues execMarkDeviceRestore :=
  onOrder_keeps fun u slot l _ _ => u.takeMarkRestore_keeps slot l

theorem execSetPolicy_keeps : EffectKeepsQueues execSetPolicy :=
  onOrder_keeps fun u slot l _ _ => u.takePolicy_keeps slot l

theorem execQuiesce_keeps : EffectKeepsQueues execQuiesce :=
  onOrder_keeps fun u slot l _ _ => u.takeQuiesce_keeps slot l

theorem execResume_keeps : EffectKeepsQueues execResume := onOrder_keeps fun u slot l _ _ => u.takeResume_keeps slot l

theorem execExportTables_keeps : EffectKeepsQueues execExportTables :=
  onOrder_keeps fun u slot l _ _ => u.takeExport_keeps slot l

theorem execExportLineEntry_keeps : EffectKeepsQueues execExportLineEntry :=
  act_keeps fun u => u.admitExportLine_keeps

/-! ### Pacing, patrol, the engines and the Journal -/

theorem execDecayTick_keeps : EffectKeepsQueues execDecayTick := act_keeps fun _ =>
  .when fun _ => .after (State.clearAllSuspects_keeps _) (.of_same rfl)

theorem execPaceIntervalStart_keeps : EffectKeepsQueues execPaceIntervalStart := act_keeps fun u => by
  split
  · next t _ =>
    have counted : u.KeepsQueues (u.periodicReview t).startCounts := .then_same (u.periodicReview_keeps t) rfl
    exact .then_same (.after (State.accrueIfAccruing_keeps _) counted) rfl
  · exact .refl u

theorem execPeriodicPaceReview_keeps : EffectKeepsQueues execPeriodicPaceReview := act_keeps fun u => by
  split
  · exact .when fun _ => .then_same u.askReview_keeps rfl
  · exact .refl u

theorem execPassLate_keeps : EffectKeepsQueues execPassLate :=
  act_keeps fun u => .when fun _ => .after (State.review_keeps _) u.markLate_keeps

theorem execPatrolReadGrant_keeps (errors : List SliceError) : EffectKeepsQueues (execPatrolReadGrant errors) :=
  act_keeps fun u => .when fun _ => u.grantPatrolRead_keeps _

theorem execPatrolDecodeEnd_keeps : EffectKeepsQueues execPatrolDecodeEnd := act_keeps fun u => by
  split
  · exact u.endPatrolDecode_keeps _
  · exact .refl u

theorem execPatrolWriteGrant_keeps : EffectKeepsQueues execPatrolWriteGrant := act_keeps fun u => by
  split
  · exact .when fun _ => .after (State.releasePatrol_keeps _) (u.visitWrite_keeps _ _)
  · exact .refl u

theorem execScrubVisitReadGrant_keeps (errors : List SliceError) : EffectKeepsQueues (execScrubVisitReadGrant errors) :=
  act_keeps fun u => by
    split
    · exact .after (State.countTargeted_keeps _ _) (u.grantTargetedRead_keeps _ _)
    · exact .refl u

theorem execScrubVisitDecodeEnd_keeps : EffectKeepsQueues execScrubVisitDecodeEnd := act_keeps fun u => by
  split
  · exact u.endScrubDecode_keeps _ _
  · exact .refl u

theorem execScrubVisitWriteGrant_keeps : EffectKeepsQueues execScrubVisitWriteGrant := act_keeps fun u => by
  split
  · exact .when fun _ =>
      .after (State.releaseScrub_keeps _ _) (.after (State.countDropped_keeps _ _ _) (u.visitWrite_keeps _ _))
  · exact .refl u

theorem execProbeReadGrant_keeps (errors : List SliceError) : EffectKeepsQueues (execProbeReadGrant errors) :=
  act_keeps fun u => by
    split
    · exact u.grantTargetedRead_keeps _ _
    · exact .refl u

theorem execProbeDecodeEnd_keeps : EffectKeepsQueues execProbeDecodeEnd := act_keeps fun u => by
  split
  · exact u.endProbe_keeps _ _
  · exact .refl u

theorem execCopyReadGrant_keeps (errors : List SliceError) : EffectKeepsQueues (execCopyReadGrant errors) :=
  act_keeps fun u => by
    split
    · exact .when fun _ => u.grantCopyRead_keeps _ _
    · exact .refl u

theorem execCopyDecodeEnd_keeps : EffectKeepsQueues execCopyDecodeEnd := act_keeps fun u => by
  split
  · exact u.endCopyDecode_keeps _
  · exact .refl u

theorem execCopyWriteGrant_keeps : EffectKeepsQueues execCopyWriteGrant := act_keeps fun u => by
  split
  · exact .when fun _ => .after (State.endCopy_keeps _ _) (u.copyWrite_keeps _ _ _)
  · exact .refl u

theorem execRebuildReadGrant_keeps (errors : List SliceError) : EffectKeepsQueues (execRebuildReadGrant errors) :=
  act_keeps fun u => by
    split
    · exact .when fun _ => u.grantRebuildRead_keeps _ _
    · exact .refl u

theorem execRebuildDecodeEnd_keeps : EffectKeepsQueues execRebuildDecodeEnd := act_keeps fun u => by
  split
  · exact u.endRebuildDecode_keeps _
  · exact .refl u

theorem execRebuildWriteGrant_keeps : EffectKeepsQueues execRebuildWriteGrant := act_keeps fun u => by
  split
  · exact .when fun _ => .after (State.endRebuildLine_keeps _ _) (u.rebuildWrite_keeps _ _)
  · exact .refl u

theorem execStagingDeparture_keeps : EffectKeepsQueues execStagingDeparture :=
  act_keeps fun u => u.stagingDeparts_keeps

theorem execHoldoffExpiry_keeps : EffectKeepsQueues execHoldoffExpiry :=
  act_keeps fun u => .when fun _ => u.raiseJournal_keeps

theorem execStatusTimerExpiry_keeps : EffectKeepsQueues execStatusTimerExpiry :=
  act_keeps fun _ => .when fun _ => .after (State.askStatus_keeps _) (.of_same rfl)

theorem execStatusWrite_keeps : EffectKeepsQueues execStatusWrite := act_keeps fun u => u.admitStatus_keeps

/-! ### Every command -/

theorem exec_keeps (c : Instr) : EffectKeepsQueues (exec c) := fun s t h =>
  match c with
  | .powerOnReset ranks base => execPowerOnReset_keeps ranks base s t h
  | .arrayInitLineWrite rank => execArrayInitLineWrite_keeps rank s t h
  | .arrayInitDone => execArrayInitDone_keeps s t h
  | .warmReset => execWarmReset_keeps s t h
  | .restartSlotScanRead => execRestartSlotScanRead_keeps s t h
  | .restartWindowReread => execRestartWindowReread_keeps s t h
  | .restartMarkRead => execRestartMarkRead_keeps s t h
  | .restartEnd => execRestartEnd_keeps s t h
  | .accessAboveLTotal kind address => execAccessAboveLTotal_keeps kind address s t h
  | .accessNotReady kind address => execAccessNotReady_keeps kind address s t h
  | .serverReadPresent address => execServerReadPresent_keeps address s t h
  | .serverReadGrant port errors => execServerReadGrant_keeps port errors s t h
  | .serverReadDecodeEnd port => execServerReadDecodeEnd_keeps port s t h
  | .writeBackGrant port => execWriteBackGrant_keeps port s t h
  | .fullLineWritePresent address data => execFullLineWritePresent_keeps address data s t h
  | .fullLineWriteGrant port => execFullLineWriteGrant_keeps port s t h
  | .maskedWritePresent address data mask => execMaskedWritePresent_keeps address data mask s t h
  | .mergeReadGrant port errors => execMergeReadGrant_keeps port errors s t h
  | .mergeDecodeEnd port => execMergeDecodeEnd_keeps port s t h
  | .maskedWriteHalfGrant port => execMaskedWriteHalfGrant_keeps port s t h
  | .maskedWriteEntryGrant port => execMaskedWriteEntryGrant_keeps port s t h
  | .slotPost => execSlotPost_keeps s t h
  | .slotFree => execSlotFree_keeps s t h
  | .windowArm => execWindowArm_keeps s t h
  | .windowCancel => execWindowCancel_keeps s t h
  | .windowEmpty => execWindowEmpty_keeps s t h
  | .windowStateNotActedOn => execWindowStateNotActedOn_keeps s t h
  | .readMarkWrite => execReadMarkWrite_keeps s t h
  | .causeAcknowledge => execCauseAcknowledge_keeps s t h
  | .otherWindowWrite => execOtherWindowWrite_keeps s t h
  | .windowStart record => execWindowStart_keeps record s t h
  | .windowEnd record => execWindowEnd_keeps record s t h
  | .cwWriterGrant => execCwWriterGrant_keeps s t h
  | .cwWriterAdmission => execCwWriterAdmission_keeps s t h
  | .ownReadGrant errors => execOwnReadGrant_keeps errors s t h
  | .ownReadDecodeEnd => execOwnReadDecodeEnd_keeps s t h
  | .takeStart => execTakeStart_keeps s t h
  | .takeUnusableLine => execTakeUnusableLine_keeps s t h
  | .takeNotPosted => execTakeNotPosted_keeps s t h
  | .takeUnknownKind => execTakeUnknownKind_keeps s t h
  | .takeLackOfRoom => execTakeLackOfRoom_keeps s t h
  | .scrubRange => execScrubRange_keeps s t h
  | .probeLine => execProbeLine_keeps s t h
  | .retireRowMigrate => execRetireRowMigrate_keeps s t h
  | .retireRowRestore => execRetireRowRestore_keeps s t h
  | .markDeviceRebuild => execMarkDeviceRebuild_keeps s t h
  | .markDeviceEraseOnly => execMarkDeviceEraseOnly_keeps s t h
  | .markDeviceRestore => execMarkDeviceRestore_keeps s t h
  | .setPolicy => execSetPolicy_keeps s t h
  | .quiesce => execQuiesce_keeps s t h
  | .resume => execResume_keeps s t h
  | .exportTables => execExportTables_keeps s t h
  | .exportLineEntry => execExportLineEntry_keeps s t h
  | .decayTick => execDecayTick_keeps s t h
  | .paceIntervalStart => execPaceIntervalStart_keeps s t h
  | .periodicPaceReview => execPeriodicPaceReview_keeps s t h
  | .passLate => execPassLate_keeps s t h
  | .patrolReadGrant errors => execPatrolReadGrant_keeps errors s t h
  | .patrolDecodeEnd => execPatrolDecodeEnd_keeps s t h
  | .patrolWriteGrant => execPatrolWriteGrant_keeps s t h
  | .scrubVisitReadGrant errors => execScrubVisitReadGrant_keeps errors s t h
  | .scrubVisitDecodeEnd => execScrubVisitDecodeEnd_keeps s t h
  | .scrubVisitWriteGrant => execScrubVisitWriteGrant_keeps s t h
  | .probeReadGrant errors => execProbeReadGrant_keeps errors s t h
  | .probeDecodeEnd => execProbeDecodeEnd_keeps s t h
  | .copyReadGrant errors => execCopyReadGrant_keeps errors s t h
  | .copyDecodeEnd => execCopyDecodeEnd_keeps s t h
  | .copyWriteGrant => execCopyWriteGrant_keeps s t h
  | .rebuildReadGrant errors => execRebuildReadGrant_keeps errors s t h
  | .rebuildDecodeEnd => execRebuildDecodeEnd_keeps s t h
  | .rebuildWriteGrant => execRebuildWriteGrant_keeps s t h
  | .stagingDeparture => execStagingDeparture_keeps s t h
  | .holdoffExpiry => execHoldoffExpiry_keeps s t h
  | .statusTimerExpiry => execStatusTimerExpiry_keeps s t h
  | .statusWrite => execStatusWrite_keeps s t h

/-! ## Every step -/

theorem State.idle_keeps {s t : State} (h : s.idle = .next t) : s.KeepsQueues t := by
  unfold State.idle at h
  split at h
  · exact act_keeps .refl s t h
  · split at h
    · exact exec_keeps _ s t h
    · cases h
      exact .of_same rfl

theorem step_keeps {s t : State} (h : step s = .next t) : s.KeepsQueues t := by
  unfold step at h
  split at h
  · exact .after (exec_keeps _ _ t h) (.of_same rfl)
  · exact State.idle_keeps h

/-- Settles O55: every command, hand-off and due step is made of operations that each keep the queues. -/
theorem stepsKeepQueuesBounded : Obligations.StepsKeepQueuesBounded := fun s t h => by
  obtain ⟨⟨hwriter, hback, hstaging, htargeted, hqueue, hdistinct, hslots⟩, haccesses⟩ := step_keeps h
  refine ⟨fun hs => ?_, haccesses, hdistinct, hslots⟩
  obtain ⟨bwriter, bback, bstaging, btargeted, bqueue⟩ := hs
  exact ⟨hwriter bwriter, hback bback, hstaging bstaging, htargeted btargeted, hqueue bqueue⟩

end Sys2Proof.Machine
end

section
/-! PROOFS. O2: a pending hand-off takes effect first; on an empty queue, the step that part time has brought due. -/

namespace Sys2Proof.Machine

/-! ## The pending hand-off -/

theorem State.settle_some {s : State} {h : HandOff} (hs : s.handOff = some h) :
    s.settle = State.actOn { s with handOff := none } h := by
  rw [State.settle, hs]

theorem State.actOn_handOff (s : State) (h : HandOff) : (s.actOn h).handOff = s.handOff := by
  obtain ⟨m, c, o, v, q, w, p, j, e⟩ := s.actOn_frame h
  rw [e]

/-- An effect that the pending hand-off precedes. -/
def EffectSettles (e : State → Host.Outcome State Fault Refusal) : Prop :=
  ∀ (s : State) (h : HandOff), s.handOff = some h → e s = e (State.actOn { s with handOff := none } h)

theorem act_settles (f : State → State) : EffectSettles (act f) := fun s h hs => by
  have settled : (State.actOn { s with handOff := none } h).handOff = none := State.actOn_handOff _ h
  rw [act, act, State.settle_some hs, State.settle_none _ settled]

theorem onOrder_settles (p : Line → Bool) (f : State → Nat → Line → State) : EffectSettles (onOrder p f) :=
  act_settles _

theorem exec_settles {c : Instr} (hc : actsOnHandOff c = false) : EffectSettles (exec c) := by
  cases c with
  | powerOnReset | slotPost | slotFree | windowArm | windowCancel | windowEmpty | windowStateNotActedOn
  | readMarkWrite | causeAcknowledge | otherWindowWrite => cases hc
  | scrubRange | probeLine | retireRowMigrate | retireRowRestore | markDeviceRebuild | markDeviceEraseOnly
  | markDeviceRestore | setPolicy | quiesce | resume | exportTables =>
    intro s h hs
    dsimp only [exec]
    exact onOrder_settles _ _ s h hs
  | _ =>
    intro s h hs
    dsimp only [exec]
    exact act_settles _ s h hs

theorem step_idle {s : State} (hs : s.pending = []) : step s = s.idle := by
  rw [step, hs]

theorem idle_handOff {s : State} {h : HandOff} (hs : s.handOff = some h) :
    s.idle = .next (State.finish (State.actOn { s with handOff := none } h)) := by
  rw [State.idle, hs, Option.isSome_some, if_pos rfl, act, State.settle_some hs]

/-! ## The step that part time has brought due -/

theorem firstBelow_eq_none {n : Nat} {p : Nat → Bool} : firstBelow n p = none ↔ ∀ i, i < n → p i = false := by
  simp [firstBelow]

theorem State.startIsDue_iff (s : State) (r : Nat) :
    s.startIsDue r = true ↔ (s.window r).state = .armed ∧ hasReached s.time (s.window r).start = true := by
  simp [State.startIsDue]

theorem State.endIsDue_iff (s : State) (r : Nat) :
    s.endIsDue r = true ↔ (s.window r).state = .active ∧ hasReached s.time (s.window r).stop = true := by
  simp [State.endIsDue]

theorem State.dueInterval_none {s : State} (h : ∀ t, s.nextInterval = some t → hasReached s.time t = false) :
    s.dueInterval = none := by
  rw [State.dueInterval, Option.filter_eq_none_iff]
  intro t ht
  rw [h t ht]
  exact Bool.false_ne_true

theorem State.dueStep_of_dueWindow {s : State} {c : Instr} (h : s.dueWindow = some c) : s.dueStep = some c := by
  rw [State.dueStep, h]

/-- The first of the starts that are due, in the order of the records (R86). -/
theorem State.dueStep_start {s : State} {r : Nat} (hr : r < 32) (hd : s.startIsDue r = true)
    (first : ∀ j, j < r → s.startIsDue j = false) : s.dueStep = some (.windowStart r) :=
  State.dueStep_of_dueWindow (by rw [State.dueWindow, firstBelow_eq_some.2 ⟨hr, hd, first⟩])

theorem State.dueWindow_of_no_start {s : State} (none : ∀ j, j < 32 → s.startIsDue j = false) :
    s.dueWindow = (firstBelow 32 s.endIsDue).map .windowEnd := by
  rw [State.dueWindow, firstBelow_eq_none.2 none]

/-- The first of the ends that are due, where no start is (R86; log 33). -/
theorem State.dueStep_end {s : State} (none : ∀ j, j < 32 → s.startIsDue j = false) {r : Nat} (hr : r < 32)
    (hd : s.endIsDue r = true) (first : ∀ j, j < r → s.endIsDue j = false) : s.dueStep = some (.windowEnd r) :=
  State.dueStep_of_dueWindow (by
    rw [State.dueWindow_of_no_start none, firstBelow_eq_some.2 ⟨hr, hd, first⟩, Option.map_some])

/-- The step of an interval whose start is due: its review first (R103, R107). -/
def State.intervalStep (s : State) (t : PartTime) : Instr :=
  if isThousandth t = true ∧ s.reviewed = false then .periodicPaceReview else .paceIntervalStart

theorem State.intervalStep_review {s : State} {t : PartTime} (ht : t.toNat % 1000000 = 0) (hr : s.reviewed = false) :
    s.intervalStep t = .periodicPaceReview := if_pos ⟨decide_eq_true ht, hr⟩

theorem State.intervalStep_start {s : State} {t : PartTime} (h : t.toNat % 1000000 ≠ 0 ∨ s.reviewed = true) :
    s.intervalStep t = .paceIntervalStart := by
  refine if_neg ?_
  rintro ⟨ht, hr⟩
  rcases h with h | h
  · exact h (of_decide_eq_true ht)
  · rw [hr] at h
    cases h

/-- The steps that part time brings due beside the windows'. -/
theorem State.dueStep_of_no_window {s : State} (noStart : ∀ j, j < 32 → s.startIsDue j = false)
    (noEnd : ∀ j, j < 32 → s.endIsDue j = false) :
    s.dueStep =
      if s.ready = true ∧ s.passIsLate = true then some .passLate
      else if hasReached s.time s.decayTick = true then some .decayTick
      else if s.expired s.journal.holdoff = true then some .holdoffExpiry
      else if s.expired s.journal.statusTimer = true then some .statusTimerExpiry
      else s.dueInterval.map s.intervalStep := by
  have noWindow : s.dueWindow = none := by
    rw [State.dueWindow_of_no_start noStart, firstBelow_eq_none.2 noEnd, Option.map_none]
  rw [State.dueStep, noWindow]
  cases s.dueInterval with
  | none => rfl
  | some t => simp only [Option.map_some, State.intervalStep, apply_ite some]

theorem State.expired_some {s : State} {timer : Option PartTime} {t : PartTime} (h : timer = some t)
    (hr : hasReached s.time t = true) : s.expired timer = true := by
  rw [h]
  exact hr

theorem State.expired_eq_false {s : State} {timer : Option PartTime}
    (h : ∀ t, timer = some t → hasReached s.time t = false) : s.expired timer = false := by
  cases timer with
  | none => rfl
  | some t => exact h t rfl

/-- Settles O2: a pending hand-off is settled by the act of every command that does not act on it, and the due step is
the first of its list. -/
theorem handOffsAndTimeActByThemselves : Obligations.HandOffsAndTimeActByThemselves := by
  refine ⟨fun s hs => ⟨fun h hh => ?_, fun c hh hd => ?_, fun hh hd => ?_⟩, fun c s h hs hc => exec_settles hc s h hs,
    fun s start stop late hstart hstop hlate => ?_⟩
  · rw [step_idle hs, idle_handOff hh]
  · simp [step_idle hs, State.idle, hh, hd]
  · simp [step_idle hs, State.idle, hh, hd]
  have start_iff : ∀ r, start r ↔ r < 32 ∧ s.startIsDue r = true := fun r => by rw [hstart, s.startIsDue_iff]
  have stop_iff : ∀ r, stop r ↔ r < 32 ∧ s.endIsDue r = true := fun r => by rw [hstop, s.endIsDue_iff]
  have late_iff : late ↔ s.ready = true ∧ s.passIsLate = true := by rw [hlate, s.passIsLate_iff]
  have not_start : ∀ j, j < 32 → ¬ start j → s.startIsDue j = false := fun j hj h =>
    Bool.eq_false_iff.2 fun hd => h ((start_iff j).2 ⟨hj, hd⟩)
  have not_stop : ∀ j, j < 32 → ¬ stop j → s.endIsDue j = false := fun j hj h =>
    Bool.eq_false_iff.2 fun hd => h ((stop_iff j).2 ⟨hj, hd⟩)
  refine ⟨fun r hr first => ?_, fun r noStart hr first => ?_, fun noWindow => ?_⟩
  · obtain ⟨hr, hd⟩ := (start_iff r).1 hr
    exact State.dueStep_start hr hd fun j hj => not_start j (hj.trans hr) (first j hj)
  · obtain ⟨hr, hd⟩ := (stop_iff r).1 hr
    exact State.dueStep_end (fun j hj => not_start j hj (noStart j)) hr hd fun j hj =>
      not_stop j (hj.trans hr) (first j hj)
  rw [State.dueStep_of_no_window (fun j hj => not_start j hj (noWindow j).1) fun j hj => not_stop j hj (noWindow j).2,
    late_iff]
  refine ⟨fun l => if_pos l, fun l hd => ?_, fun l hd => ⟨fun t ht hr => ?_, fun noHoldoff => ⟨fun t ht hr => ?_,
    fun noTimer => ⟨fun t ht hr => ?_, fun noInterval => ?_⟩⟩⟩⟩
  · rw [if_neg l, if_pos hd]
  · rw [if_neg l, if_neg (Bool.eq_false_iff.1 hd), if_pos (State.expired_some ht hr)]
  all_goals
    rw [if_neg l, if_neg (Bool.eq_false_iff.1 hd), if_neg (Bool.eq_false_iff.1 (State.expired_eq_false noHoldoff))]
  · rw [if_pos (State.expired_some ht hr)]
  all_goals rw [if_neg (Bool.eq_false_iff.1 (State.expired_eq_false noTimer))]
  · rw [State.dueInterval_some ht hr, Option.map_some]
    exact ⟨fun h h' => congrArg some (State.intervalStep_review h h'),
      fun h => congrArg some (State.intervalStep_start h)⟩
  · rw [State.dueInterval_none noInterval, Option.map_none]

end Sys2Proof.Machine
end

section
/-! PROOFS. O8: the restart ends with the port READY. -/

namespace Sys2Proof.Machine

theorem State.askStatus_contains (s : State) : s.askStatus.waiters.contains .status = true := by
  unfold State.askStatus
  split
  · next h => exact h
  · simp

theorem State.askStatus_ready (s : State) : s.askStatus.ready = s.ready := by
  obtain ⟨w, h⟩ := s.askStatus_frame
  rw [h]
  rfl

theorem State.askStatus_only_waiters (s : State) : s.askStatus = { s with waiters := s.askStatus.waiters } := by
  obtain ⟨w, h⟩ := s.askStatus_frame
  rw [h]

theorem State.markLate_ready (s : State) : s.markLate.ready = s.ready := by
  obtain ⟨q, w, j, c, h⟩ := State.handPlain_frame { s with patrol := { s.patrol with late := true } }
    (.passLate s.patrol.passNumber s.patrol.passEnd s.patrol.cursor s.linesRemaining) none 0 0 []
  rw [State.markLate, h]
  rfl

/-- The state in which the identity line has entered the writer and the port is READY. -/
def State.restarted (s : State) : State :=
  { s with phase := .running, retained := [], writeBacks := [], waiters := s.waiters.erase .identity,
           writer := s.writer ++ [.line 0 s.identityLine],
           takeCursor := (s.nextPosted s.takeCursor).getD s.takeCursor }

/-- A pass whose end has passed meanwhile is late (R103). -/
def State.lateIfPassed (s : State) : State := if s.passIsLate = true then s.markLate else s

theorem State.lateIfPassed_ready (s : State) : s.lateIfPassed.ready = s.ready := by
  unfold State.lateIfPassed
  split
  · exact s.markLate_ready
  · rfl

theorem State.admitIdentity_eq {s : State} (h : s.mayEnter .identity = true) :
    s.admitIdentity = s.restarted.lateIfPassed.review.askStatus := by
  rw [State.admitIdentity, if_pos h]
  rfl

theorem exec_restartEnd {s : State} (h : s.handOff = none) (he : s.mayEnter .identity = true) :
    exec .restartEnd s = .next s.restarted.lateIfPassed.review.askStatus.finish := by
  show execRestartEnd s = _
  rw [execRestartEnd, act_next h, State.admitIdentity_eq he]

/-- Settles O8: the identity line's admission makes the restarted state, whose pass is late or not, reviewed. -/
theorem restartEndsReady : Obligations.RestartEndsReady := fun s h he => by
  refine ⟨_, s.restarted, s.restarted.lateIfPassed, exec_restartEnd h he, rfl, fun hr hc hl => ?_, fun hn => ?_,
    State.askStatus_only_waiters _, State.askStatus_contains _, ?_⟩
  · exact if_pos (s.restarted.passIsLate_iff.2 ⟨hr, hc, hl⟩)
  · refine if_neg fun hp => ?_
    obtain ⟨hr, hc, hl⟩ := s.restarted.passIsLate_iff.1 hp
    rcases hn with hn | hn | hn
    · exact Bool.false_ne_true (hn.symm.trans hr)
    · exact absurd hc (Nat.not_lt.2 hn)
    · exact Bool.false_ne_true (hl.symm.trans hn)
  · rw [State.askStatus_ready, State.review_ready, State.lateIfPassed_ready]
    rfl

end Sys2Proof.Machine
end

section
/-! PROOFS. O15: a server read at its presentation and at its grant. -/

namespace Sys2Proof.Machine

/-! ## The reads of a port -/

/-- Among reads of other ports no answer finds a place. -/
theorem answerBehind_none {port : Nat} (r : Reply) {reads : List ServerRead} (h : ∀ x ∈ reads, x.port ≠ port) :
    answerBehind port r reads = none := by
  induction reads with
  | nil => rfl
  | cons x rest ih =>
    rw [List.forall_mem_cons] at h
    rw [answerBehind, ih h.2]
    exact if_neg h.1

/-- The answer goes behind the port's youngest read (R38). -/
theorem answerBehind_youngest {port : Nat} (r : Reply) (before : List ServerRead) {x : ServerRead}
    {after : List ServerRead} (hx : x.port = port) (h : ∀ y ∈ after, y.port ≠ port) :
    answerBehind port r (before ++ x :: after) = some (before ++ { x with behind := x.behind ++ [r] } :: after) := by
  induction before with
  | nil =>
    rw [List.nil_append, answerBehind, answerBehind_none r h]
    exact if_pos hx
  | cons y before ih => rw [List.cons_append, answerBehind, ih, List.cons_append]

/-! ## Presentation and grant -/

theorem State.present_read_waits {s : State} {host : Nat} (h : s.findWriteBack host = none) :
    s.present (.read host) = s.setAccess (rankOf host) (.readWaits host) := by
  rw [State.present, State.presentRead, h]

theorem State.present_read_served {s : State} {host : Nat} {e : WriteBack} (h : s.findWriteBack host = some e) :
    s.present (.read host) = s.answerInTurn (rankOf host) (readAnswer host e.data) := by
  rw [State.present, State.presentRead, h]

theorem exec_serverReadGrant {s : State} (h : s.handOff = none) {port host : Nat} (hr : s.ready = true)
    (ha : s.access port = .readWaits host) (hg : s.mayGrant port 1 = true) (errors : List SliceError) :
    exec (.serverReadGrant port errors) s =
      .next ((s.grantServerRead port host errors).freePort port).finish := by
  show execServerReadGrant port errors s = _
  rw [execServerReadGrant, act_next h, ha]
  dsimp only
  rw [if_pos ⟨hr, hg⟩]

theorem State.grantServerRead_eq (s : State) (port host : Nat) (errors : List SliceError) :
    s.grantServerRead port host errors =
      { s with cells := (s.applyErrorsHost host errors).cells,
               reads := s.reads ++ [{ port := port, host := host, stale := false,
                                      decode := (s.applyErrorsHost host errors).decodeHost host s.policy.demandBudget,
                                      behind := [] }] } := by
  obtain ⟨m, e⟩ := s.applyErrorsHost_frame host errors
  rw [State.grantServerRead, e]

/-- Settles O15: the presentation by the entry that `findWriteBack` answers, the grant by the reads it lets through. -/
theorem readIsServedFromQueueOrArray : Obligations.ReadIsServedFromQueueOrArray := by
  refine ⟨fun address s => ⟨fun h ha hr hi hw => ?_, fun hn => State.present_read_waits hn, fun e he none => ?_,
    fun e before x after he hreads hx hafter => ?_⟩, fun port host errors s h hr ha hg => ⟨_, rfl, ?_⟩⟩
  · rw [exec_serverReadPresent h, State.arrive_accepted hr ha, State.accept_idle hi hw]
  · rw [State.present_read_served he, State.answerInTurn, answerBehind_none _ none]
    rfl
  · rw [State.present_read_served he, State.answerInTurn, hreads, answerBehind_youngest _ before hx hafter]
  · rw [exec_serverReadGrant h hr ha hg, State.grantServerRead_eq]

end Sys2Proof.Machine
end

section
/-! PROOFS. O16: the end of a server read's decode. -/

namespace Sys2Proof.Machine

/-- The port's oldest read is the one that ends (R38; log 10). -/
theorem takeRead_oldest {port : Nat} (before : List ServerRead) {x : ServerRead} (after : List ServerRead)
    (hx : x.port = port) (h : ∀ y ∈ before, y.port ≠ port) :
    takeRead port (before ++ x :: after) = some (x, before ++ after) := by
  induction before with
  | nil => exact if_pos hx
  | cons y before ih =>
    rw [List.forall_mem_cons] at h
    rw [List.cons_append, takeRead, if_neg h.1, ih h.2]
    rfl

/-! ## The write-back request of a decode (R41, R52 to R54) -/

theorem State.requestCorrective_queued {s : State} {host : Nat} {e : WriteBack} (h : s.findWriteBack host = some e)
    (l : Line) : s.requestCorrective host l = s := by
  rw [State.requestCorrective, h]

theorem State.requestCorrective_room {s : State} {host : Nat} (h : s.findWriteBack host = none)
    (room : s.policy.writeBackEnable = 1 ∧ s.writeBacks.length < 12) (l : Line) :
    s.requestCorrective host l = { s with writeBacks := s.writeBacks ++ [{ host := host, data := some l }] } := by
  rw [State.requestCorrective, h]
  exact if_pos room

theorem State.requestCorrective_full {s : State} {host : Nat} (h : s.findWriteBack host = none)
    (full : ¬ (s.policy.writeBackEnable = 1 ∧ s.writeBacks.length < 12)) (l : Line) :
    s.requestCorrective host l = s.countSkipped := by
  rw [State.requestCorrective, h]
  exact if_neg full

theorem State.requestPoison_queued {s : State} {host : Nat} {e : WriteBack} (h : s.findWriteBack host = some e) :
    s.requestPoison host =
      { s with writeBacks := s.writeBacks.map fun e => if e.host = host then { e with data := none } else e } := by
  rw [State.requestPoison, h]

theorem State.requestPoison_room {s : State} {host : Nat} (h : s.findWriteBack host = none)
    (room : s.writeBacks.length < 16) :
    s.requestPoison host = { s with writeBacks := s.writeBacks ++ [{ host := host, data := none }] } := by
  rw [State.requestPoison, h]
  exact if_pos room

theorem State.requestPoison_full {s : State} {host : Nat} (h : s.findWriteBack host = none)
    (full : 16 ≤ s.writeBacks.length) : s.requestPoison host = s.countSkipped := by
  rw [State.requestPoison, h]
  exact if_neg (Nat.not_lt.2 full)

/-- A class that asks for no write-back. -/
theorem State.requestWriteBack_none (s : State) (host : Nat) {r : DecodeResult}
    (h : r.cls = .clean ∨ r.cls = .erased ∨ r.cls = .poisoned) : s.requestWriteBack host r = s := by
  rcases h with h | h | h <;> simp [State.requestWriteBack, h]

theorem State.requestWriteBack_corrective (s : State) (host : Nat) {r : DecodeResult} {l : Line}
    (h : r.cls = .corrected ∨ r.cls = .deepCorrected) (hl : r.data = some l) :
    s.requestWriteBack host r = s.requestCorrective host l := by
  rcases h with h | h <;> simp [State.requestWriteBack, h, hl]

theorem State.requestWriteBack_poison (s : State) (host : Nat) {r : DecodeResult} (h : r.cls = .uncorrectable) :
    s.requestWriteBack host r = s.requestPoison host := by
  simp [State.requestWriteBack, h]

/-- A corrected read of a line that the queue holds asks for nothing more. -/
theorem State.requestWriteBack_queued {s : State} {host : Nat} {e : WriteBack} (he : s.findWriteBack host = some e)
    {r : DecodeResult} (h : r.cls = .corrected ∨ r.cls = .deepCorrected) : s.requestWriteBack host r = s := by
  cases hl : r.data with
  | some l => rw [s.requestWriteBack_corrective host h hl, State.requestCorrective_queued he]
  | none => rcases h with h | h <;> simp [State.requestWriteBack, h, hl]

/-! ## The decode's end -/

theorem exec_serverReadDecodeEnd {s : State} (h : s.handOff = none) {port : Nat} {x : ServerRead}
    {rest : List ServerRead} (ht : takeRead port s.reads = some (x, rest)) :
    exec (.serverReadDecodeEnd port) s = .next (State.endServerRead { s with reads := rest } x).finish := by
  show execServerReadDecodeEnd port s = _
  rw [execServerReadDecodeEnd, act_next h, ht]

/-- The port's oldest read has left and is answered, with the answers behind it (R38, R40). -/
def State.readAnswered (s : State) (x : ServerRead) (rest : List ServerRead) : State :=
  State.answerRead { s with reads := rest } x

theorem State.requestCorrective_frame (s : State) (host : Nat) (l : Line) :
    ∃ b c, s.requestCorrective host l = { s with writeBacks := b, counters := c } := by
  unfold State.requestCorrective
  split
  · exact ⟨_, _, rfl⟩
  · split
    · exact ⟨_, _, rfl⟩
    · exact ⟨_, _, rfl⟩

theorem State.requestPoison_frame (s : State) (host : Nat) :
    ∃ b c, s.requestPoison host = { s with writeBacks := b, counters := c } := by
  unfold State.requestPoison
  split
  · exact ⟨_, _, rfl⟩
  · split
    · exact ⟨_, _, rfl⟩
    · exact ⟨_, _, rfl⟩

theorem State.requestUnlessStale_frame (s : State) (stale : Bool) (host : Nat) (r : DecodeResult) :
    ∃ b c, s.requestUnlessStale stale host r = { s with writeBacks := b, counters := c } := by
  unfold State.requestUnlessStale State.requestWriteBack
  split
  · exact ⟨_, _, rfl⟩
  · split
    · exact s.requestCorrective_frame host _
    · exact s.requestCorrective_frame host _
    · exact s.requestPoison_frame host
    · exact ⟨_, _, rfl⟩

theorem State.requestUnlessStale_only (s : State) (stale : Bool) (host : Nat) (r : DecodeResult) :
    s.requestUnlessStale stale host r =
      { s with writeBacks := (s.requestUnlessStale stale host r).writeBacks,
               counters := (s.requestUnlessStale stale host r).counters } := by
  obtain ⟨b, c, e⟩ := s.requestUnlessStale_frame stale host r
  rw [e]

theorem State.requestUnlessStale_stale (s : State) (host : Nat) (r : DecodeResult) :
    s.requestUnlessStale true host r = s := if_pos rfl

theorem State.requestUnlessStale_fresh (s : State) (host : Nat) (r : DecodeResult) :
    s.requestUnlessStale false host r = s.requestWriteBack host r := if_neg Bool.false_ne_true

/-- Settles O16: the read is taken from the port's reads, and its request follows its class. -/
theorem readEndAnswersQueuesReports : Obligations.ReadEndAnswersQueuesReports := by
  intro port s before after x h hreads hx hbefore
  have taken : takeRead port s.reads = some (x, before ++ after) := by
    rw [hreads, takeRead_oldest before after hx hbefore]
  refine ⟨(s.readAnswered x (before ++ after)).requestUnlessStale x.stale x.host x.decode.classify,
    exec_serverReadDecodeEnd h taken, State.requestUnlessStale_only _ _ _ _, fun hn => ?_, fun l hs hc hl hq => ?_,
    fun hs hc hq => ?_, fun e hs hq hc => ?_, fun e hs hq hc => ?_⟩
  · have same : (s.readAnswered x (before ++ after)).requestUnlessStale x.stale x.host x.decode.classify =
        s.readAnswered x (before ++ after) := by
      rcases hn with hs | hn
      · rw [hs, State.requestUnlessStale_stale]
      · unfold State.requestUnlessStale
        rw [State.requestWriteBack_none _ _ hn, ite_self]
    rw [same]
    exact ⟨rfl, rfl⟩
  · rw [hs, State.requestUnlessStale_fresh, State.requestWriteBack_corrective _ _ hc hl]
    refine ⟨fun room => ?_, fun full => ?_⟩
    · rw [State.requestCorrective_room (s := s.readAnswered x (before ++ after)) hq room]
      exact ⟨rfl, rfl⟩
    · rw [State.requestCorrective_full (s := s.readAnswered x (before ++ after)) hq full]
      exact ⟨rfl, rfl⟩
  · rw [hs, State.requestUnlessStale_fresh, State.requestWriteBack_poison _ _ hc]
    refine ⟨fun room => ?_, fun full => ?_⟩
    · rw [State.requestPoison_room (s := s.readAnswered x (before ++ after)) hq room]
      exact ⟨rfl, rfl⟩
    · rw [State.requestPoison_full (s := s.readAnswered x (before ++ after)) hq full]
      exact ⟨rfl, rfl⟩
  · rw [hs, State.requestUnlessStale_fresh,
      State.requestWriteBack_queued (s := s.readAnswered x (before ++ after)) hq hc]
    exact ⟨rfl, rfl⟩
  · rw [hs, State.requestUnlessStale_fresh, State.requestWriteBack_poison _ _ hc,
      State.requestPoison_queued (s := s.readAnswered x (before ++ after)) hq]
    exact ⟨rfl, rfl⟩

end Sys2Proof.Machine
end

section
/-! PROOFS. O18: the write-back granted is the oldest of its rank, and its content reaches the line. -/

namespace Sys2Proof.Machine

/-- The entry is the first in the queue's order whose host line lies in the rank (R55). -/
theorem State.writeBackFor_eq_some {s : State} {port : Nat} {e : WriteBack} :
    s.writeBackFor port = some e ↔ s.ready = true ∧
      ∃ before after, s.writeBacks = before ++ e :: after ∧ rankOf e.host = port ∧
        ∀ x ∈ before, rankOf x.host ≠ port := by
  unfold State.writeBackFor
  split
  · next hr =>
    rw [List.find?_eq_some_iff_append]
    simp only [hr, true_and, decide_eq_true_eq, Bool.not_eq_true', decide_eq_false_iff_not]
    exact ⟨fun ⟨hp, before, after, hs, hb⟩ => ⟨before, after, hs, hp, hb⟩,
      fun ⟨before, after, hs, hp, hb⟩ => ⟨hp, before, after, hs, hb⟩⟩
  · next hr => simp [hr]

theorem exec_writeBackGrant {s : State} (h : s.handOff = none) {port : Nat} {e : WriteBack}
    (he : s.writeBackFor port = some e) (hg : s.mayGrant port 3 = true) :
    exec (.writeBackGrant port) s = .next (s.writeBackNow e).finish := by
  show execWriteBackGrant port s = _
  rw [execWriteBackGrant, act_next h, he]
  dsimp only
  rw [if_pos hg]

theorem State.writeBackNow_eq (s : State) {e : WriteBack} {port row : Nat} (hp : rankOf e.host = port)
    (hrow : row = s.servingRow port (rowOf e.host) (columnOf e.host)) :
    s.writeBackNow e =
      ((s.dropWriteBack e.host).writeLine port row (columnOf e.host) e.content).leaveOnAll port row (columnOf e.host)
        e.content := by
  rw [State.writeBackNow, hp, hrow]

/-- Beside the line itself, the entry has left and the OPEN records on the line carry its content. -/
theorem State.writeBackNow_only (s : State) {e : WriteBack} {port row : Nat} (hp : rankOf e.host = port)
    (hrow : row = s.servingRow port (rowOf e.host) (columnOf e.host)) :
    s.writeBackNow e =
      { s with cells := (s.writeBackNow e).cells, written := (s.writeBackNow e).written,
               poisoned := (s.writeBackNow e).poisoned,
               writeBacks := s.writeBacks.filter (fun x => decide (x.host ≠ e.host)),
               patrolOp := leaveOn port row (columnOf e.host) e.content s.patrolOp,
               targetedOp := leaveOn port row (columnOf e.host) e.content s.targetedOp,
               migrationOp := leaveOn port row (columnOf e.host) e.content s.migrationOp,
               rebuildOp := leaveOn port row (columnOf e.host) e.content s.rebuildOp } := by
  rw [s.writeBackNow_eq hp hrow]
  obtain ⟨m, w, p, written⟩ := (s.dropWriteBack e.host).writeLine_frame port row (columnOf e.host) e.content
  rw [written]
  rfl

theorem State.writeBackNow_stored {s : State} {e : WriteBack} {port row : Nat} (hp : rankOf e.host = port)
    (hrow : row = s.servingRow port (rowOf e.host) (columnOf e.host)) (hs : (s.rankDevices port).Sound)
    (hm : s.MemoriesCanonical) : s.LineStored (s.writeBackNow e) port row (columnOf e.host) e.content := by
  rw [s.writeBackNow_eq hp hrow]
  exact (s.dropWriteBack e.host).writeLine_stored port row (columnOf e.host) e.content hs hm

/-- Settles O18: the entry found first is written to the line that serves it. -/
theorem writeBackGrantWritesOldestEntry : Obligations.WriteBackGrantWritesOldestEntry := by
  refine ⟨fun port s e => State.writeBackFor_eq_some, fun port s e h he hg hs hm => ?_⟩
  obtain ⟨-, before, after, -, hp, -⟩ := State.writeBackFor_eq_some.1 he
  refine ⟨s.writeBackNow e, _, rfl, hp, exec_writeBackGrant h he hg, ?_, s.writeBackNow_only hp rfl⟩
  have stored := State.writeBackNow_stored hp rfl hs hm
  obtain ⟨host, data⟩ := e
  cases data with
  | some l => exact stored
  | none => exact stored

end Sys2Proof.Machine
end

section
/-! PROOFS. O19, O20: server writes at their presentation, the grant of a full-line write, and the guard of a slot held
TAKEN. -/

namespace Sys2Proof.Machine

/-! ## Presentation of a write -/

/-- The effects of a port with no access pending: both server writes are presented at once. -/
theorem exec_writePresent {s : State} (h : s.handOff = none) {address : Nat} (ha : address < s.lTotal)
    (hr : s.ready = true) (hi : s.access (rankOf address) = .idle) (hw : s.arrivalsAt (rankOf address) = [])
    (data : Line) (mask : ByteMask) :
    exec (.fullLineWritePresent address data) s = .next (s.present (.fullLineWrite address data)).finish ∧
      exec (.maskedWritePresent address data mask) s = .next (s.present (.maskedWrite address data mask)).finish := by
  constructor
  · rw [exec_fullLineWritePresent h, State.arrive_accepted hr ha, State.accept_idle hi hw]
  · rw [exec_maskedWritePresent h, State.arrive_accepted hr ha, State.accept_idle hi hw]

theorem State.present_full_unguarded {s : State} {host : Nat} (h : s.guardedSlot host = none) (data : Line) :
    s.present (.fullLineWrite host data) = s.setAccess (rankOf host) (.fullWaits host data) := by
  rw [State.present, State.presentFull, h]

theorem State.present_masked_unguarded {s : State} {host : Nat} (h : s.guardedSlot host = none) (data : Line)
    (mask : ByteMask) : s.present (.maskedWrite host data mask) = s.presentMask host data mask := by
  rw [State.present, State.presentMasked, h]

theorem State.present_full_guarded {s : State} {host slot : Nat} (h : s.guardedSlot host = some slot) (data : Line) :
    s.present (.fullLineWrite host data) = s.guardWrite host slot (slotStateField data) := by
  rw [State.present, State.presentFull, h]

theorem State.present_masked_guarded {s : State} {host slot : Nat} (h : s.guardedSlot host = some slot) (data : Line)
    (mask : ByteMask) :
    s.present (.maskedWrite host data mask) = s.guardWrite host slot (maskedStateField data mask) := by
  rw [State.present, State.presentMasked, h]

/-! ## The write at its grant -/

theorem State.handOver_eq (s : State) (host : Nat) (line : Line) :
    s.handOver host line =
      { s with handOff :=
          (if s.inWindow host then
            some { offset := host - s.base, line := line, markDone := false, ackDone := false }
          else s.handOff) } := by
  by_cases h : s.inWindow host = true
  · rw [State.handOver, if_pos h, if_pos h]
    rfl
  · rw [State.handOver, if_neg h, if_neg h]

/-- The state after a write to `host`, its acknowledgement and its hand-off of `line` (R44, R57). -/
theorem State.hostWrite_ack_handOver {s : State} (h : s.handOff = none) (host : Nat) (c : Content) (line : Line) :
    ((s.hostWrite host c).reply (.ack host)).handOver host line =
      { s.hostWrite host c with
        replies := s.replies ++ [.ack host],
        handOff := (if s.inWindow host then
            some { offset := host - s.base, line := line, markDone := false, ackDone := false }
          else none) } := by
  obtain ⟨m, w, p, a, b, g, r, q, rd, o, e⟩ := s.hostWrite_frame host c
  rw [State.handOver_eq, e, ← h]
  rfl

theorem exec_fullLineWriteGrant {s : State} (h : s.handOff = none) {port host : Nat} {data : Line}
    (hr : s.ready = true) (ha : s.access port = .fullWaits host data) (hg : s.mayGrant port 1 = true) :
    exec (.fullLineWriteGrant port) s = .next (State.finish
      ((((s.hostWrite host (validContent data)).reply (.ack host)).handOver host data).freePort port)) := by
  show execFullLineWriteGrant port s = _
  rw [execFullLineWriteGrant, act_next h, ha]
  dsimp only
  rw [if_pos ⟨hr, hg⟩]

/-- Settles O19: what a write waits for, by its mask and the queue; then the grant of a full-line write. -/
theorem writePresentationAsksForGrant : Obligations.WritePresentationAsksForGrant := by
  refine ⟨fun address data mask s => ⟨fun h ha hr hi hw => exec_writePresent h ha hr hi hw data mask, fun hg => ?_⟩,
    fun port host data s h hr ha hm => ?_⟩
  · rw [State.present_full_unguarded hg, State.present_masked_unguarded hg, State.presentMask]
    refine ⟨rfl, fun h0 => ?_, fun h1 => ?_, fun h0 h1 hq => ?_, fun e h0 h1 hq => ?_⟩
    · rw [if_pos h0]
      rfl
    · rw [if_neg (h1 ▸ by decide), if_pos h1]
      rfl
    · rw [if_neg h0, if_neg h1, hq]
      rfl
    · rw [if_neg h0, if_neg h1, hq]
      rfl
  · rw [exec_fullLineWriteGrant h hr ha hm, State.hostWrite_ack_handOver h]
    rfl

/-! ## A slot held TAKEN (R58, R163) -/

theorem State.guardedSlot_of_taken {s : State} {slot : Nat} (hs : slot < 256) (h : (s.slot slot).state = .taken) :
    s.guardedSlot (s.base + 64 + slot) = some slot := by
  have offset : s.windowOffset (s.base + 64 + slot) = 64 + slot := by unfold State.windowOffset; omega
  have inside : s.inWindow (s.base + 64 + slot) = true := by
    have : Config.windowLines = 16384 := rfl
    simp only [State.inWindow, Bool.and_eq_true, decide_eq_true_eq]
    omega
  have line : slotOfOffset (64 + slot) = some slot := by
    rw [slotOfOffset, if_pos (by omega), Nat.add_sub_cancel_left]
  rw [State.guardedSlot, if_pos inside, offset, line, Option.filter_some, if_pos (decide_eq_true h)]

/-- A guarded write is acknowledged and journaled, and changes nothing else. -/
theorem State.guardWrite_journaled (s : State) (host slot field : Nat) :
    ∃ t, s.guardWrite host slot field = t ∧
      s.Journaled t { time := s.time, kind := .slotGuard slot field, source := .none, host := none,
                      rank := 0, row := 0, erasure := false, devices := [], tried := 0 } ∧
      t = { s with replies := s.replies ++ [.ack host], writer := t.writer, waiters := t.waiters,
                   journal := t.journal, counters := t.counters } := by
  refine ⟨_, rfl, ⟨_, rfl, rfl, rfl, rfl, rfl⟩, ?_⟩
  obtain ⟨q, w, j, c, e⟩ := s.handPlain_frame (.slotGuard slot field) none 0 0 []
  rw [State.guardWrite, e]
  rfl

/-- Settles O20: the slot held TAKEN is the guarded slot of its line. -/
theorem takenSlotIsGuarded : Obligations.TakenSlotIsGuarded := by
  intro slot data mask s hs hl ht
  have guarded := State.guardedSlot_of_taken hs ht
  refine ⟨fun h hr hi hw => exec_writePresent h hl hr hi hw data mask, ?_, ?_⟩
  · rw [State.present_full_guarded guarded]
    exact s.guardWrite_journaled _ _ _
  · rw [State.present_masked_guarded guarded]
    exact s.guardWrite_journaled _ _ _

end Sys2Proof.Machine
end

section
/-! PROOFS. O21: a merge read, and what waits for the write half at its decode's end. -/

namespace Sys2Proof.Machine

/-! ## The merged line -/

theorem maskBits_eq_lineOfFields (mask : ByteMask) :
    maskBits mask = lineOfFields (((List.range 64).filter mask.getLsbD).map fun i => ⟨i, 1, 255⟩) := by
  rw [lineOfFields, List.foldl_map, List.foldl_filter, maskBits]

/-- Every bit of a byte is the mask's bit of that byte. -/
theorem maskBits_getLsbD (mask : ByteMask) {i k : Nat} (hi : i < 64) (hk : k < 8) :
    (maskBits mask).getLsbD (8 * i + k) = mask.getLsbD i := by
  have byte : ∀ j, (placeField ⟨j, 1, 255⟩).getLsbD (8 * i + k) = true ↔ j = i := by
    intro j
    have ones : ∀ n, (255 : Nat).testBit n = decide (n < 8) := fun n => Nat.testBit_two_pow_sub_one 8 n
    simp only [placeField_getLsbD, ones, Bool.and_eq_true, decide_eq_true_eq]
    omega
  rw [maskBits_eq_lineOfFields, lineOfFields_getLsbD, Bool.eq_iff_iff, List.any_map, List.any_eq_true]
  constructor
  · rintro ⟨j, hj, hb⟩
    rw [← (byte j).1 hb]
    exact (List.mem_filter.1 hj).2
  · exact fun hm => ⟨i, List.mem_filter.2 ⟨List.mem_range.2 hi, hm⟩, (byte i).2 rfl⟩

/-- Each byte the mask names is the new line's, every other byte the old one's (R47). -/
theorem mergeLine_byte (old new : Line) (mask : ByteMask) {i : Nat} (hi : i < 64) :
    (mergeLine old new mask).extractLsb' (8 * i) 8 =
      if mask.getLsbD i then new.extractLsb' (8 * i) 8 else old.extractLsb' (8 * i) 8 := by
  apply BitVec.eq_of_getLsbD_eq
  intro k hk
  have inside : 8 * i + k < 512 := by omega
  rw [BitVec.getLsbD_extractLsb', mergeLine, BitVec.getLsbD_or, BitVec.getLsbD_and, BitVec.getLsbD_and,
    BitVec.getLsbD_not, maskBits_getLsbD mask hi hk]
  by_cases hm : mask.getLsbD i = true
  · rw [if_pos hm, BitVec.getLsbD_extractLsb']
    simp [hm]
  · rw [if_neg hm, BitVec.getLsbD_extractLsb']
    simp [hm, inside]

/-! ## The merge read -/

theorem exec_mergeReadGrant {s : State} (h : s.handOff = none) {port host : Nat} {data : Line} {mask : ByteMask}
    (hr : s.ready = true) (ha : s.access port = .mergeWaits host data mask) (hg : s.mayGrant port 1 = true)
    (errors : List SliceError) :
    exec (.mergeReadGrant port errors) s = .next (s.grantMergeRead port host data mask errors).finish := by
  show execMergeReadGrant port errors s = _
  rw [execMergeReadGrant, act_next h, ha]
  dsimp only
  rw [if_pos ⟨hr, hg⟩]

theorem State.grantMergeRead_eq (s : State) (port host : Nat) (data : Line) (mask : ByteMask)
    (errors : List SliceError) :
    s.grantMergeRead port host data mask errors =
      { s with
        cells := (s.applyErrorsHost host errors).cells,
        ports := put s.ports port
          (.merging host data mask ((s.applyErrorsHost host errors).decodeHost host s.policy.demandBudget) false) } := by
  obtain ⟨m, e⟩ := s.applyErrorsHost_frame host errors
  rw [State.grantMergeRead, e]
  rfl

theorem exec_mergeDecodeEnd {s : State} (h : s.handOff = none) {port host : Nat} {data : Line} {mask : ByteMask}
    {d : Decode} {orphan : Bool} (ha : s.access port = .merging host data mask d orphan) :
    exec (.mergeDecodeEnd port) s = .next (s.endMerge port host data mask d orphan).finish := by
  show execMergeDecodeEnd port s = _
  rw [execMergeDecodeEnd, act_next h, ha]

theorem State.report_ports (s : State) (d : Decode) (src : Source) (t : PartTime) :
    (s.report d src t).ports = s.ports := by
  obtain ⟨d', b, f, a, m, sp, r, q, w, j, c, l, e⟩ := s.report_frame d src t
  rw [e]

/-- Settles O21: the grant starts the decode; its end makes the merged line or poison wait. -/
theorem mergeReadFormsWriteHalf : Obligations.MergeReadFormsWriteHalf := by
  refine ⟨fun port host data mask s h => ⟨fun errors hr ha hg => ⟨_, rfl, ?_⟩, fun d orphan old ha hd => ?_,
    fun d orphan ha hd => ?_⟩, fun old new mask i hi => mergeLine_byte old new mask hi⟩
  · rw [exec_mergeReadGrant h hr ha hg, State.grantMergeRead_eq]
  · rw [exec_mergeDecodeEnd h ha, State.endMerge, hd, ← s.report_ports d .merge s.time]
    rfl
  · rw [exec_mergeDecodeEnd h ha, State.endMerge, hd]
    rfl

end Sys2Proof.Machine
end

section
/-! PROOFS. O22: the write half of a masked write, and the masked write that found a queue entry. -/

namespace Sys2Proof.Machine

theorem exec_maskedWriteHalfGrant {s : State} (h : s.handOff = none) {port host : Nat} {c : Content} {orphan : Bool}
    {loss : Option MergeLoss} (hw : s.windowTraffic = true) (hp : port < s.ranks)
    (ha : s.access port = .halfWaits host c orphan loss) :
    exec (.maskedWriteHalfGrant port) s =
      .next (State.finish (if orphan then s.writeOrphanHalf port host c loss else s.writeHalf port host c loss)) := by
  show execMaskedWriteHalfGrant port s = _
  rw [execMaskedWriteHalfGrant, act_next h, ha]
  dsimp only
  rw [if_pos ⟨hw, hp⟩]

theorem exec_maskedWriteEntryGrant {s : State} (h : s.handOff = none) {port host : Nat} {data : Line} {mask : ByteMask}
    (hr : s.ready = true) (ha : s.access port = .entryWaits host data mask) (hg : s.mayGrant port 1 = true) :
    exec (.maskedWriteEntryGrant port) s = .next (s.writeFromEntry port host data mask).finish := by
  show execMaskedWriteEntryGrant port s = _
  rw [execMaskedWriteEntryGrant, act_next h, ha]
  dsimp only
  rw [if_pos ⟨hr, hg⟩]

/-! ## The write half -/

/-- A write that is not absorbed hands its line over; an absorbed one hands over nothing (R50, R57). -/
theorem State.handOver_unless_poison {u s : State} (hu : u.handOff = none) (hb : u.base = s.base) (host : Nat)
    (c : Content) :
    (if c.poison then u else u.handOver host c.data) =
      { u with handOff := (if c.poison = false ∧ s.inWindow host = true then
            some { offset := host - s.base, line := c.data, markDone := false, ackDone := false }
          else none) } := by
  have window : u.inWindow host = s.inWindow host := by rw [State.inWindow, State.inWindow, hb]
  by_cases hc : c.poison = true
  · rw [if_pos hc, if_neg (by simp [hc]), ← hu]
  · rw [if_neg hc, State.handOver_eq, window, hb, hu]
    simp [hc]

theorem State.reportLoss_base (s : State) (loss : Option MergeLoss) : (s.reportLoss loss).base = s.base := by
  obtain ⟨d, b, f, a, m, sp, r, q, w, j, c, l, e⟩ := s.reportLoss_frame loss
  rw [e]

theorem State.reportLoss_handOff (s : State) (loss : Option MergeLoss) : (s.reportLoss loss).handOff = s.handOff := by
  obtain ⟨d, b, f, a, m, sp, r, q, w, j, c, l, e⟩ := s.reportLoss_frame loss
  rw [e]

/-- A write and its acknowledgement. -/
theorem State.hostWrite_reply_eq (s : State) (host : Nat) (c : Content) (r : Reply) :
    (s.hostWrite host c).reply r = { s.hostWrite host c with replies := s.replies ++ [r] } := by
  obtain ⟨m, w, p, a, b, g, x, q, rd, o, e⟩ := s.hostWrite_frame host c
  rw [e]
  rfl

theorem State.hostWrite_reply_base (s : State) (host : Nat) (c : Content) (r : Reply) :
    ((s.hostWrite host c).reply r).base = s.base := by
  obtain ⟨m, w, p, a, b, g, x, q, rd, o, e⟩ := s.hostWrite_frame host c
  rw [e]
  rfl

theorem State.hostWrite_reply_handOff (s : State) (host : Nat) (c : Content) (r : Reply) :
    ((s.hostWrite host c).reply r).handOff = s.handOff := by
  obtain ⟨m, w, p, a, b, g, x, q, rd, o, e⟩ := s.hostWrite_frame host c
  rw [e]
  rfl

/-- What is reported and handed over at the write half (R47, R49, R50, R57). -/
theorem State.writeHalf_eq {s : State} (h : s.handOff = none) (port host : Nat) (c : Content)
    (loss : Option MergeLoss) :
    s.writeHalf port host c loss = State.freePort
      { State.reportLoss { s.hostWrite host c with replies := s.replies ++ [.ack host] } loss with
        handOff := (if c.poison = false ∧ s.inWindow host = true then
            some { offset := host - s.base, line := c.data, markDone := false, ackDone := false }
          else none) } port := by
  rw [← s.hostWrite_reply_eq]
  refine congrArg (State.freePort · port) (State.handOver_unless_poison ?_ ?_ host c)
  · rw [State.reportLoss_handOff, State.hostWrite_reply_handOff, h]
  · rw [State.reportLoss_base, State.hostWrite_reply_base]

/-- The loss of an absorbed write, by the class of its merge decode (R49, R50; log 11). -/
theorem State.reportLoss_cases (s : State) (d : Decode) (t : PartTime) :
    (d.classify.cls = .poisoned → s.reportLoss (some { decode := d, ended := t }) =
      s.handRecord (d.record .poisonAbsorb .merge t)) ∧
    (d.classify.cls = .uncorrectable → s.reportLoss (some { decode := d, ended := t }) = s.report d .merge t) := by
  refine ⟨fun h => if_pos h, fun h => if_neg ?_⟩
  rw [h]
  exact LineClass.noConfusion

/-! ## The write that found a queue entry -/

theorem State.writeFromEntry_none {s : State} {host : Nat} (h : s.findWriteBack host = none) (port : Nat) (data : Line)
    (mask : ByteMask) : s.writeFromEntry port host data mask = s.setAccess port (.mergeWaits host data mask) := by
  rw [State.writeFromEntry, h]

theorem State.writeFromEntry_data {s : State} {host : Nat} {e : WriteBack} (h : s.findWriteBack host = some e)
    {old : Line} (hd : e.data = some old) (port : Nat) (data : Line) (mask : ByteMask) :
    s.writeFromEntry port host data mask =
      (((s.hostWrite host (validContent (mergeLine old data mask))).reply (.ack host)).handOver host
        (mergeLine old data mask)).freePort port := by
  rw [State.writeFromEntry, h]
  dsimp only
  rw [hd]

theorem State.writeFromEntry_poison {s : State} {host : Nat} {e : WriteBack} (h : s.findWriteBack host = some e)
    (hd : e.data = none) (port : Nat) (data : Line) (mask : ByteMask) :
    s.writeFromEntry port host data mask =
      (((s.hostWrite host poisonContent).handRecord (s.absorbRecord host)).reply (.ack host)).freePort port := by
  rw [State.writeFromEntry, h]
  dsimp only
  rw [hd]

/-- The record of an absorbed write leaves the replies as the write left them. -/
theorem State.absorb_reply_eq (s : State) (host : Nat) (c : Content) (r : JournalRecord) (a : Reply) :
    ((s.hostWrite host c).handRecord r).reply a =
      { (s.hostWrite host c).handRecord r with replies := s.replies ++ [a] } := by
  obtain ⟨q, w, j, k, e⟩ := (s.hostWrite host c).handRecord_frame r
  obtain ⟨m, w', p, x, b, g, y, q', rd, o, e'⟩ := s.hostWrite_frame host c
  rw [e, e']
  rfl

/-- Settles O22: the write half, orphaned or not; its report by the merge's class; and the write of a queue entry. -/
theorem maskedWriteCompletes : Obligations.MaskedWriteCompletes := by
  refine ⟨fun port host c loss s h hw hp => ⟨fun ha => ⟨_, rfl, ?_⟩, fun ha => ?_⟩,
    fun s d t => ⟨rfl, s.reportLoss_cases d t⟩,
    fun port host data mask s e h hr ha hg he => ⟨fun old hd => ?_, fun hd => ⟨_, rfl, ?_⟩⟩,
    fun port host data mask s h hr ha hg he => ?_⟩
  · rw [exec_maskedWriteHalfGrant h hw hp ha, if_neg Bool.false_ne_true, State.writeHalf_eq h]
  · rw [exec_maskedWriteHalfGrant h hw hp ha, if_pos rfl, State.writeOrphanHalf]
  · rw [exec_maskedWriteEntryGrant h hr ha hg, State.writeFromEntry_data he hd, State.hostWrite_ack_handOver h]
    rfl
  · rw [exec_maskedWriteEntryGrant h hr ha hg, State.writeFromEntry_poison he hd, State.absorb_reply_eq]
    rfl
  · rw [exec_maskedWriteEntryGrant h hr ha hg, State.writeFromEntry_none he]
    rfl

end Sys2Proof.Machine
end

section
/-! PROOFS. O29: the Control Window writer's grant. -/

namespace Sys2Proof.Machine

theorem windowLine_empty {w : WindowEntry} (h : w.state = .empty) : windowLine w = 0 := by
  rw [windowLine, h]

theorem windowLine_armed {w : WindowEntry} (h : w.state ≠ .empty) :
    windowLine w = lineOfFields [byteField 0 w.state.code, byteField 1 w.scope.toNat, ⟨2, 2, w.tag.toNat⟩,
      timeField 8 w.start, timeField 16 w.stop] := by
  unfold windowLine
  split
  · next he => exact absurd he h
  · rfl
  · rfl
  · rfl

theorem exec_cwWriterGrant {s : State} (h : s.handOff = none) (hw : s.windowTraffic = true)
    (hg : s.mayGrant s.windowRank 2 = true) {w : WriterItem} {rest : List WriterItem} (hq : s.writer = w :: rest) :
    exec .cwWriterGrant s = .next (s.writerGrant w rest).finish := by
  show execCwWriterGrant s = _
  rw [execCwWriterGrant, act_next h, hq]
  dsimp only
  rw [if_pos ⟨hw, hg⟩]

/-- Settles O29: the oldest write is the head of the writer, and a record's line holds the mirror's fields. -/
theorem writerGrantWritesOldest : Obligations.WriterGrantWritesOldest := by
  refine ⟨fun w => ⟨fun he => ?_, fun he => ?_⟩, fun s rest h hw hg => ⟨fun offset l hq => ?_, fun record hq => ?_⟩⟩
  · rw [windowLine_empty he]
    exact holdsFields_lineOfFields [] rfl
  · rw [windowLine_armed he]
    exact holdsFields_lineOfFields _ rfl
  · exact exec_cwWriterGrant h hw hg hq
  · exact exec_cwWriterGrant h hw hg hq

end Sys2Proof.Machine
end

section
/-! PROOFS. O59: the invariants at power-on. -/

namespace Sys2Proof.Machine

theorem reset_devicesSound : State.reset.DevicesSound := by
  refine ⟨fun r hr => ?_, fun op h => (nomatch h)⟩
  have atPowerOn : State.reset.rankDevices r = RankDevices.powerOn := nth_replicate _ _ hr
  rw [atPowerOn]
  exact RankDevices.powerOn_sound

theorem reset_slotsHeldInRange : State.reset.SlotsHeldInRange :=
  State.slotsHeld_of_none (fun i => by
    have free : State.reset.slot i = SlotMirror.freeMirror := nth_replicate_same 256 i SlotMirror.freeMirror
    rw [free]
    exact SlotState.noConfusion) rfl

/-- The reset's queues and tables are empty. -/
theorem reset_queuesBounded : State.reset.QueuesBounded :=
  ⟨Nat.zero_le _, Nat.zero_le _, Nat.zero_le _, Nat.zero_le _, Nat.zero_le _⟩

theorem reset_tableSound : State.reset.TableSound := ⟨Nat.zero_le _, List.nodup_nil, fun _ h => (nomatch h)⟩

theorem reset_accessesInOrder : State.reset.AccessesInOrder := fun p _ _ => nth_replicate_same 4 p []

theorem reset_journalInRange : State.reset.JournalInRange := by
  unfold State.JournalInRange
  decide

/-- The default policy lies in the ranges (R107, R168). -/
theorem reset_pacerInRange : State.reset.PacerInRange := by
  unfold State.PacerInRange State.PolicyInRange
  decide

/-- Four ranks are populated, and the patrol is at the start of its first pass. -/
theorem reset_passInRange : State.reset.PassInRange := by
  unfold State.PassInRange
  decide

theorem nth_replicate_cases {α : Type} (n i : Nat) (x d : α) :
    nth (Vector.replicate n x) i d = x ∨ nth (Vector.replicate n x) i d = d := by
  by_cases h : i < n
  · exact .inl (nth_replicate x d h)
  · exact .inr (by simp [nth, h])

theorem reset_spareState_ne (r i : Nat) : State.reset.spareState r i ≠ .inUse := by
  have row : nth State.reset.spares r (Vector.replicate 128 .discarded) = Vector.replicate 128 .free ∨
      nth State.reset.spares r (Vector.replicate 128 .discarded) = Vector.replicate 128 .discarded :=
    nth_replicate_cases 4 r _ _
  unfold State.spareState
  rcases row with h | h
  · rw [h]
    rcases nth_replicate_cases 128 i SpareState.free .discarded with h | h
    · rw [h]
      exact SpareState.noConfusion
    · rw [h]
      exact SpareState.noConfusion
  · rw [h, nth_replicate_same]
    exact SpareState.noConfusion

/-- No row is retired and no retirement waits. -/
theorem reset_remapsSound : State.reset.RemapsSound :=
  ⟨List.nodup_nil, List.nodup_nil, fun r i => ⟨fun h => absurd h (reset_spareState_ne r i), fun h => (nomatch h)⟩,
    fun _ h => (nomatch h), fun _ h => (nomatch h)⟩

theorem reset_retirementsSound : State.reset.RetirementsSound :=
  ⟨List.nodup_nil, fun _ h => (nomatch h), fun _ => Nat.zero_le _, fun _ => rfl, fun _ h => (nomatch h)⟩

/-- Settles O59, each invariant at the state of the power-on reset. -/
theorem invariantsHoldAtReset : Obligations.InvariantsHoldAtReset :=
  ⟨⟨rfl, rfl, rfl⟩, reset_queuesBounded, reset_journalInRange, reset_pacerInRange, reset_tableSound,
    reset_devicesSound, reset_accessesInOrder, List.nodup_nil, reset_slotsHeldInRange, reset_passInRange,
    reset_remapsSound, reset_retirementsSound⟩

end Sys2Proof.Machine
end

section
/-! PROOFS. The Line Fault Table, the remap entries and the migration queue: the relation that every step keeps, and
the operations that leave all three as they are. -/

namespace Sys2Proof.Machine

/-! ## The relation that every step keeps -/

/-- `t` has a sound fault table when `s` has one, and sound remap entries and retirements when `s` has. -/
structure State.KeepsTables (s t : State) : Prop where
  table : s.TableSound → t.TableSound
  retirements : s.RemapsSound → s.RetirementsSound → t.RemapsSound ∧ t.RetirementsSound

theorem State.KeepsTables.refl (s : State) : s.KeepsTables s := ⟨id, fun h hq => ⟨h, hq⟩⟩

theorem State.KeepsTables.after {s t u : State} (h' : t.KeepsTables u) (h : s.KeepsTables t) : s.KeepsTables u :=
  ⟨fun hs => h'.table (h.table hs), fun hr hq => h'.retirements (h.retirements hr hq).1 (h.retirements hr hq).2⟩

/-- What the soundness of the tables depends on. -/
def State.tables (s : State) :
    List FaultEntry × List RemapEntry × Vector (Vector SpareState 128) 4 × List Retirement × Option Migration :=
  (s.table, s.remaps, s.spares, s.migrationQueue, s.migration)

/-- A change of the fault table that the retirements do not see. -/
theorem State.KeepsTables.of_retirements {s t : State} (h : s.SameRetirements t)
    (ht : s.TableSound → t.TableSound) : s.KeepsTables t := ⟨ht, h.sound⟩

theorem State.KeepsTables.of_same {s t : State} (h : t.tables = s.tables) : s.KeepsTables t := by
  simp only [State.tables, Prod.mk.injEq] at h
  obtain ⟨htable, hremaps, hspares, hqueue, hmigration⟩ := h
  refine .of_retirements (.of_eq hremaps hspares hqueue hmigration htable) fun hs => ?_
  unfold State.TableSound at hs ⊢
  rw [htable]
  exact hs

theorem State.KeepsTables.then_same {s t u : State} (h : s.KeepsTables t) (e : u.tables = t.tables) :
    s.KeepsTables u := .after (.of_same e) h

/-- A frame that names none of the tables. -/
theorem State.KeepsTables.of_frame {s t u : State} (h : t = u) (e : u.tables = s.tables) : s.KeepsTables t :=
  .of_same (h ▸ e)

/-- An effect under its condition. -/
theorem State.KeepsTables.when {c : Prop} [Decidable c] {s t : State} (h : c → s.KeepsTables t) :
    s.KeepsTables (if c then t else s) := by
  split
  · next hc => exact h hc
  · exact .refl s

theorem State.foldl_keepsTables {α : Type} {f : State → α → State} (hf : ∀ (u : State) (x : α), u.KeepsTables (f u x))
    (l : List α) (s : State) : s.KeepsTables (l.foldl f s) := by
  induction l generalizing s with
  | nil => exact .refl s
  | cons x l ih => exact .after (ih _) (hf s x)

/-- New counts or slots of the retirements, with their rows and the other tables as they are. -/
theorem State.KeepsTables.of_rows {s t : State} (htable : t.table = s.table) (hremaps : t.remaps = s.remaps)
    (hspares : t.spares = s.spares)
    (hqueue : (t.migrationQueue.map fun q => (q.rank, q.row)) = s.migrationQueue.map fun q => (q.rank, q.row))
    (hmigration : (t.migration.map fun m => (m.rank, m.row)) = s.migration.map fun m => (m.rank, m.row)) :
    s.KeepsTables t := by
  have spareState : t.spareState = s.spareState := by funext r i; unfold State.spareState; rw [hspares]
  have migrating : ∀ r w, t.rowMigrating r w = s.rowMigrating r w := fun r w => by
    unfold State.rowMigrating; rw [hremaps]
  have queued : ∀ r w, t.rowQueued r w = s.rowQueued r w := fun r w => by
    rw [Bool.eq_iff_iff, State.rowQueued_iff, State.rowQueued_iff, hqueue]
  have waiting : ∀ (u : State) (r : Nat), u.waitingCount r =
      (u.migrationQueue.map fun q => (q.rank, q.row)).countP fun k => decide (k.1 = r) := fun u r => by
    rw [List.countP_map]; rfl
  refine ⟨fun h => by unfold State.TableSound at h ⊢; rw [htable]; exact h, fun hr hq => ⟨?_, ?_⟩⟩
  · rw [State.remapsSound_iff, hremaps, spareState, hmigration]
    exact s.remapsSound_iff.1 hr
  · obtain ⟨distinct, rows, free, empty, pending⟩ := hq
    refine ⟨hqueue ▸ distinct, fun q hq => ?_, fun r => ?_, fun h => ?_, fun e he => ?_⟩
    · obtain ⟨x, hx, hkey⟩ := List.mem_map.1 (hqueue ▸ List.mem_map.2 ⟨q, hq, rfl⟩)
      obtain ⟨hrank, hrow⟩ := Prod.mk.injEq .. ▸ hkey
      rw [migrating, ← hrank, ← hrow]
      exact rows x hx
    · have := free r
      rw [waiting] at this ⊢
      unfold State.freeSpares at this ⊢
      rw [hqueue, spareState]
      exact this
    · rw [h, Option.map_none, eq_comm, Option.map_eq_none_iff] at hmigration
      rw [empty hmigration, List.map_nil, List.map_eq_nil_iff] at hqueue
      exact hqueue
    · rw [queued, migrating]
      exact pending e (htable ▸ he)

/-! ## The array and the writer -/

theorem State.writeLine_keepsTables (s : State) (rank row column : Nat) (c : Content) :
    s.KeepsTables (s.writeLine rank row column c) := by
  obtain ⟨m, w, p, h⟩ := s.writeLine_frame rank row column c
  exact .of_frame h rfl

theorem State.applyErrors_keepsTables (s : State) (rank row column : Nat) (errors : List SliceError) :
    s.KeepsTables (s.applyErrors rank row column errors) := by
  obtain ⟨m, h⟩ := s.applyErrors_frame rank row column errors
  exact .of_frame h rfl

theorem State.applyErrorsHost_keepsTables (s : State) (host : Nat) (errors : List SliceError) :
    s.KeepsTables (s.applyErrorsHost host errors) := s.applyErrors_keepsTables _ _ _ errors

theorem State.hostWrite_keepsTables (s : State) (host : Nat) (c : Content) : s.KeepsTables (s.hostWrite host c) := by
  obtain ⟨m, w, p, a, b, g, r, q, rd, o, h⟩ := s.hostWrite_frame host c
  exact .of_frame h rfl

theorem State.askStatus_keepsTables (s : State) : s.KeepsTables s.askStatus := by
  obtain ⟨w, h⟩ := s.askStatus_frame
  exact .of_frame h rfl

theorem State.setCauses_keepsTables (s : State) (c : CauseSet) : s.KeepsTables (s.setCauses c) := by
  obtain ⟨j, w, h⟩ := s.setCauses_frame c
  exact .of_frame h rfl

theorem State.requestItem_keepsTables (s : State) (i : WriterItem) : s.KeepsTables (s.requestItem i) := by
  obtain ⟨q, w, h⟩ := s.requestItem_frame i
  exact .of_frame h rfl

theorem State.requestRecord_keepsTables (s : State) (record : Nat) : s.KeepsTables (s.requestRecord record) := by
  obtain ⟨q, w, h⟩ := s.requestRecord_frame record
  exact .of_frame h rfl

theorem State.enterDone_keepsTables (s : State) (slot : Nat) (l : Line) : s.KeepsTables (s.enterDone slot l) := by
  obtain ⟨q, w, j, m, h⟩ := s.enterDone_frame slot l
  exact .of_frame h rfl

theorem State.requestDone_keepsTables (s : State) (slot : Nat) (l : Line) : s.KeepsTables (s.requestDone slot l) := by
  obtain ⟨q, w, j, m, h⟩ := s.requestDone_frame slot l
  exact .of_frame h rfl

theorem State.checkQuiesce_keepsTables (s : State) : s.KeepsTables s.checkQuiesce := by
  obtain ⟨z, q, w, j, m, h⟩ := s.checkQuiesce_frame
  exact .of_frame h rfl

/-! ## The journal -/

theorem State.raiseJournal_keepsTables (s : State) : s.KeepsTables s.raiseJournal := by
  obtain ⟨j, w, h⟩ := s.raiseJournal_frame
  exact .of_frame h rfl

theorem State.checkCoalesce_keepsTables (s : State) : s.KeepsTables s.checkCoalesce := by
  obtain ⟨j, w, h⟩ := s.checkCoalesce_frame
  exact .of_frame h rfl

theorem State.syncJournal_keepsTables (s : State) : s.KeepsTables s.syncJournal := by
  obtain ⟨w, h⟩ := s.syncJournal_frame
  exact .of_frame h rfl

theorem State.handRecord_keepsTables (s : State) (r : JournalRecord) : s.KeepsTables (s.handRecord r) := by
  obtain ⟨q, w, j, c, h⟩ := s.handRecord_frame r
  exact .of_frame h rfl

theorem State.stagingDeparts_keepsTables (s : State) : s.KeepsTables s.stagingDeparts := by
  obtain ⟨q, w, j, c, h⟩ := s.stagingDeparts_frame
  exact .of_frame h rfl

theorem State.moveMark_keepsTables (s : State) (x : Count32) : s.KeepsTables (s.moveMark x) := by
  obtain ⟨j, w, h⟩ := s.moveMark_frame x
  exact .of_frame h rfl

/-! ## The Pacer, the windows and the hand-offs -/

theorem State.review_keepsTables (s : State) : s.KeepsTables s.review := by
  obtain ⟨p, h⟩ := s.review_frame
  exact .of_frame h rfl

theorem State.askReview_keepsTables (s : State) : s.KeepsTables s.askReview := by
  obtain ⟨p, h⟩ := s.askReview_frame
  exact .of_frame h rfl

theorem State.periodicReview_keepsTables (s : State) (t : PartTime) : s.KeepsTables (s.periodicReview t) := by
  obtain ⟨p, h⟩ := s.periodicReview_frame t
  exact .of_frame h rfl

theorem State.accrueIfAccruing_keepsTables (s : State) : s.KeepsTables s.accrueIfAccruing := .when fun _ => .of_same rfl

theorem State.endVisit_keepsTables (s : State) : s.KeepsTables s.endVisit := by
  obtain ⟨p, q, w, j, c, h⟩ := s.endVisit_frame
  exact .of_frame h rfl

theorem State.markLate_keepsTables (s : State) : s.KeepsTables s.markLate :=
  .after (State.handRecord_keepsTables _ _) (.of_same rfl)

theorem State.armWindow_keepsTables (s : State) (record : Nat) (l : Line) (now : PartTime) :
    s.KeepsTables (s.armWindow record l now) := by
  obtain ⟨v, q, w, h⟩ := s.armWindow_frame record l now
  exact .of_frame h rfl

theorem State.turnWindow_keepsTables (s : State) (record : Nat) (x : WindowState) :
    s.KeepsTables (s.turnWindow record x) :=
  .after (State.askReview_keepsTables _) (.after (State.requestRecord_keepsTables _ _) (.of_same rfl))

theorem State.slotHandOff_keepsTables (s : State) (slot : Nat) (l : Line) : s.KeepsTables (s.slotHandOff slot l) := by
  obtain ⟨m, c, o, h⟩ := s.slotHandOff_frame slot l
  exact .of_frame h rfl

theorem State.windowHandOff_keepsTables (s : State) (record : Nat) (l : Line) :
    s.KeepsTables (s.windowHandOff record l) := by
  obtain ⟨v, q, w, p, h⟩ := s.windowHandOff_frame record l
  exact .of_frame h rfl

theorem State.settle_keepsTables (s : State) : s.KeepsTables s.settle := by
  obtain ⟨f, m, c, o, v, q, w, p, j, h⟩ := s.settle_frame
  exact .of_frame h rfl

/-! ## The order of accepted accesses -/

theorem State.accept_keepsTables (s : State) (a : ServerAccess) : s.KeepsTables (s.accept a) := by
  obtain ⟨p, x, r, y, q, w, j, c, h⟩ := s.accept_frame a
  exact .of_frame h rfl

theorem State.freePort_keepsTables (s : State) (port : Nat) : s.KeepsTables (s.freePort port) := by
  obtain ⟨p, x, r, y, q, w, j, c, h⟩ := s.freePort_frame port
  exact .of_frame h rfl

theorem State.requestUnlessStale_keepsTables (s : State) (stale : Bool) (host : Nat) (r : DecodeResult) :
    s.KeepsTables (s.requestUnlessStale stale host r) := by
  obtain ⟨b, c, h⟩ := s.requestUnlessStale_frame stale host r
  exact .of_frame h rfl

theorem State.handOver_keepsTables (s : State) (host : Nat) (l : Line) : s.KeepsTables (s.handOver host l) :=
  .when fun _ => .of_same rfl

/-- A write and its acknowledgement. -/
theorem State.hostWrite_reply_keepsTables (s : State) (host : Nat) (c : Content) (r : Reply) :
    s.KeepsTables ((s.hostWrite host c).reply r) := .then_same (s.hostWrite_keepsTables host c) rfl

end Sys2Proof.Machine
end

section
/-! PROOFS. The Line Fault Table, continued: its bounds and distinct keys through scored events, markings, retirements
and completions. -/

namespace Sys2Proof.Machine

/-! ## The bounds and keys of a list of entries (R61) -/

/-- What TableSound says, of a list of entries. -/
def TableBounds (l : List FaultEntry) : Prop :=
  l.length ≤ tableCapacity ∧ (l.map fun e => (e.rank, e.row)).Nodup ∧ ∀ e ∈ l, e.score ≤ scoreMax ∧ e.events ≤ eventsMax

theorem State.tableSound_iff (s : State) : s.TableSound ↔ TableBounds s.table := Iff.rfl

theorem TableBounds.filter {l : List FaultEntry} (h : TableBounds l) (p : FaultEntry → Bool) :
    TableBounds (l.filter p) := by
  obtain ⟨hlen, hkeys, hmax⟩ := h
  exact ⟨le_trans (List.length_filter_le _ _) hlen, hkeys.sublist (List.filter_sublist.map _),
    fun e he => hmax e (List.mem_of_mem_filter he)⟩

/-- A change of each entry that keeps its key and its bounds. -/
theorem TableBounds.map {l : List FaultEntry} (h : TableBounds l) {f : FaultEntry → FaultEntry}
    (hkey : ∀ e, (f e).rank = e.rank ∧ (f e).row = e.row)
    (hf : ∀ e, e.score ≤ scoreMax → e.events ≤ eventsMax → (f e).score ≤ scoreMax ∧ (f e).events ≤ eventsMax) :
    TableBounds (l.map f) := by
  obtain ⟨hlen, hkeys, hmax⟩ := h
  have same : ((l.map f).map fun e => (e.rank, e.row)) = l.map fun e => (e.rank, e.row) := by
    rw [List.map_map]
    exact List.map_congr_left fun e _ => Prod.ext (hkey e).1 (hkey e).2
  refine ⟨by rw [List.length_map]; exact hlen, same ▸ hkeys, fun e he => ?_⟩
  obtain ⟨x, hx, rfl⟩ := List.mem_map.1 he
  exact hf x (hmax x hx).1 (hmax x hx).2

/-- A change of one key's entry. -/
theorem TableBounds.change {l : List FaultEntry} (h : TableBounds l) (rank row : Nat) {f : FaultEntry → FaultEntry}
    (hkey : ∀ e, (f e).rank = e.rank ∧ (f e).row = e.row)
    (hf : ∀ e, e.score ≤ scoreMax → e.events ≤ eventsMax → (f e).score ≤ scoreMax ∧ (f e).events ≤ eventsMax) :
    TableBounds (l.map fun e => if e.keyed rank row then f e else e) := by
  refine h.map (fun e => ?_) fun e hs he => ?_
  · split
    · exact hkey e
    · exact ⟨rfl, rfl⟩
  · split
    · exact hf e hs he
    · exact ⟨hs, he⟩

theorem insertEntry_perm (e : FaultEntry) (l : List FaultEntry) : (insertEntry e l).Perm (e :: l) := by
  induction l with
  | nil => exact .refl _
  | cons x l ih =>
    unfold insertEntry
    split
    · exact .refl _
    · exact (ih.cons x).trans (.swap e x l)

/-- An entry of a new key, with room for it. -/
theorem TableBounds.insert {l : List FaultEntry} (h : TableBounds l) {e : FaultEntry} (room : l.length < tableCapacity)
    (hnew : ∀ x ∈ l, x.keyed e.rank e.row = false) (hs : e.score ≤ scoreMax) (he : e.events ≤ eventsMax) :
    TableBounds (insertEntry e l) := by
  obtain ⟨-, hkeys, hmax⟩ := h
  have perm := insertEntry_perm e l
  refine ⟨by rw [perm.length_eq, List.length_cons]; exact room, ?_, fun x hx => ?_⟩
  · rw [(perm.map _).nodup_iff, List.map_cons, List.nodup_cons]
    refine ⟨fun hm => ?_, hkeys⟩
    obtain ⟨x, hx, hkey⟩ := List.mem_map.1 hm
    exact absurd (hnew x hx) (by simp [FaultEntry.keyed, Prod.mk.injEq .. ▸ hkey])
  · rcases mem_insertEntry.1 hx with rfl | hx
    · exact ⟨hs, he⟩
    · exact hmax x hx

/-! ## Removals and markings (R65, R71, R76) -/

theorem State.removeEntry_keepsTables (s : State) (rank row : Nat) : s.KeepsTables (s.removeEntry rank row) :=
  .of_retirements (s.removeEntry_same rank row) fun h => TableBounds.filter h _

theorem State.clearSuspects_keepsTables (s : State) (rank : Nat) : s.KeepsTables (s.clearSuspects rank) := .of_same rfl

theorem State.clearAllSuspects_keepsTables (s : State) : s.KeepsTables s.clearAllSuspects :=
  State.foldl_keepsTables State.clearSuspects_keepsTables _ s

theorem strippedTable_bounds {l : List FaultEntry} (h : TableBounds l) (rank device : Nat) :
    TableBounds (strippedTable l rank device) := by
  refine (h.filter _).map (fun e => ?_) fun e hs he => ?_
  · split <;> exact ⟨rfl, rfl⟩
  · split <;> exact ⟨hs, he⟩

theorem State.stripDevice_keepsTables (s : State) (rank device : Nat) : s.KeepsTables (s.stripDevice rank device) :=
  .of_retirements (s.stripDevice_same rank device) fun h => strippedTable_bounds h rank device

theorem State.markDevice_keepsTables (s : State) (rank device : Nat) (mode : MarkMode) (origin : Origin) :
    s.KeepsTables (s.markDevice rank device mode origin) :=
  .after (State.handRecord_keepsTables _ _) (.after (State.stripDevice_keepsTables _ _ _) (.of_same rfl))

theorem State.makeSuspect_keepsTables (s : State) (rank device : Nat) : s.KeepsTables (s.makeSuspect rank device) := by
  unfold State.makeSuspect
  split
  · exact .refl s
  · exact .after (State.handRecord_keepsTables _ _) (.of_same rfl)

theorem State.examineDevice_keepsTables (s : State) (rank device : Nat) (again : Bool) :
    s.KeepsTables (s.examineDevice rank device again) := by
  unfold State.examineDevice
  split
  · exact .refl s
  · split
    · exact .refl s
    · split
      · exact .refl s
      · exact .refl s
      · exact s.makeSuspect_keepsTables rank device
      · split
        · exact s.markDevice_keepsTables rank device _ _
        · exact s.makeSuspect_keepsTables rank device

theorem State.examineDevices_keepsTables (s : State) (rank : Nat) (which : Nat → Bool) (again : Bool) :
    s.KeepsTables (s.examineDevices rank which again) :=
  State.foldl_keepsTables (fun u d => u.examineDevice_keepsTables rank d again) _ s

theorem State.examineAll_keepsTables (s : State) : s.KeepsTables s.examineAll :=
  .after (State.foldl_keepsTables (fun u r => u.examineDevices_keepsTables r _ _) _ _) s.clearAllSuspects_keepsTables

/-! ## Scored events (R63 to R65, R68, R69) -/

theorem State.setRetire_tableSound {s : State} (h : s.TableSound) (rank row : Nat) (x : RetireState) :
    (s.setRetire rank row x).TableSound :=
  TableBounds.change h rank row (fun _ => ⟨rfl, rfl⟩) fun _ hs he => ⟨hs, he⟩

/-- The admission of a retirement leaves the fault table. -/
theorem State.admitRetirement_tableSound {s : State} (h : s.TableSound) (q : Retirement) :
    (s.admitRetirement q).TableSound := by
  obtain ⟨a, m, sp, r, e⟩ := s.admitRetirement_frame q
  rw [e]
  exact h

theorem State.retireInternally_tableSound {s : State} (h : s.TableSound) (rank row : Nat) :
    (s.retireInternally rank row).TableSound :=
  State.admitRetirement_tableSound (State.setRetire_tableSound h rank row .pending) _

theorem State.examineRetire_tableSound {s : State} (h : s.TableSound) (rank row : Nat) :
    (s.examineRetire rank row).TableSound := by
  unfold State.examineRetire
  split
  · exact h
  · split
    · exact h
    · split
      · exact State.retireInternally_tableSound h rank row
      · exact h
    · split
      · exact h
      · split
        · exact State.retireInternally_tableSound h rank row
        · exact (State.handRecord_keepsTables _ _).table (State.setRetire_tableSound h rank row .advised)

theorem State.afterEvent_tableSound {s : State} (h : s.TableSound) (rank row : Nat) (risen : List Nat) :
    (s.afterEvent rank row risen).TableSound :=
  (State.examineDevices_keepsTables _ _ _ _).table (State.examineRetire_tableSound h rank row)

theorem State.createEntry_tableSound {s : State} (h : s.TableSound) (room : s.table.length < tableCapacity)
    {rank row weight : Nat} (hnew : ∀ x ∈ s.table, x.keyed rank row = false) (hw : weight ≤ scoreMax)
    (devices : List Nat) (t : PartTime) : (s.createEntry rank row weight devices t).TableSound :=
  State.afterEvent_tableSound (s := { s with table := insertEntry (s.newEntry rank row weight devices t) s.table })
    (TableBounds.insert h room hnew hw (by show 1 ≤ 65535; decide)) rank row devices

theorem State.findEntry_none {s : State} {rank row : Nat} (h : s.findEntry rank row = none) :
    ∀ x ∈ s.table, x.keyed rank row = false := fun x hx => by
  simpa using List.find?_eq_none.1 h x hx

/-- The victim so far, once one more entry is compared with it (R65). -/
def pickVictim (best : Option FaultEntry) (e : FaultEntry) : Option FaultEntry :=
  if e.retire = .none then
    match best with
    | none => some e
    | some b => if e.weaker b then some e else some b
  else best

theorem victimOf_eq (l : List FaultEntry) : victimOf l = l.foldl pickVictim none := rfl

theorem pickVictim_mem {best : Option FaultEntry} {e v : FaultEntry} (h : pickVictim best e = some v) :
    best = some v ∨ (e = v ∧ v.retire = .none) := by
  unfold pickVictim at h
  split at h
  · next he =>
    split at h
    · exact .inr ⟨Option.some.inj h, Option.some.inj h ▸ he⟩
    · split at h
      · exact .inr ⟨Option.some.inj h, Option.some.inj h ▸ he⟩
      · exact .inl h
  · exact .inl h

theorem foldl_pickVictim_mem {l : List FaultEntry} {best : Option FaultEntry} {v : FaultEntry}
    (h : l.foldl pickVictim best = some v) : best = some v ∨ (v ∈ l ∧ v.retire = .none) := by
  induction l generalizing best with
  | nil => exact .inl h
  | cons e l ih =>
    rcases ih h with h | ⟨hmem, hnone⟩
    · refine (pickVictim_mem h).imp id fun ⟨he, hnone⟩ => ⟨?_, hnone⟩
      rw [he]
      exact List.mem_cons_self
    · exact .inr ⟨List.mem_cons_of_mem _ hmem, hnone⟩

/-- The victim is one of the table's NONE entries. -/
theorem victimOf_mem {l : List FaultEntry} {v : FaultEntry} (h : victimOf l = some v) : v ∈ l ∧ v.retire = .none :=
  (foldl_pickVictim_mem h).resolve_left (nomatch ·)

/-- The removal of an entry of the table makes room. -/
theorem State.removeEntry_room {s : State} (h : s.TableSound) {v : FaultEntry} (hv : v ∈ s.table) :
    (s.removeEntry v.rank v.row).table.length < tableCapacity := by
  have hlen := h.1
  have : (s.table.filter fun e => !e.keyed v.rank v.row).length < s.table.length :=
    List.length_filter_lt_length_iff_exists.2 ⟨v, hv, by simp [FaultEntry.keyed]⟩
  exact lt_of_lt_of_le this hlen

/-- An entry raised by an event saturates at the bounds (R61, R63). -/
theorem State.raiseEntry_tableSound {s : State} (h : s.TableSound) (rank row weight : Nat) (devices : List Nat)
    (t : PartTime) : (s.changeEntry rank row fun x => x.taken weight devices t).TableSound :=
  TableBounds.change h rank row (f := fun x => x.taken weight devices t) (fun _ => ⟨rfl, rfl⟩)
    fun _ _ _ => ⟨min_le_left _ _, min_le_left _ _⟩

theorem State.scoredEvent_tableSound {s : State} (h : s.TableSound) {weight : Nat} (hw : weight ≤ scoreMax)
    (rank row : Nat) (named : List Nat) (t : PartTime) : (s.scoredEvent rank row weight named t).TableSound := by
  unfold State.scoredEvent
  simp only
  split
  · exact State.afterEvent_tableSound (State.raiseEntry_tableSound h rank row weight _ t) rank row _
  · next hnone =>
    have hnew := State.findEntry_none hnone
    split
    · next room => exact State.createEntry_tableSound h room hnew hw _ t
    · split
      · exact h
      · next v hv =>
        split
        · exact State.createEntry_tableSound ((s.removeEntry_keepsTables v.rank v.row).table h)
            (State.removeEntry_room h (victimOf_mem hv).1) (fun x hx => hnew x (List.mem_of_mem_filter hx)) hw _ t
        · exact h

theorem LineClass.weight_le (c : LineClass) : c.weight ≤ scoreMax := by cases c <;> decide

theorem rowOf_lt (host : Nat) : rowOf host < 262144 := by
  unfold rowOf
  have : host % Config.hostLinesPerRank < 33554432 := Nat.mod_lt _ (by decide)
  unfold Config.columns
  omega

theorem State.scoreDecode_keepsTables (s : State) (d : Decode) (t : PartTime) : s.KeepsTables (s.scoreDecode d t) := by
  unfold State.scoreDecode
  split
  · exact .refl s
  · exact ⟨fun h => State.scoredEvent_tableSound h (LineClass.weight_le _) _ _ _ t,
      fun h hq => State.scoredEvent_sound h hq _ _ _ _ t (rowOf_lt _)⟩

theorem State.report_keepsTables (s : State) (d : Decode) (src : Source) (t : PartTime) :
    s.KeepsTables (s.report d src t) := by
  have recorded : ∀ k, s.KeepsTables ((s.scoreDecode d t).handRecord (d.record k src t)) := fun k =>
    .after (State.handRecord_keepsTables _ _) (s.scoreDecode_keepsTables d t)
  unfold State.report
  split
  · exact .refl s
  · exact .refl s
  · exact .of_same rfl
  · exact .then_same (recorded .corrected) rfl
  · exact .then_same (recorded .deepCorrected) rfl
  · refine .after (State.setCauses_keepsTables _ _) ?_
    cases d.host with
    | none => exact .then_same (recorded .uncorrectable) rfl
    | some host => exact .then_same (recorded .uncorrectable) rfl

theorem State.reportLoss_keepsTables (s : State) (loss : Option MergeLoss) : s.KeepsTables (s.reportLoss loss) := by
  unfold State.reportLoss
  split
  · exact .refl s
  · split
    · exact s.handRecord_keepsTables _
    · exact s.report_keepsTables _ _ _

/-! ## The decay tick (R67) -/

theorem decayedTable_bounds {l : List FaultEntry} (h : TableBounds l) (threshold : Nat) :
    TableBounds (decayedTable threshold l) :=
  (h.map (f := FaultEntry.decayed threshold) (fun _ => ⟨rfl, rfl⟩)
    fun _ hs he => ⟨le_trans (Nat.div_le_self _ _) hs, he⟩).filter _

/-- A tick makes no entry PENDING and takes no PENDING entry's state. -/
theorem FaultEntry.decayed_pending (threshold : Nat) (e : FaultEntry) :
    (e.decayed threshold).retire = .pending ↔ e.retire = .pending := by
  unfold FaultEntry.decayed
  cases h : e.retire <;> simp only [true_and, reduceCtorEq, false_and, if_false]
  split <;> simp

theorem State.decay_keepsTables (s : State) (threshold : Nat) (next : PartTime) :
    s.KeepsTables { s with table := decayedTable threshold s.table, decayTick := next } where
  table h := decayedTable_bounds h threshold
  retirements h hq := State.withTable_sound h hq _ fun e he => by
    obtain ⟨x, hx, rfl⟩ := List.mem_map.1 (List.mem_of_mem_filter he)
    obtain ⟨-, -, -, -, pending⟩ := hq
    rw [FaultEntry.decayed_pending]
    exact pending x hx

/-! ## Copies and their completion (R133 to R135, R139) -/

theorem State.startMigration_table (s : State) : s.startMigration.table = s.table := by
  obtain ⟨q, m, sp, r, h⟩ := s.startMigration_frame
  rw [h]

theorem State.discardEarlier_table (s : State) (e : RemapEntry) : (s.discardEarlier e).table = s.table := by
  unfold State.discardEarlier
  split <;> rfl

theorem State.finishMigrationSlot_keepsTables (s : State) (m : Migration) (e : RemapEntry) :
    s.KeepsTables (s.finishMigrationSlot m e) := by
  unfold State.finishMigrationSlot
  split
  · exact s.requestDone_keepsTables _ _
  · exact .refl s

/-- A completed migration removes its row's fault entry and leaves the others. -/
theorem State.completeMigration_tableSound {s : State} (h : s.TableSound) (m : Migration) (e : RemapEntry) :
    (s.completeMigration m e).TableSound := by
  have discarded : (State.discardEarlier (s.changeRemap e.rank e.row fun x =>
      { x with state := .active, cursor := 128, earlier := none }) e).TableSound := by
    rw [State.tableSound_iff, State.discardEarlier_table]
    exact h
  rw [State.tableSound_iff, State.completeMigration, State.startMigration_table]
  exact (State.finishMigrationSlot_keepsTables _ m e).table ((State.handRecord_keepsTables _ _).table
    ((State.removeEntry_keepsTables _ e.rank e.row).table discarded))

/-- The end of a copied column, its completion of the migration included. -/
theorem State.endCopy_keepsTables {s : State} {e : RemapEntry} (he : s.migratingEntry = some e) :
    s.KeepsTables (s.endCopy e) where
  table h := by
    have released : (State.checkQuiesce { s with migrationOp := none }).TableSound :=
      (State.checkQuiesce_keepsTables { s with migrationOp := none }).table h
    simp only [State.endCopy]
    split
    · exact released
    · split
      · exact State.completeMigration_tableSound (s := State.changeRemap _ _ _ _) released _ _
      · exact released
  retirements h hq := State.endCopy_sound h hq he

theorem Migration.counted_row (m : Migration) (c : LineClass) :
    ((m.counted c).rank, (m.counted c).row) = (m.rank, m.row) := by
  cases c <;> rfl

theorem State.endCopyDecode_keepsTables (s : State) (d : Decode) : s.KeepsTables (s.endCopyDecode d) := by
  refine .after (t := s.report d .migration s.time) (.of_rows rfl rfl rfl rfl ?_)
    (s.report_keepsTables d .migration s.time)
  show Option.map _ (Option.map _ _) = _
  rw [Option.map_map]
  exact congrArg (Option.map · _) (funext fun m : Migration => m.counted_row d.classify.cls)

theorem State.copyWrite_keepsTables (s : State) (e : RemapEntry) (op : OpenLine) (c : Content) :
    s.KeepsTables (s.copyWrite e op c) := by
  unfold State.copyWrite
  split
  · exact .then_same (s.writeLine_keepsTables _ _ _ _) rfl
  · refine .of_rows rfl rfl rfl rfl ?_
    show Option.map _ (Option.map _ _) = _
    rw [Option.map_map]
    rfl

/-- The copy write leaves the remap entry of the row that migrates. -/
theorem State.copyWrite_migratingEntry (s : State) (e : RemapEntry) (op : OpenLine) (c : Content) :
    (s.copyWrite e op c).migratingEntry = s.migratingEntry := by
  unfold State.copyWrite
  split
  · obtain ⟨m, w, p, h⟩ := s.writeLine_frame e.rank (spareRow e.spare) e.cursor c
    rw [h]
    rfl
  · unfold State.migratingEntry
    cases s.migration <;> rfl

/-! ## RETIRE ROW (R70, R71) -/

theorem State.retireCheck_none {s : State} {l : Line} {already : Bool} (h : s.retireCheck l already = none) :
    orderRank l < s.ranks ∧ orderRow l < 262144 ∧ (slotMode l = 0 ∨ slotMode l = 1) ∧ already = false ∧
      s.waitingCount (orderRank l) < s.freeSpares (orderRank l) := by
  unfold State.retireCheck at h
  split at h
  · cases h
  · split at h
    · cases h
    · split at h
      · cases h
      · split at h
        · cases h
        · split at h
          · cases h
          · next hrank hrow hmode halready hspare =>
            refine ⟨by omega, Nat.lt_of_not_le hrow, by omega, by simpa using halready, by omega⟩

theorem State.takeMigrate_keepsTables (s : State) (slot : Nat) (l : Line) : s.KeepsTables (s.takeMigrate slot l) := by
  unfold State.takeMigrate
  split
  · exact s.requestDone_keepsTables _ _
  · next hcheck =>
    obtain ⟨-, hrow, -, hfree, hwait⟩ := State.retireCheck_none hcheck
    obtain ⟨hmigrating, hqueued⟩ := Bool.or_eq_false_iff.1 hfree
    exact .after (State.requestItem_keepsTables _ _)
      ⟨fun h => State.admitRetirement_tableSound (State.setRetire_tableSound h _ _ .pending) _,
        fun h hq => State.admitRetirement_sound h hq
          { rank := orderRank l, row := orderRow l, origin := .order, slot := some slot } hrow hwait hqueued
          hmigrating⟩

theorem State.restoreRow_tableSound {s : State} (h : s.TableSound) (rank row i : Nat) :
    (s.restoreRow rank row i).TableSound :=
  (State.handRecord_keepsTables _ _).table (TableBounds.filter h _)

theorem State.takeRestoreRow_keepsTables (s : State) (slot : Nat) (l : Line) :
    s.KeepsTables (s.takeRestoreRow slot l) := by
  unfold State.takeRestoreRow
  split
  · exact s.requestDone_keepsTables _ _
  · next hcheck =>
    obtain ⟨-, hrow, -, hfree, hwait⟩ := State.retireCheck_none hcheck
    obtain ⟨hremap, -⟩ := Bool.or_eq_false_iff.1 hfree
    split
    · exact s.requestDone_keepsTables _ _
    · next i hi =>
      exact .after (State.requestDone_keepsTables _ _ _)
        ⟨fun h => State.restoreRow_tableSound h _ _ i,
          fun h hq => State.restoreRow_sound h hq hi hrow (by simpa using hremap) hwait⟩

end Sys2Proof.Machine
end

section
/-! PROOFS. The fault table, the remap entries and the migration queue, continued: what the commands are made of. -/

namespace Sys2Proof.Machine

/-! ## The frame of a command -/

/-- Every next state that a command's effect gives has sound tables when the state before had. -/
def EffectKeepsTables (e : State → Host.Outcome State Fault Refusal) : Prop :=
  ∀ s t : State, e s = .next t → s.KeepsTables t

/-- A command whose own effect keeps the tables, from whatever state the pending hand-off leaves. -/
theorem act_keepsTables {f : State → State} (hf : ∀ u : State, u.KeepsTables (f u)) : EffectKeepsTables (act f) :=
  fun s t h => by
    cases h
    exact .then_same (.after (hf _) s.settle_keepsTables) rfl

theorem onHandOff_keepsTables {p : HandOff → Bool} {f : State → HandOff → State}
    (hf : ∀ (u : State) (h : HandOff), u.KeepsTables (f u h)) : EffectKeepsTables (onHandOff p f) := fun s t h => by
  unfold onHandOff at h
  split at h
  · split at h
    · cases h
      exact .then_same (hf _ _) rfl
    · cases h
      exact .refl s
  · cases h
    exact .refl s

/-- An order whose own effect keeps the tables. -/
theorem onOrder_keepsTables {p : Line → Bool} {f : State → Nat → Line → State}
    (hf : ∀ (u : State) (slot : Nat) (l : Line), u.KeepsTables (f u slot l)) : EffectKeepsTables (onOrder p f) := by
  refine act_keepsTables fun u => ?_
  split
  · exact .after (hf _ _ _) (.of_same rfl)
  · exact .refl u

/-! ## Resets and start-up -/

/-- After a power-on reset the tables are empty, whatever they were. -/
theorem State.powerOn_keepsTables (s : State) (ranks base : Nat) (time : PartTime) (pending : List Instr) :
    s.KeepsTables { State.powerOn ranks base with time := time, pending := pending } where
  table _ := reset_tableSound
  retirements _ _ := (State.SameRetirements.of_eq (s := State.reset) rfl rfl rfl rfl rfl).sound reset_remapsSound
    reset_retirementsSound

theorem State.initLine_keepsTables (s : State) (rank : Nat) : s.KeepsTables (s.initLine rank) := by
  rw [s.initLine_eq]
  exact .of_same rfl

theorem State.beginRestartStep_keepsTables (s : State) (step : RestartStep) :
    s.KeepsTables (s.beginRestartStep step) := by
  cases step <;> exact .of_same rfl

/-- A warm reset takes the slots from the retirements, and nothing else of the tables (R143). -/
theorem State.warmed_keepsTables (s : State) : s.KeepsTables s.warmed := by
  refine .of_rows rfl rfl rfl ?_ ?_
  · show List.map _ (List.map _ _) = _
    rw [List.map_map]
    rfl
  · show Option.map _ (Option.map _ _) = _
    rw [Option.map_map]
    rfl

theorem State.scanSlot_keepsTables (s : State) (slot : Nat) (line : Option Line) :
    s.KeepsTables (s.scanSlot slot line) := by
  unfold State.scanSlot
  split
  · exact .of_same rfl
  · split
    · exact .of_same rfl
    · split
      · exact .after (State.requestDone_keepsTables _ _ _) (.of_same rfl)
      · split <;> exact .of_same rfl

theorem State.rereadWindow_keepsTables (s : State) (record : Nat) (line : Option Line) (now : PartTime) :
    s.KeepsTables (s.rereadWindow record line now) := by
  unfold State.rereadWindow
  split
  · exact .of_same rfl
  · split
    · exact .of_same rfl
    · split
      · exact s.armWindow_keepsTables _ _ _
      · split
        · exact .of_same rfl
        · exact .after (State.requestRecord_keepsTables _ _) (.of_same rfl)

theorem State.rereadMark_keepsTables (s : State) (line : Option Line) : s.KeepsTables (s.rereadMark line) := by
  unfold State.rereadMark
  refine .after (State.syncJournal_keepsTables _) ?_
  cases line <;> exact .of_same rfl

theorem State.admitIdentity_keepsTables (s : State) : s.KeepsTables s.admitIdentity := by
  have entered : s.KeepsTables (State.settleCursor
      { (s.stopAwaiting .identity).enterIdentity with phase := .running, retained := [], writeBacks := [] }) :=
    .of_same rfl
  refine .when fun _ => .after (State.askStatus_keepsTables _) (.after (State.review_keepsTables _) ?_)
  split
  · exact .after (State.markLate_keepsTables _) entered
  · exact entered

/-! ## The demand path -/

theorem State.serveAbove_keepsTables (s : State) (kind : AccessKind) (address : Nat) :
    s.KeepsTables (s.serveAbove kind address) := by
  cases kind <;> exact .of_same rfl

theorem State.arrive_keepsTables (s : State) (kind : AccessKind) (address : Nat) (a : ServerAccess) :
    s.KeepsTables (s.arrive kind address a) := by
  unfold State.arrive
  split
  · exact .refl s
  · split
    · exact s.serveAbove_keepsTables kind address
    · exact s.accept_keepsTables a

theorem State.endServerRead_keepsTables (s : State) (x : ServerRead) : s.KeepsTables (s.endServerRead x) :=
  .after (State.report_keepsTables _ _ _ _) (.after (State.requestUnlessStale_keepsTables _ _ _ _) (.of_same rfl))

theorem State.writeBackNow_keepsTables (s : State) (e : WriteBack) : s.KeepsTables (s.writeBackNow e) :=
  have dropped : s.KeepsTables (s.dropWriteBack e.host) := .of_same rfl
  .then_same (.after (State.writeLine_keepsTables _ _ _ _ _) dropped) rfl

theorem State.endMerge_keepsTables (s : State) (port host : Nat) (data : Line) (mask : ByteMask) (d : Decode)
    (orphan : Bool) : s.KeepsTables (s.endMerge port host data mask d orphan) := by
  unfold State.endMerge
  split
  · exact .then_same (s.report_keepsTables d .merge s.time) rfl
  · exact .of_same rfl

theorem State.writeHalf_keepsTables (s : State) (port host : Nat) (c : Content) (loss : Option MergeLoss) :
    s.KeepsTables (s.writeHalf port host c loss) := by
  have reported := State.KeepsTables.after (State.reportLoss_keepsTables _ loss)
    (s.hostWrite_reply_keepsTables host c (.ack host))
  unfold State.writeHalf
  refine .after (State.freePort_keepsTables _ port) ?_
  split
  · exact reported
  · exact .after (State.handOver_keepsTables _ _ _) reported

theorem State.writeOrphanHalf_keepsTables (s : State) (port host : Nat) (c : Content) (loss : Option MergeLoss) :
    s.KeepsTables (s.writeOrphanHalf port host c loss) :=
  .after (State.freePort_keepsTables _ _) (.after (State.reportLoss_keepsTables _ _) (s.hostWrite_keepsTables host c))

theorem State.writeFromEntry_keepsTables (s : State) (port host : Nat) (data : Line) (mask : ByteMask) :
    s.KeepsTables (s.writeFromEntry port host data mask) := by
  unfold State.writeFromEntry
  split
  · exact .of_same rfl
  · split
    · exact .after (State.freePort_keepsTables _ _)
        (.after (State.handOver_keepsTables _ _ _) (s.hostWrite_reply_keepsTables _ _ _))
    · exact .after (State.freePort_keepsTables _ _)
        (.then_same (.after (State.handRecord_keepsTables _ _) (s.hostWrite_keepsTables host poisonContent)) rfl)

/-! ## The hand-offs and the control window -/

theorem State.actOnSlot_keepsTables (s : State) (h : HandOff) : s.KeepsTables (s.actOnSlot h) := by
  unfold State.actOnSlot
  split
  · exact .after (State.slotHandOff_keepsTables _ _ _) (.of_same rfl)
  · exact .refl s

theorem State.actOnRecord_keepsTables (s : State) (h : HandOff) : s.KeepsTables (s.actOnRecord h) := by
  unfold State.actOnRecord
  split
  · exact .after (State.windowHandOff_keepsTables _ _ _) (.of_same rfl)
  · exact .refl s

theorem State.enterStatus_keepsTables (s : State) : s.KeepsTables s.enterStatus := by
  unfold State.enterStatus
  generalize s.statusPart1 = first
  generalize s.statusPart2 = second
  exact .of_same rfl

theorem State.admitStatus_keepsTables (s : State) : s.KeepsTables s.admitStatus :=
  .when fun _ => .after (State.enterStatus_keepsTables _) (.of_same rfl)

theorem State.admitExportLine_keepsTables (s : State) : s.KeepsTables s.admitExportLine := by
  refine .when fun _ => ?_
  split
  · exact .of_same rfl
  · split
    · exact .after (State.requestDone_keepsTables _ _ _) (.of_same rfl)
    · simp only
      split
      · exact .after (State.requestDone_keepsTables _ _ _) (.of_same rfl)
      · exact .of_same rfl

theorem State.admitOldest_keepsTables (s : State) : s.KeepsTables s.admitOldest := by
  unfold State.admitOldest
  split
  · exact .refl s
  · exact .when fun _ => .of_same rfl
  · exact .when fun _ => .after (State.enterDone_keepsTables _ _ _) (.of_same rfl)
  · exact s.stagingDeparts_keepsTables
  · exact s.admitExportLine_keepsTables
  · exact s.admitStatus_keepsTables
  · exact s.admitIdentity_keepsTables

theorem State.grantOwnRead_keepsTables (s : State) (o : OwnRead) (errors : List SliceError) :
    s.KeepsTables (s.grantOwnRead o errors) := by
  refine .after ?_ (s.applyErrorsHost_keepsTables (s.base + o.reader.offset) errors)
  unfold State.grantOwnRead State.holdTaken
  cases o.reader <;> exact .of_same rfl

theorem State.endOwnRead_keepsTables (s : State) (o : OwnRead) (d : Decode) (stale : Bool) :
    s.KeepsTables (s.endOwnRead o d stale) :=
  .after (State.report_keepsTables _ _ _ _) (.after (State.requestUnlessStale_keepsTables _ _ _ _) (.of_same rfl))

/-! ## Orders -/

theorem State.takeScrub_keepsTables (s : State) (slot : Nat) (l : Line) : s.KeepsTables (s.takeScrub slot l) := by
  unfold State.takeScrub
  split
  · exact s.requestDone_keepsTables _ _
  · exact .after (State.requestItem_keepsTables _ _) (.of_same rfl)

theorem State.takeProbe_keepsTables (s : State) (slot : Nat) (l : Line) : s.KeepsTables (s.takeProbe slot l) := by
  unfold State.takeProbe
  split
  · exact s.requestDone_keepsTables _ _
  · exact .after (State.requestItem_keepsTables _ _) (.of_same rfl)

theorem State.markByOrder_keepsTables (s : State) (slot : Nat) (l : Line) (mode : MarkMode) :
    s.KeepsTables (s.markByOrder slot l mode) :=
  .after (State.requestDone_keepsTables _ _ _) (s.markDevice_keepsTables _ _ _ _)

theorem State.takeMarkRebuild_keepsTables (s : State) (slot : Nat) (l : Line) :
    s.KeepsTables (s.takeMarkRebuild slot l) := by
  unfold State.takeMarkRebuild
  split
  · exact s.requestDone_keepsTables _ _
  · exact s.markByOrder_keepsTables slot l _

theorem State.takeMarkEraseOnly_keepsTables (s : State) (slot : Nat) (l : Line) :
    s.KeepsTables (s.takeMarkEraseOnly slot l) := by
  unfold State.takeMarkEraseOnly
  split
  · exact s.requestDone_keepsTables _ _
  · exact s.markByOrder_keepsTables slot l _

theorem State.takeMarkRestore_keepsTables (s : State) (slot : Nat) (l : Line) :
    s.KeepsTables (s.takeMarkRestore slot l) := by
  unfold State.takeMarkRestore
  split
  · exact s.requestDone_keepsTables _ _
  · exact .after (State.requestDone_keepsTables _ _ _) (.after (State.handRecord_keepsTables _ _)
      (.after (State.stripDevice_keepsTables _ _ _) (.of_same rfl)))

theorem State.takePolicy_keepsTables (s : State) (slot : Nat) (l : Line) : s.KeepsTables (s.takePolicy slot l) :=
  .after (State.requestDone_keepsTables _ _ _) (.after (State.checkCoalesce_keepsTables _)
    (.after (State.examineAll_keepsTables _) (.after (State.review_keepsTables _) (.of_same rfl))))

theorem State.takeQuiesce_keepsTables (s : State) (slot : Nat) (l : Line) : s.KeepsTables (s.takeQuiesce slot l) := by
  unfold State.takeQuiesce
  split
  · exact s.requestDone_keepsTables _ _
  · split
    · exact .after (State.requestDone_keepsTables _ _ _) (.of_same rfl)
    · exact .after (State.requestItem_keepsTables _ _) (.of_same rfl)

theorem State.takeResume_keepsTables (s : State) (slot : Nat) (l : Line) : s.KeepsTables (s.takeResume slot l) := by
  refine .after (State.requestDone_keepsTables _ _ _) ?_
  unfold State.abandonQuiesce
  split
  · exact .of_same rfl
  · exact .after (State.requestDone_keepsTables _ _ _) (.of_same rfl)

theorem State.await_keepsTables (s : State) (w : Waiter) : s.KeepsTables (s.await w) := .of_same rfl

theorem State.takeExport_keepsTables (s : State) (slot : Nat) (l : Line) : s.KeepsTables (s.takeExport slot l) :=
  .after (State.await_keepsTables _ _) (.after (State.requestItem_keepsTables _ _) (.of_same rfl))

/-! ## The background engines -/

theorem State.visitWrite_keepsTables (s : State) (op : OpenLine) (c : Content) : s.KeepsTables (s.visitWrite op c) :=
  .when fun _ => .then_same (s.writeLine_keepsTables _ _ _ _) rfl

theorem State.releasePatrol_keepsTables (s : State) : s.KeepsTables s.releasePatrol :=
  .after (State.endVisit_keepsTables _) (.after (State.checkQuiesce_keepsTables _) (.of_same rfl))

theorem State.endPatrolDecode_keepsTables (s : State) (d : Decode) : s.KeepsTables (s.endPatrolDecode d) := by
  have reported : s.KeepsTables (s.reportVisit d) := .then_same (s.report_keepsTables d _ _) rfl
  unfold State.endPatrolDecode
  split
  · exact .then_same reported rfl
  · exact .after (State.releasePatrol_keepsTables _) reported

theorem State.changeOrder_keepsTables (s : State) (slot : Nat) (f : TargetedOrder → TargetedOrder) :
    s.KeepsTables (s.changeOrder slot f) := .of_same rfl

theorem State.completeTargeted_keepsTables (s : State) (o : TargetedOrder) (fs : List FieldValue) :
    s.KeepsTables (s.completeTargeted o fs) := .after (State.requestDone_keepsTables _ _ _) (.of_same rfl)

theorem State.releaseScrub_keepsTables (s : State) (slot : Nat) : s.KeepsTables (s.releaseScrub slot) := by
  simp only [State.releaseScrub]
  have advanced : s.KeepsTables (State.changeOrder (State.checkQuiesce { s with targetedOp := none }) slot
      fun o => { o with cursor := o.cursor + 1 }) :=
    .after (State.changeOrder_keepsTables _ _ _) (.after (State.checkQuiesce_keepsTables _) (.of_same rfl))
  split
  · split
    · exact .after (State.completeTargeted_keepsTables _ _ _) advanced
    · exact advanced
  · exact advanced

theorem State.endScrubDecode_keepsTables (s : State) (o : TargetedOrder) (d : Decode) :
    s.KeepsTables (s.endScrubDecode o d) := by
  have reported : s.KeepsTables (s.reportScrub o d) := .then_same (s.report_keepsTables d _ _) rfl
  unfold State.endScrubDecode
  split
  · exact .then_same reported rfl
  · exact .after (State.releaseScrub_keepsTables _ _) reported

theorem State.grantTargetedRead_keepsTables (s : State) (o : TargetedOrder) (errors : List SliceError) :
    s.KeepsTables (s.grantTargetedRead o errors) := .then_same (s.applyErrorsHost_keepsTables _ errors) rfl

theorem State.countTargeted_keepsTables (s : State) (o : TargetedOrder) : s.KeepsTables (s.countTargeted o) := by
  rw [s.countTargeted_eq]
  exact .of_same rfl

theorem State.countDropped_keepsTables (s : State) (op : OpenLine) (slot : Nat) :
    s.KeepsTables (s.countDropped op slot) := by
  unfold State.countDropped
  split <;> exact .of_same rfl

theorem State.endProbe_keepsTables (s : State) (o : TargetedOrder) (d : Decode) : s.KeepsTables (s.endProbe o d) :=
  .after (State.completeTargeted_keepsTables _ _ _)
    (.after (State.checkQuiesce_keepsTables _) (.then_same (s.report_keepsTables d .probe s.time) rfl))

theorem State.setRankDevices_keepsTables (s : State) (rank : Nat) (d : RankDevices) :
    s.KeepsTables (s.setRankDevices rank d) := .of_same rfl

theorem State.endRebuildDecode_keepsTables (s : State) (d : Decode) : s.KeepsTables (s.endRebuildDecode d) :=
  .then_same (s.report_keepsTables d .rebuild s.time) rfl

theorem State.rebuildWrite_keepsTables (s : State) (op : OpenLine) (c : Content) :
    s.KeepsTables (s.rebuildWrite op c) := by
  unfold State.rebuildWrite
  split
  · exact s.writeLine_keepsTables _ _ _ _
  · exact .of_same rfl

theorem State.completeRebuild_keepsTables (s : State) (rank : Nat) : s.KeepsTables (s.completeRebuild rank) := by
  simp only [State.completeRebuild]
  split
  · exact .of_same rfl
  · exact .after (State.examineDevices_keepsTables _ _ _ _)
      (.after (State.handRecord_keepsTables _ _) (.of_same rfl))

theorem State.endRebuildLine_keepsTables (s : State) (op : OpenLine) : s.KeepsTables (s.endRebuildLine op) := by
  have advanced : ∀ d, s.KeepsTables ((State.checkQuiesce { s with rebuildOp := none }).setRankDevices op.rank d) :=
    fun d => .after (State.setRankDevices_keepsTables _ _ _) (.after (State.checkQuiesce_keepsTables _) (.of_same rfl))
  simp only [State.endRebuildLine]
  split
  · exact advanced _
  · exact .after (State.completeRebuild_keepsTables _ _) (advanced _)

end Sys2Proof.Machine
end

section
/-! PROOFS. O57: every command keeps the fault table, the remap entries and the retirements sound, and so does every
step. -/

namespace Sys2Proof.Machine

/-! ### Resets and restart -/

theorem execPowerOnReset_keepsTables (ranks : BitVec 2) (base : BitVec 13) :
    EffectKeepsTables (execPowerOnReset ranks base) := fun s t h => by
  cases h
  exact s.powerOn_keepsTables _ _ _ _

theorem execArrayInitLineWrite_keepsTables (rank : Nat) : EffectKeepsTables (execArrayInitLineWrite rank) :=
  act_keepsTables fun u => .when fun _ => u.initLine_keepsTables _

theorem State.openPort_keepsTables (s : State) : s.KeepsTables s.openPort := by
  have identified : s.KeepsTables (State.enterIdentity
      { s with writer := [], phase := .running, nextInterval := some (nextPaceBoundary s.time) }) := .of_same rfl
  exact .after (State.review_keepsTables _) (.then_same (.after (State.enterStatus_keepsTables _) identified) rfl)

theorem execArrayInitDone_keepsTables : EffectKeepsTables execArrayInitDone := act_keepsTables fun u => .when fun _ => by
  split
  · exact .of_same rfl
  · exact u.openPort_keepsTables

theorem execWarmReset_keepsTables : EffectKeepsTables execWarmReset := act_keepsTables fun u => by
  split
  · exact u.powerOn_keepsTables _ _ _ _
  · exact .refl u
  · exact .after (State.beginRestartStep_keepsTables _ _) u.warmed_keepsTables
  · exact .after (State.beginRestartStep_keepsTables _ _) u.warmed_keepsTables

theorem execRestartSlotScanRead_keepsTables : EffectKeepsTables execRestartSlotScanRead := act_keepsTables fun u => by
  split
  · exact .after (State.beginRestartStep_keepsTables _ _) (u.scanSlot_keepsTables _ _)
  · exact .refl u

theorem execRestartWindowReread_keepsTables : EffectKeepsTables execRestartWindowReread := act_keepsTables fun u => by
  split
  · exact .after (State.beginRestartStep_keepsTables _ _) (u.rereadWindow_keepsTables _ _ _)
  · exact .refl u

theorem execRestartMarkRead_keepsTables : EffectKeepsTables execRestartMarkRead := act_keepsTables fun u => by
  split
  · exact .after (State.beginRestartStep_keepsTables _ _) (u.rereadMark_keepsTables _)
  · exact .refl u

/-! ### The demand path -/

theorem execAccessAboveLTotal_keepsTables (kind : AccessKind) (address : Nat) :
    EffectKeepsTables (execAccessAboveLTotal kind address) :=
  act_keepsTables fun u => .when fun _ => u.serveAbove_keepsTables _ _

theorem execServerReadGrant_keepsTables (port : Nat) (errors : List SliceError) :
    EffectKeepsTables (execServerReadGrant port errors) := act_keepsTables fun u => by
  split
  · exact .when fun _ => .after (State.freePort_keepsTables _ _) (.then_same (u.applyErrorsHost_keepsTables _ errors) rfl)
  · exact .refl u

theorem execServerReadDecodeEnd_keepsTables (port : Nat) : EffectKeepsTables (execServerReadDecodeEnd port) :=
  act_keepsTables fun u => by
    split
    · exact .after (State.endServerRead_keepsTables _ _) (.of_same rfl)
    · exact .refl u

theorem execWriteBackGrant_keepsTables (port : Nat) : EffectKeepsTables (execWriteBackGrant port) :=
  act_keepsTables fun u => by
    split
    · exact .when fun _ => u.writeBackNow_keepsTables _
    · exact .refl u

theorem execFullLineWriteGrant_keepsTables (port : Nat) : EffectKeepsTables (execFullLineWriteGrant port) :=
  act_keepsTables fun u => by
    split
    · exact .when fun _ => .after (State.freePort_keepsTables _ _)
        (.after (State.handOver_keepsTables _ _ _) (u.hostWrite_reply_keepsTables _ _ _))
    · exact .refl u

theorem execMergeReadGrant_keepsTables (port : Nat) (errors : List SliceError) :
    EffectKeepsTables (execMergeReadGrant port errors) := act_keepsTables fun u => by
  split
  · exact .when fun _ => .then_same (u.applyErrorsHost_keepsTables _ errors) rfl
  · exact .refl u

theorem execMergeDecodeEnd_keepsTables (port : Nat) : EffectKeepsTables (execMergeDecodeEnd port) :=
  act_keepsTables fun u => by
    split
    · exact u.endMerge_keepsTables _ _ _ _ _ _
    · exact .refl u

theorem execMaskedWriteHalfGrant_keepsTables (port : Nat) : EffectKeepsTables (execMaskedWriteHalfGrant port) :=
  act_keepsTables fun u => by
    split
    · refine .when fun _ => ?_
      split
      · exact u.writeOrphanHalf_keepsTables _ _ _ _
      · exact u.writeHalf_keepsTables _ _ _ _
    · exact .refl u

theorem execMaskedWriteEntryGrant_keepsTables (port : Nat) : EffectKeepsTables (execMaskedWriteEntryGrant port) :=
  act_keepsTables fun u => by
    split
    · exact .when fun _ => u.writeFromEntry_keepsTables _ _ _ _
    · exact .refl u

/-! ### Hand-offs, the writer, the own reads and the takes -/

theorem execReadMarkWrite_keepsTables : EffectKeepsTables execReadMarkWrite :=
  onHandOff_keepsTables fun _ _ => .after (State.moveMark_keepsTables _ _) (.of_same rfl)

theorem execCauseAcknowledge_keepsTables : EffectKeepsTables execCauseAcknowledge :=
  onHandOff_keepsTables fun _ _ => .after (State.setCauses_keepsTables _ _) (.of_same rfl)

theorem execWindowStart_keepsTables (record : Nat) : EffectKeepsTables (execWindowStart record) :=
  act_keepsTables fun u => .when fun _ => u.turnWindow_keepsTables _ _

theorem execWindowEnd_keepsTables (record : Nat) : EffectKeepsTables (execWindowEnd record) :=
  act_keepsTables fun u => .when fun _ => u.turnWindow_keepsTables _ _

theorem execCwWriterGrant_keepsTables : EffectKeepsTables execCwWriterGrant := act_keepsTables fun u => by
  split
  · exact .refl u
  · exact .when fun _ => .after (State.hostWrite_keepsTables _ _ _) (.of_same rfl)

theorem execOwnReadGrant_keepsTables (errors : List SliceError) : EffectKeepsTables (execOwnReadGrant errors) :=
  act_keepsTables fun u => by
    split
    · exact .when fun _ => u.grantOwnRead_keepsTables _ errors
    · exact .refl u

theorem execOwnReadDecodeEnd_keepsTables : EffectKeepsTables execOwnReadDecodeEnd := act_keepsTables fun u => by
  split
  · split
    · exact u.endOwnRead_keepsTables _ _ _
    · exact .refl u
    · exact .refl u
  · exact .refl u

theorem execTakeStart_keepsTables : EffectKeepsTables execTakeStart := act_keepsTables fun u => by
  refine .after (t := u.settleCursor) ?_ (.of_same rfl)
  exact .when fun _ => .of_same rfl

theorem execTakeUnusableLine_keepsTables : EffectKeepsTables execTakeUnusableLine := act_keepsTables fun u => by
  split
  · exact .of_same rfl
  · exact .refl u

theorem execTakeNotPosted_keepsTables : EffectKeepsTables execTakeNotPosted := act_keepsTables fun u => by
  split
  · exact .when fun _ => .of_same rfl
  · exact .refl u

theorem execTakeUnknownKind_keepsTables : EffectKeepsTables execTakeUnknownKind := act_keepsTables fun u => by
  split
  · exact .when fun _ => .after (State.requestDone_keepsTables _ _ _) (.of_same rfl)
  · exact .refl u

theorem execTakeLackOfRoom_keepsTables : EffectKeepsTables execTakeLackOfRoom := act_keepsTables fun u => by
  split
  · exact .when fun _ => .of_same rfl
  · exact .refl u

/-! ### Decay, pacing and the background engines -/

theorem execDecayTick_keepsTables : EffectKeepsTables execDecayTick := act_keepsTables fun u => .when fun _ =>
  .after (State.clearAllSuspects_keepsTables _) (u.decay_keepsTables _ _)

theorem execPaceIntervalStart_keepsTables : EffectKeepsTables execPaceIntervalStart := act_keepsTables fun u => by
  split
  · next t _ =>
    have counted : u.KeepsTables (u.periodicReview t).startCounts := .then_same (u.periodicReview_keepsTables t) rfl
    exact .then_same (.after (State.accrueIfAccruing_keepsTables _) counted) rfl
  · exact .refl u

theorem execPeriodicPaceReview_keepsTables : EffectKeepsTables execPeriodicPaceReview := act_keepsTables fun u => by
  split
  · exact .when fun _ => .then_same u.askReview_keepsTables rfl
  · exact .refl u

theorem execPassLate_keepsTables : EffectKeepsTables execPassLate :=
  act_keepsTables fun u => .when fun _ => .after (State.review_keepsTables _) u.markLate_keepsTables

theorem execPatrolReadGrant_keepsTables (errors : List SliceError) : EffectKeepsTables (execPatrolReadGrant errors) :=
  act_keepsTables fun u => .when fun _ => .then_same (u.applyErrorsHost_keepsTables _ errors) rfl

theorem execPatrolDecodeEnd_keepsTables : EffectKeepsTables execPatrolDecodeEnd := act_keepsTables fun u => by
  split
  · exact u.endPatrolDecode_keepsTables _
  · exact .refl u

theorem execPatrolWriteGrant_keepsTables : EffectKeepsTables execPatrolWriteGrant := act_keepsTables fun u => by
  split
  · exact .when fun _ => .after (State.releasePatrol_keepsTables _) (u.visitWrite_keepsTables _ _)
  · exact .refl u

theorem execScrubVisitReadGrant_keepsTables (errors : List SliceError) :
    EffectKeepsTables (execScrubVisitReadGrant errors) := act_keepsTables fun u => by
  split
  · exact .after (State.countTargeted_keepsTables _ _) (u.grantTargetedRead_keepsTables _ _)
  · exact .refl u

theorem execScrubVisitDecodeEnd_keepsTables : EffectKeepsTables execScrubVisitDecodeEnd := act_keepsTables fun u => by
  split
  · exact u.endScrubDecode_keepsTables _ _
  · exact .refl u

theorem execScrubVisitWriteGrant_keepsTables : EffectKeepsTables execScrubVisitWriteGrant := act_keepsTables fun u => by
  split
  · exact .when fun _ => .after (State.releaseScrub_keepsTables _ _)
      (.after (State.countDropped_keepsTables _ _ _) (u.visitWrite_keepsTables _ _))
  · exact .refl u

theorem execProbeReadGrant_keepsTables (errors : List SliceError) : EffectKeepsTables (execProbeReadGrant errors) :=
  act_keepsTables fun u => by
    split
    · exact u.grantTargetedRead_keepsTables _ _
    · exact .refl u

theorem execProbeDecodeEnd_keepsTables : EffectKeepsTables execProbeDecodeEnd := act_keepsTables fun u => by
  split
  · exact u.endProbe_keepsTables _ _
  · exact .refl u

theorem execCopyReadGrant_keepsTables (errors : List SliceError) : EffectKeepsTables (execCopyReadGrant errors) :=
  act_keepsTables fun u => by
    split
    · exact .when fun _ => .then_same (u.applyErrors_keepsTables _ _ _ errors) rfl
    · exact .refl u

theorem execCopyDecodeEnd_keepsTables : EffectKeepsTables execCopyDecodeEnd := act_keepsTables fun u => by
  split
  · exact u.endCopyDecode_keepsTables _
  · exact .refl u

/-- The copy write leaves the entry that migrates, and the end of its column keeps it sound. -/
theorem execCopyWriteGrant_keepsTables : EffectKeepsTables execCopyWriteGrant := act_keepsTables fun u => by
  split
  · next he =>
    exact .when fun _ => .after (State.endCopy_keepsTables ((u.copyWrite_migratingEntry _ _ _).trans he))
      (u.copyWrite_keepsTables _ _ _)
  · exact .refl u

theorem execRebuildReadGrant_keepsTables (errors : List SliceError) : EffectKeepsTables (execRebuildReadGrant errors) :=
  act_keepsTables fun u => by
    split
    · exact .when fun _ => .then_same (u.applyErrors_keepsTables _ _ _ errors) rfl
    · exact .refl u

theorem execRebuildDecodeEnd_keepsTables : EffectKeepsTables execRebuildDecodeEnd := act_keepsTables fun u => by
  split
  · exact u.endRebuildDecode_keepsTables _
  · exact .refl u

theorem execRebuildWriteGrant_keepsTables : EffectKeepsTables execRebuildWriteGrant := act_keepsTables fun u => by
  split
  · exact .when fun _ => .after (State.endRebuildLine_keepsTables _ _) (u.rebuildWrite_keepsTables _ _)
  · exact .refl u

theorem execHoldoffExpiry_keepsTables : EffectKeepsTables execHoldoffExpiry :=
  act_keepsTables fun u => .when fun _ => u.raiseJournal_keepsTables

theorem execStatusTimerExpiry_keepsTables : EffectKeepsTables execStatusTimerExpiry :=
  act_keepsTables fun _ => .when fun _ => .after (State.askStatus_keepsTables _) (.of_same rfl)

/-! ### Every command and every step -/

theorem exec_keepsTables (c : Instr) : EffectKeepsTables (exec c) := by
  cases c with
  | powerOnReset ranks base => exact execPowerOnReset_keepsTables ranks base
  | arrayInitLineWrite rank => exact execArrayInitLineWrite_keepsTables rank
  | arrayInitDone => exact execArrayInitDone_keepsTables
  | warmReset => exact execWarmReset_keepsTables
  | restartSlotScanRead => exact execRestartSlotScanRead_keepsTables
  | restartWindowReread => exact execRestartWindowReread_keepsTables
  | restartMarkRead => exact execRestartMarkRead_keepsTables
  | restartEnd => exact act_keepsTables State.admitIdentity_keepsTables
  | accessAboveLTotal kind address => exact execAccessAboveLTotal_keepsTables kind address
  | accessNotReady => exact act_keepsTables .refl
  | serverReadPresent address => exact act_keepsTables fun u => u.arrive_keepsTables .read address (.read address)
  | serverReadGrant port errors => exact execServerReadGrant_keepsTables port errors
  | serverReadDecodeEnd port => exact execServerReadDecodeEnd_keepsTables port
  | writeBackGrant port => exact execWriteBackGrant_keepsTables port
  | fullLineWritePresent address data =>
    exact act_keepsTables fun u => u.arrive_keepsTables .fullLineWrite address (.fullLineWrite address data)
  | fullLineWriteGrant port => exact execFullLineWriteGrant_keepsTables port
  | maskedWritePresent address data mask =>
    exact act_keepsTables fun u => u.arrive_keepsTables .maskedWrite address (.maskedWrite address data mask)
  | mergeReadGrant port errors => exact execMergeReadGrant_keepsTables port errors
  | mergeDecodeEnd port => exact execMergeDecodeEnd_keepsTables port
  | maskedWriteHalfGrant port => exact execMaskedWriteHalfGrant_keepsTables port
  | maskedWriteEntryGrant port => exact execMaskedWriteEntryGrant_keepsTables port
  | slotPost => exact onHandOff_keepsTables State.actOnSlot_keepsTables
  | slotFree => exact onHandOff_keepsTables State.actOnSlot_keepsTables
  | windowArm => exact onHandOff_keepsTables State.actOnRecord_keepsTables
  | windowCancel => exact onHandOff_keepsTables State.actOnRecord_keepsTables
  | windowEmpty => exact onHandOff_keepsTables State.actOnRecord_keepsTables
  | windowStateNotActedOn => exact onHandOff_keepsTables State.actOnRecord_keepsTables
  | readMarkWrite => exact execReadMarkWrite_keepsTables
  | causeAcknowledge => exact execCauseAcknowledge_keepsTables
  | otherWindowWrite => exact onHandOff_keepsTables fun _ _ => .of_same rfl
  | windowStart record => exact execWindowStart_keepsTables record
  | windowEnd record => exact execWindowEnd_keepsTables record
  | cwWriterGrant => exact execCwWriterGrant_keepsTables
  | cwWriterAdmission => exact act_keepsTables State.admitOldest_keepsTables
  | ownReadGrant errors => exact execOwnReadGrant_keepsTables errors
  | ownReadDecodeEnd => exact execOwnReadDecodeEnd_keepsTables
  | takeStart => exact execTakeStart_keepsTables
  | takeUnusableLine => exact execTakeUnusableLine_keepsTables
  | takeNotPosted => exact execTakeNotPosted_keepsTables
  | takeUnknownKind => exact execTakeUnknownKind_keepsTables
  | takeLackOfRoom => exact execTakeLackOfRoom_keepsTables
  | scrubRange => exact onOrder_keepsTables State.takeScrub_keepsTables
  | probeLine => exact onOrder_keepsTables State.takeProbe_keepsTables
  | retireRowMigrate => exact onOrder_keepsTables State.takeMigrate_keepsTables
  | retireRowRestore => exact onOrder_keepsTables State.takeRestoreRow_keepsTables
  | markDeviceRebuild => exact onOrder_keepsTables State.takeMarkRebuild_keepsTables
  | markDeviceEraseOnly => exact onOrder_keepsTables State.takeMarkEraseOnly_keepsTables
  | markDeviceRestore => exact onOrder_keepsTables State.takeMarkRestore_keepsTables
  | setPolicy => exact onOrder_keepsTables State.takePolicy_keepsTables
  | quiesce => exact onOrder_keepsTables State.takeQuiesce_keepsTables
  | resume => exact onOrder_keepsTables State.takeResume_keepsTables
  | exportTables => exact onOrder_keepsTables State.takeExport_keepsTables
  | exportLineEntry => exact act_keepsTables State.admitExportLine_keepsTables
  | decayTick => exact execDecayTick_keepsTables
  | paceIntervalStart => exact execPaceIntervalStart_keepsTables
  | periodicPaceReview => exact execPeriodicPaceReview_keepsTables
  | passLate => exact execPassLate_keepsTables
  | patrolReadGrant errors => exact execPatrolReadGrant_keepsTables errors
  | patrolDecodeEnd => exact execPatrolDecodeEnd_keepsTables
  | patrolWriteGrant => exact execPatrolWriteGrant_keepsTables
  | scrubVisitReadGrant errors => exact execScrubVisitReadGrant_keepsTables errors
  | scrubVisitDecodeEnd => exact execScrubVisitDecodeEnd_keepsTables
  | scrubVisitWriteGrant => exact execScrubVisitWriteGrant_keepsTables
  | probeReadGrant errors => exact execProbeReadGrant_keepsTables errors
  | probeDecodeEnd => exact execProbeDecodeEnd_keepsTables
  | copyReadGrant errors => exact execCopyReadGrant_keepsTables errors
  | copyDecodeEnd => exact execCopyDecodeEnd_keepsTables
  | copyWriteGrant => exact execCopyWriteGrant_keepsTables
  | rebuildReadGrant errors => exact execRebuildReadGrant_keepsTables errors
  | rebuildDecodeEnd => exact execRebuildDecodeEnd_keepsTables
  | rebuildWriteGrant => exact execRebuildWriteGrant_keepsTables
  | stagingDeparture => exact act_keepsTables State.stagingDeparts_keepsTables
  | holdoffExpiry => exact execHoldoffExpiry_keepsTables
  | statusTimerExpiry => exact execStatusTimerExpiry_keepsTables
  | statusWrite => exact act_keepsTables State.admitStatus_keepsTables

theorem State.idle_keepsTables {s t : State} (h : s.idle = .next t) : s.KeepsTables t := by
  unfold State.idle at h
  split at h
  · exact act_keepsTables .refl s t h
  · split at h
    · exact exec_keepsTables _ s t h
    · cases h
      exact .of_same rfl

theorem step_keepsTables {s t : State} (h : step s = .next t) : s.KeepsTables t := by
  unfold step at h
  split at h
  · exact .after (exec_keepsTables _ _ t h) (.of_same rfl)
  · exact State.idle_keepsTables h

/-- Settles O57: every command, hand-off and due step is made of operations that each keep the tables. -/
theorem stepsKeepTableSound : Obligations.StepsKeepTableSound := fun _ _ h =>
  ⟨(step_keepsTables h).table, (step_keepsTables h).retirements⟩

end Sys2Proof.Machine
end

section
/-! PROOFS. O34, O36: RETIRE ROW at its take, by its checks in order. -/

namespace Sys2Proof.Machine

/-! ## The dispatch of an order (R165, step 5) -/

theorem State.dispatched_of_due {s : State} {slot : Nat} {l : Line} {kind : Nat} (h : s.DispatchDue slot l kind)
    (hkind : isOrderKind kind = true) {p : Line → Bool} (hp : p l = true) : s.dispatched p = some (slot, l) := by
  obtain ⟨-, -, ⟨o, ho, hreader, hstage⟩, hstate, rfl, hroom⟩ := h
  have read : s.takeRead = some (slot, some l) := by
    unfold State.takeRead
    rw [ho]
    simp only [hreader, hstage]
  unfold State.dispatched
  rw [read]
  exact if_pos ⟨hstate, hkind, hroom, hp⟩

/-- An order that is due is carried out on the state in which its take has ended. -/
theorem onOrder_of_due {s : State} {slot : Nat} {l : Line} {kind : Nat} (h : s.DispatchDue slot l kind)
    (hkind : isOrderKind kind = true) {p : Line → Bool} (hp : p l = true) (f : State → Nat → Line → State) :
    onOrder p f s = .next (f (s.endTake slot l) slot l).finish := by
  unfold onOrder
  rw [act_next h.1, State.dispatched_of_due h hkind hp]

theorem next_finish_congr {s t : State} (h : s = t) :
    (.next s.finish : Host.Outcome State Fault Refusal) = .next t.finish := by rw [h]

/-! ## The checks of R130 and R140 -/

section Checks

variable {s : State} {l : Line} {already : Bool}

theorem State.retireCheck_badRank (hrank : s.ranks ≤ orderRank l) : s.retireCheck l already = some .badRank :=
  if_pos hrank

variable (hrank : orderRank l < s.ranks)
include hrank

theorem State.retireCheck_badRow (hrow : 262144 ≤ orderRow l) : s.retireCheck l already = some .badRow := by
  unfold State.retireCheck
  rw [if_neg (Nat.not_le.2 hrank)]
  exact if_pos hrow

variable (hrow : orderRow l < 262144)
include hrow

theorem State.retireCheck_row_passed : s.retireCheck l already =
    if slotMode l ≠ 0 ∧ slotMode l ≠ 1 then some .badKind
    else if already then some .already
    else if s.freeSpares (orderRank l) ≤ s.waitingCount (orderRank l) then some .noSpare
    else none := by
  unfold State.retireCheck
  rw [if_neg (Nat.not_le.2 hrank)]
  exact if_neg (Nat.not_le.2 hrow)

theorem State.retireCheck_badKind (hmode : slotMode l ≠ 0 ∧ slotMode l ≠ 1) :
    s.retireCheck l already = some .badKind := by
  rw [State.retireCheck_row_passed hrank hrow, if_pos hmode]

variable (hmode : slotMode l = 0 ∨ slotMode l = 1)
include hmode

theorem State.retireCheck_already (ha : already = true) : s.retireCheck l already = some .already := by
  rw [State.retireCheck_row_passed hrank hrow, if_neg (by omega), if_pos ha]

theorem State.retireCheck_noSpare (ha : already = false)
    (hfree : s.freeSpares (orderRank l) ≤ s.waitingCount (orderRank l)) : s.retireCheck l already = some .noSpare := by
  rw [State.retireCheck_row_passed hrank hrow, if_neg (by omega), ha, if_neg Bool.false_ne_true, if_pos hfree]

theorem State.retireCheck_passed (ha : already = false)
    (hfree : s.waitingCount (orderRank l) < s.freeSpares (orderRank l)) : s.retireCheck l already = none := by
  rw [State.retireCheck_row_passed hrank hrow, if_neg (by omega), ha, if_neg Bool.false_ne_true,
    if_neg (Nat.not_le.2 hfree)]

end Checks

/-! ## RETIRE_ROW_MIGRATE (R70, R130) -/

theorem State.takeMigrate_refused {s : State} {l : Line} {r : OrderReason}
    (h : s.retireCheck l (s.underRetirement (orderRank l) (orderRow l)) = some r) (slot : Nat) :
    s.takeMigrate slot l = s.requestDone slot (doneLine l s.time .refused r []) := by
  unfold State.takeMigrate
  rw [h]
  rfl

theorem State.takeMigrate_admitted {s : State} {l : Line}
    (h : s.retireCheck l (s.underRetirement (orderRank l) (orderRow l)) = none) (slot : Nat) :
    s.takeMigrate slot l = State.requestItem
      (State.startMigration
        { s with table := s.table.map (fun e =>
                   if e.keyed (orderRank l) (orderRow l) then { e with retire := .pending } else e),
                 migrationQueue := s.migrationQueue ++
                   [{ rank := orderRank l, row := orderRow l, origin := .order, slot := some slot }] })
      (.line (64 + slot) (takenLine l s.time)) := by
  obtain ⟨a, m, sp, r, hframe⟩ := (s.setRetire (orderRank l) (orderRow l) .pending).admitRetirement_frame
    { rank := orderRank l, row := orderRow l, origin := .order, slot := some slot }
  have time := congrArg State.time hframe
  unfold State.takeMigrate
  rw [h]
  simp only [State.writeTaken, time]
  rfl

theorem exec_retireRowMigrate {s : State} {slot : Nat} {l : Line} (h : s.DispatchDue slot l 3) (hmode : slotMode l ≠ 1) :
    exec .retireRowMigrate s = .next ((s.endTake slot l).takeMigrate slot l).finish := by
  obtain ⟨-, -, -, -, hkind, -⟩ := id h
  exact onOrder_of_due h rfl (by simp [hkind, hmode]) State.takeMigrate

/-- Settles O34, by the checks of R130 in their order. -/
theorem retireRowIsCheckedInOrder : Obligations.RetireRowIsCheckedInOrder := by
  intro s u slot l rank row hdue hmode hu hrank hrow
  subst hu hrank hrow
  rw [exec_retireRowMigrate hdue hmode]
  have refused : ∀ r, (s.endTake slot l).retireCheck l (s.underRetirement (orderRank l) (orderRow l)) = some r →
      (.next ((s.endTake slot l).takeMigrate slot l).finish : Host.Outcome State Fault Refusal) =
        .next ((s.endTake slot l).requestDone slot (doneLine l s.time .refused r [])).finish := fun r hr =>
    next_finish_congr (State.takeMigrate_refused (s := s.endTake slot l) hr slot)
  refine ⟨fun h1 => refused _ (State.retireCheck_badRank h1),
    fun h1 h2 => refused _ (State.retireCheck_badRow h1 h2),
    fun h1 h2 h3 => refused _ (State.retireCheck_badKind h1 h2 ⟨h3, hmode⟩),
    fun h1 h2 h3 h4 => refused _ (State.retireCheck_already h1 h2 (.inl h3) ?_),
    fun h1 h2 h3 h4 h5 h6 => refused _ (State.retireCheck_noSpare h1 h2 (.inl h3) ?_ h6),
    fun h1 h2 h3 h4 h5 h6 => ?_⟩
  · exact Bool.or_eq_true_iff.2 h4
  · exact Bool.or_eq_false_iff.2 ⟨h4, h5⟩
  · exact next_finish_congr (State.takeMigrate_admitted (s := s.endTake slot l)
      (State.retireCheck_passed h1 h2 (.inl h3) (Bool.or_eq_false_iff.2 ⟨h4, h5⟩) h6) slot)

/-! ## Counts of spare rows and of waiting retirements (R127, R129) -/

theorem countBelow_eq_ncard (n : Nat) (p : Nat → Bool) : countBelow n p = Set.ncard {i | i < n ∧ p i = true} := by
  have same : {i | i < n ∧ p i = true} = (((List.range n).filter p).toFinset : Set Nat) := by
    ext i
    simp
  rw [same, Set.ncard_coe_finset, List.toFinset_card_of_nodup (List.nodup_range.filter _),
    ← List.countP_eq_length_filter]
  rfl

theorem State.freeSpares_eq_ncard (s : State) (rank : Nat) :
    s.freeSpares rank = Set.ncard {i | i < 128 ∧ s.spareState rank i = .free} := by
  rw [State.freeSpares, countBelow_eq_ncard]
  simp only [decide_eq_true_eq]

theorem State.lowestFree_eq_some (s : State) (rank i : Nat) :
    s.lowestFree rank = some i ↔ i < 128 ∧ s.spareState rank i = .free ∧ ∀ j, j < i → s.spareState rank j ≠ .free := by
  rw [State.lowestFree, firstBelow_eq_some]
  simp only [decide_eq_true_eq, decide_eq_false_iff_not, ne_eq]

theorem State.lowestFree_eq_none (s : State) (rank : Nat) :
    s.lowestFree rank = none ↔ ∀ i, i < 128 → s.spareState rank i ≠ .free := by
  rw [State.lowestFree, firstBelow, List.find?_eq_none]
  simp only [List.mem_range, decide_eq_true_eq, ne_eq]

/-! ## RETIRE_ROW_RESTORE (R71, R140) -/

theorem State.takeRestoreRow_refused {s : State} {l : Line} {r : OrderReason}
    (h : s.retireCheck l (s.everRetired (orderRank l) (orderRow l)) = some r) (slot : Nat) :
    s.takeRestoreRow slot l = s.requestDone slot (doneLine l s.time .refused r []) := by
  unfold State.takeRestoreRow
  rw [h]
  rfl

theorem State.takeRestoreRow_retired {s : State} {l : Line} {i : Nat}
    (h : s.retireCheck l (s.everRetired (orderRank l) (orderRow l)) = none) (hi : s.lowestFree (orderRank l) = some i)
    (slot : Nat) : s.takeRestoreRow slot l = (s.restoreRow (orderRank l) (orderRow l) i).requestDone slot
      (doneLine l s.time .ok .none [byteField 32 i, byteField 33 255]) := by
  have time : (s.restoreRow (orderRank l) (orderRow l) i).time = s.time := State.removeEntry_handPlain_time _ _ _ _ _ _ _ _
  unfold State.takeRestoreRow
  rw [h]
  simp only [hi, State.finishSlot, time]
  rfl

theorem exec_retireRowRestore {s : State} {slot : Nat} {l : Line} (h : s.DispatchDue slot l 3) (hmode : slotMode l = 1) :
    exec .retireRowRestore s = .next ((s.endTake slot l).takeRestoreRow slot l).finish := by
  obtain ⟨-, -, -, -, hkind, -⟩ := id h
  exact onOrder_of_due h rfl (by simp [hkind, hmode]) State.takeRestoreRow

/-- A row that gets an ACTIVE remap entry, and had none, is served by its spare row. -/
theorem State.servingRow_appended {s : State} {rank row i : Nat} (h : s.findRemap rank row = none) {e : RemapEntry}
    (he : e.rank = rank ∧ e.row = row ∧ e.state = .active ∧ e.spare = i) (column : Nat) :
    State.servingRow { s with remaps := s.remaps ++ [e] } rank row column = 262144 + i := by
  obtain ⟨hrank, hrow, hstate, rfl⟩ := he
  refine State.servingRow_active (e := e) column ?_ hstate
  unfold State.findRemap at h ⊢
  rw [List.find?_append, h, Option.none_or]
  exact List.find?_cons_of_pos (decide_eq_true ⟨hrank, hrow⟩)

/-- Settles O36, by the checks of R140 in their order. -/
theorem restoreRetiresAtOnce : Obligations.RestoreRetiresAtOnce := by
  refine ⟨fun s rank => ⟨s.lowestFree_eq_some rank, s.lowestFree_eq_none rank, s.freeSpares_eq_ncard rank,
    List.countP_eq_length_filter⟩, ?_⟩
  intro s u slot l rank row i hdue hmode hu hrank hrow
  subst hu hrank hrow
  rw [exec_retireRowRestore hdue hmode]
  have refused : ∀ r, (s.endTake slot l).retireCheck l (s.everRetired (orderRank l) (orderRow l)) = some r →
      (.next ((s.endTake slot l).takeRestoreRow slot l).finish : Host.Outcome State Fault Refusal) =
        .next ((s.endTake slot l).requestDone slot (doneLine l s.time .refused r [])).finish := fun r hr =>
    next_finish_congr (State.takeRestoreRow_refused (s := s.endTake slot l) hr slot)
  have never : s.findRemap (orderRank l) (orderRow l) = none → s.rowQueued (orderRank l) (orderRow l) = false →
      s.everRetired (orderRank l) (orderRow l) = false := fun h h' =>
    Bool.or_eq_false_iff.2 ⟨by rw [h]; rfl, h'⟩
  refine ⟨fun h1 => refused _ (State.retireCheck_badRank h1),
    fun h1 h2 => refused _ (State.retireCheck_badRow h1 h2),
    fun h1 h2 h3 h4 h5 => refused _ (State.retireCheck_noSpare h1 h2 (.inr hmode) (never h3 h4) h5),
    fun h1 h2 h3 => refused _ (State.retireCheck_already h1 h2 (.inr hmode) (Bool.or_eq_true_iff.2 h3)),
    fun h1 h2 h3 h4 h5 _ hi => ⟨_, rfl, ?_, ?_⟩⟩
  · exact State.servingRow_appended (s := { s.endTake slot l with
      spares := ((s.endTake slot l).setSpareState (orderRank l) i .inUse).spares }) h3 ⟨rfl, rfl, rfl, rfl⟩ 0
  · exact next_finish_congr (State.takeRestoreRow_retired (s := s.endTake slot l)
      (State.retireCheck_passed h1 h2 (.inr hmode) (never h3 h4) h5) hi slot)

end Sys2Proof.Machine
end

section
/-! PROOFS. O44, O39: the suspect flags after the tallies have changed, the decay tick, and a marking. -/

namespace Sys2Proof.Machine

/-! ## Device sets (R61) -/

theorem inSet_outside (f : DeviceSet) {d : Nat} (h : 20 ≤ d) : inSet f d = false := BitVec.getLsbD_of_ge f d h

theorem inSet_single (d x : Nat) : (1#20 <<< d).getLsbD x = (decide (x < 20) && decide (x = d)) := by
  rw [BitVec.getLsbD_shiftLeft, BitVec.getLsbD_one]
  grind

theorem inSet_dropFromSet (f : DeviceSet) (d x : Nat) : inSet (dropFromSet f d) x = (inSet f x && decide (x ≠ d)) := by
  by_cases hx : x < 20
  · unfold inSet dropFromSet
    rw [BitVec.getLsbD_and, BitVec.getLsbD_not, inSet_single]
    simp [hx]
  · rw [inSet_outside _ (Nat.not_lt.1 hx), inSet_outside _ (Nat.not_lt.1 hx), Bool.false_and]

theorem inSet_addToSet (f : DeviceSet) {x : Nat} (hx : x < 20) (d : Nat) :
    inSet (addToSet f d) x = (inSet f x || decide (x = d)) := by
  unfold inSet addToSet
  rw [BitVec.getLsbD_or, inSet_single, decide_eq_true hx, Bool.true_and]

/-- Each device of a list that a condition names leaves the set. -/
theorem inSet_foldl_drop (p : Nat → Prop) [DecidablePred p] (ds : List Nat) (f : DeviceSet) (x : Nat) :
    inSet (ds.foldl (fun f d => if p d then dropFromSet f d else f) f) x =
      (inSet f x && decide (x ∈ ds → ¬ p x)) := by
  induction ds generalizing f with
  | nil => simp
  | cons d ds ih =>
    rw [List.foldl_cons, ih]
    by_cases hp : p d
    · rw [if_pos hp, inSet_dropFromSet]
      by_cases hx : x = d
      · subst hx
        simp [hp]
      · simp [hx]
    · rw [if_neg hp]
      by_cases hx : x = d
      · subst hx
        simp [hp]
      · simp [hx]

/-! ## The suspect flags (R73, R74) -/

theorem State.isSuspect_setSuspects (s : State) {rank : Nat} (hr : rank < 4) (f : DeviceSet) (r d : Nat) :
    (s.setSuspects rank f).isSuspect r d = if r = rank then inSet f d else s.isSuspect r d := by
  unfold State.isSuspect
  rw [State.setSuspects_suspects]
  split
  · next h => rw [h, nth_put_same _ _ _ _ hr]
  · next h => rw [nth_put_other _ _ _ _ _ h]

/-- The flags of a rank's devices below the mark threshold are clear, and every other flag is as it was. -/
theorem State.isSuspect_clearSuspects (s : State) {r : Nat} (hr : r < 4) (rank d : Nat) :
    (s.clearSuspects rank).isSuspect r d =
      (s.isSuspect r d && (decide (r ≠ rank) || decide (s.policy.markThreshold ≤ s.tally r d))) := by
  by_cases h : r = rank
  · subst h
    rw [State.clearSuspects, State.isSuspect_setSuspects s hr, if_pos rfl,
      inSet_foldl_drop fun d => s.tally r d < s.policy.markThreshold]
    by_cases hd : d < 20
    · simp [State.isSuspect, Config.devicesPerRank, hd]
    · simp [State.isSuspect, inSet_outside _ (Nat.not_lt.1 hd)]
  · have other : (s.clearSuspects rank).isSuspect r d = s.isSuspect r d := by
      unfold State.isSuspect
      rw [State.clearSuspects, State.setSuspects_suspects, nth_put_other _ _ _ _ _ h]
    rw [other, decide_eq_true h, Bool.true_or, Bool.and_true]

theorem State.clearSuspects_foldl_only (s : State) (l : List Nat) :
    l.foldl State.clearSuspects s = { s with suspects := (l.foldl State.clearSuspects s).suspects } := by
  induction l generalizing s with
  | nil => rfl
  | cons r l ih =>
    rw [List.foldl_cons]
    exact ih (s.clearSuspects r)

/-- Clearing the flags of ranks changes the suspect flags alone. -/
theorem State.clearAllSuspects_only (s : State) :
    s.clearAllSuspects = { s with suspects := s.clearAllSuspects.suspects } := s.clearSuspects_foldl_only _

theorem State.isSuspect_clearAllSuspects (s : State) {r : Nat} (hr : r < 4) (d : Nat) :
    s.clearAllSuspects.isSuspect r d =
      (s.isSuspect r d && (decide (s.ranks ≤ r) || decide (s.policy.markThreshold ≤ s.tally r d))) := by
  unfold State.clearAllSuspects
  generalize s.ranks = n
  induction n with
  | zero => simp
  | succ n ih =>
    have only := s.clearSuspects_foldl_only (List.range n)
    have policy : ((List.range n).foldl State.clearSuspects s).policy = s.policy := (congrArg State.policy only).trans rfl
    have tally : ((List.range n).foldl State.clearSuspects s).tally r d = s.tally r d :=
      (congrArg (fun u => State.tally u r d) only).trans rfl
    rw [List.range_succ, List.foldl_append, List.foldl_cons, List.foldl_nil, State.isSuspect_clearSuspects _ hr, ih,
      policy, tally]
    grind

/-! ## The decay tick (R66, R67) -/

theorem mem_decayedTable {threshold : Nat} {table : List FaultEntry} {e : FaultEntry} :
    e ∈ decayedTable threshold table ↔
      ∃ x ∈ table, e = x.decayed threshold ∧ ¬ (e.score = 0 ∧ e.retire = .none) := by
  unfold decayedTable
  simp only [List.mem_filter, List.mem_map, Bool.not_eq_true', Bool.and_eq_false_iff, decide_eq_false_iff_not,
    not_and_or]
  constructor
  · rintro ⟨⟨x, hx, rfl⟩, h⟩
    exact ⟨x, hx, rfl, h⟩
  · rintro ⟨x, hx, rfl, h⟩
    exact ⟨⟨x, hx, rfl⟩, h⟩

/-- The tick itself, from its new table and the time of the next one. -/
def State.decayed (s : State) : State :=
  State.clearAllSuspects
    { s with table := decayedTable s.policy.retireThreshold s.table,
             decayTick := timeAfter s.decayTick (s.policy.decayPeriod * Config.second) }

theorem exec_decayTick {s : State} (h : s.handOff = none) (hd : hasReached s.time s.decayTick = true) :
    exec .decayTick s = .next s.decayed.finish := by
  have := act_next (f := fun s => if hasReached s.time s.decayTick then s.decayed else s) h
  rwa [if_pos hd] at this

/-- Settles O44. -/
theorem decayHalvesEveryScore : Obligations.DecayHalvesEveryScore := by
  intro s h hd
  have only := State.clearAllSuspects_only
    { s with table := decayedTable s.policy.retireThreshold s.table,
             decayTick := timeAfter s.decayTick (s.policy.decayPeriod * Config.second) }
  have table : s.decayed.table = decayedTable s.policy.retireThreshold s.table := congrArg State.table only
  have tick : s.decayed.decayTick = timeAfter s.decayTick (s.policy.decayPeriod * Config.second) :=
    congrArg State.decayTick only
  have flags : ∀ r d, r < 4 → s.decayed.isSuspect r d =
      (s.isSuspect r d && (decide (s.ranks ≤ r) || decide (s.policy.markThreshold ≤ s.decayed.tally r d))) :=
    fun r d hr => by
      rw [State.tally, table]
      exact State.isSuspect_clearAllSuspects _ hr d
  refine ⟨s.decayed, exec_decayTick h hd, tick, fun e => ?_, fun r d hr hr4 _ hlow => ?_, fun r d hr _ hhigh => ?_, ?_⟩
  · rw [table, mem_decayedTable]
    rfl
  · rw [flags r d hr4, decide_eq_false (Nat.not_le.2 hr), decide_eq_false (Nat.not_le.2 hlow), Bool.or_false,
      Bool.and_false]
  · rw [flags r d hr, decide_eq_true hhigh, Bool.or_true, Bool.and_true]
  · rw [table, tick]
    exact only

/-! ## A marking (R74, R76, R148) -/

theorem RankDevices.marking_stateOf (r : RankDevices) {device : Nat} (hd : device < 20) (mode : MarkMode)
    (now : PartTime) (d : Nat) :
    (r.marking device mode now).stateOf d = if d = device then .marked else r.stateOf d := by
  have states : (r.marking device mode now).states = put r.states device .marked := by
    unfold RankDevices.marking
    split <;> rfl
  unfold RankDevices.stateOf
  rw [states]
  split
  · next h => rw [h, nth_put_same _ _ _ _ hd]
  · next h => rw [nth_put_other _ _ _ _ _ h]

theorem RankDevices.marking_posMap (r : RankDevices) (device : Nat) (mode : MarkMode) (now : PartTime) :
    (r.marking device mode now).posMap = r.posMap := by
  unfold RankDevices.marking
  split <;> rfl

theorem RankDevices.marking_started {r : RankDevices} {mode : MarkMode} (h : r.startsRebuild mode = true) (device : Nat)
    (now : PartTime) : r.marking device mode now =
      { r with states := put r.states device .marked, cursor := 0, inFlight := true, startTime := now, corrected := 0,
               uncorrectable := 0, poisoned := 0, writesDropped := 0 } := if_pos h

theorem RankDevices.marking_not_started {r : RankDevices} {mode : MarkMode} (h : r.startsRebuild mode = false)
    (device : Nat) (now : PartTime) :
    r.marking device mode now = { r with states := put r.states device .marked } := if_neg (by rw [h]; decide)

theorem mem_strippedTable {table : List FaultEntry} {rank device : Nat} {e : FaultEntry} :
    e ∈ strippedTable table rank device ↔ ∃ x ∈ table, (x.rank ≠ rank ∧ e = x) ∨
      (x.rank = rank ∧ x.devices ≠ addToSet 0 device ∧ e = { x with devices := dropFromSet x.devices device }) := by
  unfold strippedTable
  simp only [List.mem_map, List.mem_filter, Bool.not_eq_true', Bool.and_eq_false_iff, decide_eq_false_iff_not]
  constructor
  · rintro ⟨x, ⟨hx, hkept⟩, rfl⟩
    refine ⟨x, hx, ?_⟩
    by_cases hr : x.rank = rank
    · exact .inr ⟨hr, hkept.resolve_left (absurd hr), if_pos hr⟩
    · exact .inl ⟨hr, if_neg hr⟩
  · rintro ⟨x, hx, ⟨hr, rfl⟩ | ⟨hr, hd, rfl⟩⟩
    · exact ⟨e, ⟨hx, .inl hr⟩, if_neg hr⟩
    · exact ⟨x, ⟨hx, .inr hd⟩, if_pos hr⟩

/-- No entry of the rank names the device once it is marked. -/
theorem State.tally_stripped {t : State} {table : List FaultEntry} {rank device : Nat}
    (h : t.table = strippedTable table rank device) : t.tally rank device = 0 := by
  unfold State.tally
  rw [h, List.countP_eq_zero]
  intro e he
  obtain ⟨x, -, ⟨hr, rfl⟩ | ⟨-, -, rfl⟩⟩ := mem_strippedTable.1 he
  · simp [hr]
  · simp [inSet_dropFromSet]

/-- A marking but for its record. -/
def State.markedUnrecorded (s : State) (rank device : Nat) (mode : MarkMode) : State :=
  State.stripDevice (s.setRankDevices rank ((s.rankDevices rank).marking device mode s.time)) rank device

/-- A marking changes the device map, the fault table and the suspect flags, and then its record is journaled. -/
theorem State.markDevice_eq (s : State) (rank device : Nat) (mode : MarkMode) (origin : Origin) :
    s.markDevice rank device mode origin = (s.markedUnrecorded rank device mode).handPlain
      (.deviceMarked (((s.rankDevices rank).positionOf device).getD 0) mode origin
        ((s.rankDevices rank).startsRebuild mode) ((s.rankDevices rank).degrades mode) (s.tally rank device))
      none rank 0 [device] := rfl

theorem State.markedUnrecorded_only (s : State) (rank device : Nat) (mode : MarkMode) :
    s.markedUnrecorded rank device mode =
      { s with devices := (s.markedUnrecorded rank device mode).devices,
               table := (s.markedUnrecorded rank device mode).table,
               suspects := (s.markedUnrecorded rank device mode).suspects } := rfl

/-- A record leaves the device map, the fault table, the suspect flags and the policy. -/
theorem State.handPlain_leaves (s : State) (k : RecordKind) (host : Option Nat) (rank row : Nat) (ds : List Nat) :
    (s.handPlain k host rank row ds).devices = s.devices ∧ (s.handPlain k host rank row ds).table = s.table ∧
      (s.handPlain k host rank row ds).suspects = s.suspects := by
  obtain ⟨q, w, j, c, h⟩ := s.handPlain_frame k host rank row ds
  rw [h]
  exact ⟨rfl, rfl, rfl⟩

/-- Settles O39: what a marking changes before its record, read off field by field. -/
theorem markingActsAsOne : Obligations.MarkingActsAsOne := by
  intro s t rank device m mode origin hrank hdevice hthreshold hmode hm ht
  obtain ⟨devices, table, suspects⟩ : t.devices = (s.markedUnrecorded rank device mode).devices ∧
      t.table = (s.markedUnrecorded rank device mode).table ∧
      t.suspects = (s.markedUnrecorded rank device mode).suspects := by
    rw [ht, State.markDevice_eq]
    exact State.handPlain_leaves _ _ _ _ _ _
  have map : ∀ r, t.rankDevices r = if r = rank then (s.rankDevices rank).marking device mode s.time
      else s.rankDevices r := fun r => by
    rw [State.rankDevices, devices]
    exact State.rankDevices_setRankDevices s hrank _ r
  have marked : t.rankDevices rank = (s.rankDevices rank).marking device mode s.time := by rw [map, if_pos rfl]
  have stripped : t.table = strippedTable s.table rank device := table
  have tally0 : t.tally rank device = 0 := State.tally_stripped stripped
  have flags : ∀ r d, r < 4 → t.isSuspect r d =
      (s.isSuspect r d && (decide (r ≠ rank) || decide (s.policy.markThreshold ≤ t.tally r d))) := fun r d hr => by
    rw [State.isSuspect, suspects, State.tally, table]
    exact State.isSuspect_clearSuspects _ hr rank d
  refine ⟨?_, fun d _ hd => ?_, ?_, fun hrebuild hspare => ?_, fun hnot => ?_, fun r _ hr => ?_, tally0, ?_, fun d _ => ?_,
    fun r d hr _ hne => ?_, fun e => ?_, ?_⟩
  · rw [marked, RankDevices.marking_stateOf _ hdevice, if_pos rfl]
  · rw [marked, RankDevices.marking_stateOf _ hdevice, if_neg hd]
  · rw [marked, RankDevices.marking_posMap]
  · have started : (s.rankDevices rank).startsRebuild mode = true := by
      simp [RankDevices.startsRebuild, hrebuild, hspare]
    rw [marked, RankDevices.marking_started started]
    exact ⟨rfl, rfl, rfl, rfl, rfl, rfl, rfl⟩
  · have started : (s.rankDevices rank).startsRebuild mode = false := by
      rcases hnot with h | h
      · simp [RankDevices.startsRebuild, h]
      · simp [RankDevices.startsRebuild, h]
    rw [marked, RankDevices.marking_not_started started]
    exact ⟨rfl, rfl, rfl, rfl, rfl, rfl, rfl⟩
  · rw [map, if_neg hr]
  · rw [flags rank device hrank, tally0]
    have : ¬ s.policy.markThreshold ≤ 0 := by omega
    simp [this]
  · rw [flags rank d hrank]
    simp
  · rw [flags r d hr, decide_eq_true hne, Bool.true_or, Bool.and_true]
  · rw [stripped]
    exact mem_strippedTable
  · refine ⟨s.markedUnrecorded rank device mode, ?_, ?_⟩
    · rw [devices, table, suspects]
      exact s.markedUnrecorded_only rank device mode
    · rw [ht, State.markDevice_eq, hm]
      rfl

end Sys2Proof.Machine
end

section
/-! PROOFS. O40: SET POLICY clamps its values, puts the record in force and reports it. -/

namespace Sys2Proof.Machine

/-! ## The clamp (R168) -/

theorem clampTo_eq {lo hi : Nat} (h : lo ≤ hi) (v : Nat) : clampTo lo hi v = max lo (min hi v) := by
  unfold clampTo
  split
  · omega
  · split <;> omega

theorem clampPolicy_eq (p : Policy) : clampPolicy p =
    { patrolEnable := max 0 (min 1 p.patrolEnable), opsPerInterval := max 1 (min 64 p.opsPerInterval),
      markThreshold := max 2 (min 64 p.markThreshold), autoRetire := max 0 (min 1 p.autoRetire),
      autoMark := max 0 (min 1 p.autoMark), demandBudget := max 0 (min 2 p.demandBudget),
      backgroundBudget := max 0 (min 8 p.backgroundBudget), writeBackEnable := max 0 (min 1 p.writeBackEnable),
      coalesceCount := max 1 (min 64 p.coalesceCount), minRate := max 1 (min 16384 p.minRate),
      decayPeriod := max 1 (min 65535 p.decayPeriod), retireThreshold := max 8 (min 1023 p.retireThreshold),
      patrolPeriod := max 60 (min 604800 p.patrolPeriod), holdoff := max 10 (min 65535 p.holdoff),
      statusInterval := max 100 (min 65535 p.statusInterval) } := by
  unfold clampPolicy
  simp (disch := decide) only [clampTo_eq]

/-! ## What acts on a new policy record (R75, R104, R109, R178) -/

theorem State.examineDevices_policy (s : State) (rank : Nat) (which : Nat → Bool) (again : Bool) :
    (s.examineDevices rank which again).policy = s.policy := by
  obtain ⟨d, t, f, q, w, j, c, h⟩ := s.examineDevices_frame rank which again
  rw [h]

theorem State.foldl_examineDevices_policy (l : List Nat) (s : State) (which : Nat → Bool) (again : Bool) :
    (l.foldl (fun v r => v.examineDevices r which again) s).policy = s.policy := by
  induction l generalizing s with
  | nil => rfl
  | cons r l ih => rw [List.foldl_cons, ih, State.examineDevices_policy]

theorem State.clearAllSuspects_policy (s : State) : s.clearAllSuspects.policy = s.policy := by
  rw [s.clearAllSuspects_only]

theorem State.examineAll_policy (s : State) : s.examineAll.policy = s.policy := by
  unfold State.examineAll
  exact (State.foldl_examineDevices_policy _ _ _ _).trans s.clearAllSuspects_policy

theorem State.review_policy (s : State) : s.review.policy = s.policy := by
  obtain ⟨p, h⟩ := s.review_frame
  rw [h]

theorem State.checkCoalesce_policy (s : State) : s.checkCoalesce.policy = s.policy := by
  obtain ⟨j, w, h⟩ := s.checkCoalesce_frame
  rw [h]

theorem State.checkCoalesce_below {s : State} (h : s.journal.coalesce < s.policy.coalesceCount) :
    s.checkCoalesce = s := if_neg (Nat.not_le.2 h)

/-- A count that has reached the coalesce count raises JOURNAL, and starts again with the timer stopped. -/
theorem State.checkCoalesce_reached {s : State} (h : s.policy.coalesceCount ≤ s.journal.coalesce) :
    s.checkCoalesce.journal.causes.journal = true ∧ s.checkCoalesce.journal.coalesce = 0 ∧
      s.checkCoalesce.journal.holdoff = none := by
  obtain ⟨w, hraise⟩ := State.raiseCause_eq { s with journal := { s.journal with coalesce := 0, holdoff := none } } .journal
  have raised : s.checkCoalesce = s.raiseJournal := if_pos h
  rw [raised, State.raiseJournal, hraise]
  exact ⟨rfl, rfl, rfl⟩

/-! ## The order and its report -/

theorem exec_setPolicy {s : State} {slot : Nat} {l : Line} (h : s.DispatchDue slot l 5) :
    exec .setPolicy s = .next ((s.endTake slot l).takePolicy slot l).finish := by
  obtain ⟨-, -, -, -, hkind, -⟩ := id h
  exact onOrder_of_due h rfl (by simp [hkind]) State.takePolicy

theorem policyDoneLine_holds (now : PartTime) (r : OrderReason) (p : Policy) : HoldsFields (policyDoneLine now r p)
    [⟨0, 1, 3⟩, ⟨1, 1, 5⟩, ⟨2, 1, 1⟩, ⟨3, 1, r.code⟩, ⟨8, 6, now.toNat⟩,
     ⟨16, 1, p.patrolEnable⟩, ⟨17, 1, p.opsPerInterval⟩, ⟨18, 1, p.markThreshold⟩, ⟨19, 1, p.autoRetire⟩,
     ⟨20, 1, p.autoMark⟩, ⟨21, 1, p.demandBudget⟩, ⟨22, 1, p.backgroundBudget⟩, ⟨23, 1, p.writeBackEnable⟩,
     ⟨24, 1, p.coalesceCount⟩, ⟨26, 2, p.minRate⟩, ⟨28, 2, p.decayPeriod⟩, ⟨30, 2, p.retireThreshold⟩,
     ⟨32, 4, p.patrolPeriod⟩, ⟨36, 2, p.holdoff⟩, ⟨38, 2, p.statusInterval⟩] :=
  holdsFields_lineOfFields _ rfl

/-- Settles O40: the clamp is a maximum of a minimum, and the reviews behind it leave the record as it is. -/
theorem setPolicyClampsAndActs : Obligations.SetPolicyClampsAndActs := by
  intro s slot l p hdue hp
  subst hp
  have acted : ∀ u v : State, v.policy = clampPolicy (policyOfLine l) → u = v.review →
      u.examineAll.policy = clampPolicy (policyOfLine l) := fun u v hv hu => by
    rw [u.examineAll_policy, hu, State.review_policy, hv]
  have code : (if clampPolicy (policyOfLine l) = policyOfLine l then OrderReason.none else .clamped).code =
      if clampPolicy (policyOfLine l) = policyOfLine l then 0 else 1 := by
    split <;> rfl
  refine ⟨_, _, exec_setPolicy hdue, rfl, rfl, fun h => State.checkCoalesce_below ?_,
    fun h => State.checkCoalesce_reached ?_, ?_, rfl, clampPolicy_eq _, ?_, ?_⟩
  · exact h.trans_eq (congrArg Policy.coalesceCount (acted _ _ rfl rfl)).symm
  · exact (congrArg Policy.coalesceCount (acted _ _ rfl rfl)).trans_le h
  · rw [← code]
    exact policyDoneLine_holds _ _ _
  · exact (State.checkCoalesce_policy _).trans (acted _ _ rfl rfl)
  · rw [clampPolicy_eq]
    simp

end Sys2Proof.Machine
end

section
/-! PROOFS. O43: one scored event, the examination of its entry, and the examination of its devices. -/

namespace Sys2Proof.Machine

/-! ## The victim of a full table (R65) -/

/-- Two distances that add up to 2^48 cannot both be below 2^47. -/
theorem laterThan_asymm {a b : PartTime} (h : laterThan a b = true) : laterThan b a = false := by
  unfold laterThan at h ⊢
  simp only [Bool.and_eq_true, decide_eq_true_eq] at h
  simp only [Bool.and_eq_false_imp, decide_eq_true_eq, decide_eq_false_iff_not]
  intro hne
  bv_omega

theorem FaultEntry.before_asymm {a b : FaultEntry} (h : a.before b = true) : b.before a = false := by
  unfold FaultEntry.before at h ⊢
  grind

theorem FaultEntry.weaker_asymm {a b : FaultEntry} (h : a.weaker b = true) : b.weaker a = false := by
  have later := @laterThan_asymm b.lastSeen a.lastSeen
  have before := @FaultEntry.before_asymm a b
  have self : laterThan a.lastSeen a.lastSeen = false := by simp [laterThan]
  unfold FaultEntry.weaker at h ⊢
  grind

/-- `v` weighs less than `e`, if `e` is another entry that can be the victim. -/
def FaultEntry.Yields (v e : FaultEntry) : Prop := e.retire = .none → e ≠ v → v.weaker e = true

theorem pickVictim_weakest {best : Option FaultEntry} {v : FaultEntry} (hnone : v.retire = .none)
    (hbest : ∀ b, best = some b → v.Yields b ∧ b.retire = .none) : pickVictim best v = some v := by
  refine (if_pos hnone).trans ?_
  cases best with
  | none => rfl
  | some b =>
    obtain ⟨yields, hb⟩ := hbest b rfl
    by_cases h : b = v
    · simp [h]
    · exact if_pos (yields hb h)

theorem pickVictim_keeps {v e : FaultEntry} (h : v.Yields e) : pickVictim (some v) e = some v := by
  unfold pickVictim
  split
  · next he =>
    by_cases hev : e = v
    · simp [hev]
    · simp [FaultEntry.weaker_asymm (h he hev)]
  · rfl

theorem foldl_pickVictim_weakest {v : FaultEntry} (hnone : v.retire = .none) (l : List FaultEntry) (hl : ∀ e ∈ l, v.Yields e)
    {best : Option FaultEntry} (hbest : ∀ b, best = some b → v.Yields b ∧ b.retire = .none)
    (hv : best = some v ∨ v ∈ l) : l.foldl pickVictim best = some v := by
  induction l generalizing best with
  | nil => simpa using hv
  | cons e l ih =>
    have he : v.Yields e := hl e List.mem_cons_self
    refine ih (fun x hx => hl x (List.mem_cons_of_mem _ hx)) (fun b hb => ?_) ?_
    · obtain h | ⟨rfl, h⟩ := pickVictim_mem hb
      · exact hbest b h
      · exact ⟨he, h⟩
    · obtain rfl | hv := hv
      · exact .inl (pickVictim_keeps he)
      · obtain rfl | hv := List.mem_cons.1 hv
        · exact .inl (pickVictim_weakest hnone hbest)
        · exact .inr hv

/-- The weakest of the NONE entries is the victim. -/
theorem victimOf_weakest {l : List FaultEntry} {v : FaultEntry} (hv : v ∈ l) (hnone : v.retire = .none)
    (h : ∀ e ∈ l, v.Yields e) : victimOf l = some v :=
  foldl_pickVictim_weakest hnone l h (fun _ hb => nomatch hb) (.inr hv)

/-! ## What one scored event does to the table (R63 to R65) -/

section
variable {s : State} {rank row weight : Nat} (named : List Nat) (t : PartTime)

theorem State.scoredEvent_found {e : FaultEntry} (h : s.findEntry rank row = some e) :
    s.scoredEvent rank row weight named t =
      (s.changeEntry rank row fun x => x.taken weight (s.joiningDevices rank named) t).afterEvent rank row
        ((s.joiningDevices rank named).filter fun d => !inSet e.devices d) := by
  rw [State.scoredEvent, h]

theorem State.scoredEvent_created (h : s.findEntry rank row = none) (room : s.table.length < 1024) :
    s.scoredEvent rank row weight named t = s.createEntry rank row weight (s.joiningDevices rank named) t := by
  rw [State.scoredEvent, h]
  exact if_pos room

theorem State.scoredEvent_full (h : s.findEntry rank row = none) (full : 1024 ≤ s.table.length) :
    s.scoredEvent rank row weight named t =
      match victimOf s.table with
      | none => s.countUntracked
      | some v =>
        if v.score ≤ weight then (s.removeEntry v.rank v.row).createEntry rank row weight (s.joiningDevices rank named) t
        else s.countUntracked := by
  rw [State.scoredEvent, h]
  exact if_neg (Nat.not_lt.2 full)

theorem State.scoredEvent_untracked (h : s.findEntry rank row = none) (full : 1024 ≤ s.table.length)
    (heavier : ∀ e ∈ s.table, e.retire = .none → weight < e.score) :
    s.scoredEvent rank row weight named t = s.countUntracked := by
  rw [State.scoredEvent_full named t h full]
  split
  · rfl
  · next v hv =>
    obtain ⟨hmem, hnone⟩ := victimOf_mem hv
    exact if_neg (Nat.not_le.2 (heavier v hmem hnone))

theorem State.scoredEvent_evicts (h : s.findEntry rank row = none) (full : 1024 ≤ s.table.length) {v : FaultEntry}
    (hv : victimOf s.table = some v) (light : v.score ≤ weight) :
    s.scoredEvent rank row weight named t =
      (s.removeEntry v.rank v.row).createEntry rank row weight (s.joiningDevices rank named) t := by
  rw [State.scoredEvent_full named t h full, hv]
  exact if_pos light

end

/-! ## The examination of an entry's retire state (R68, R69, R131) -/

section
variable {s : State} {rank : Nat}

theorem State.retireObstacle_off (h : s.policy.autoRetire ≠ 1) : s.retireObstacle rank = some 1 := if_pos h

theorem State.retireObstacle_noSpare (h : s.policy.autoRetire = 1) (hspare : s.freeSpares rank ≤ s.waitingCount rank) :
    s.retireObstacle rank = some 2 := (if_neg (not_not.2 h)).trans (if_pos hspare)

theorem State.retireObstacle_behind (h : s.policy.autoRetire = 1) (hspare : s.waitingCount rank < s.freeSpares rank) :
    s.retireObstacle rank = if 8 ≤ s.migrationQueue.length then some 3 else none :=
  (if_neg (not_not.2 h)).trans (if_neg (Nat.not_le.2 hspare))

variable {row : Nat} {e : FaultEntry} (he : s.findEntry rank row = some e)
include he

theorem State.examineRetire_pending (h : e.retire = .pending) : s.examineRetire rank row = s := by
  simp only [State.examineRetire, he, h]

theorem State.examineRetire_advised (h : e.retire = .advised) : s.examineRetire rank row =
    if s.retireObstacle rank = none then s.retireInternally rank row else s := by
  simp only [State.examineRetire, he, h]

theorem State.examineRetire_below (h : e.retire = .none) (hlow : e.score < s.policy.retireThreshold) :
    s.examineRetire rank row = s := by
  simp only [State.examineRetire, he, h]
  exact if_pos hlow

theorem State.examineRetire_unhindered (h : e.retire = .none) (hscore : s.policy.retireThreshold ≤ e.score)
    (hobstacle : s.retireObstacle rank = none) : s.examineRetire rank row = s.retireInternally rank row := by
  simp only [State.examineRetire, he, h, hobstacle]
  exact if_neg (Nat.not_lt.2 hscore)

theorem State.examineRetire_hindered (h : e.retire = .none) (hscore : s.policy.retireThreshold ≤ e.score) {c : Nat}
    (hobstacle : s.retireObstacle rank = some c) : s.examineRetire rank row =
      (s.setRetire rank row .advised).handPlain (.retireAdvised e.score c) none rank row [] := by
  simp only [State.examineRetire, he, h, hobstacle]
  exact if_neg (Nat.not_lt.2 hscore)

end

/-! ## The examination of a device (R73, R75) -/

theorem State.isSuspect_clearSuspects_same (s : State) {rank : Nat} (hr : rank < 4) (d : Nat) :
    (s.clearSuspects rank).isSuspect rank d =
      (s.isSuspect rank d && decide (s.policy.markThreshold ≤ s.tally rank d)) := by
  simp [s.isSuspect_clearSuspects hr]

section
variable {s : State} {rank device : Nat} {again : Bool}

theorem State.examineDevice_below (h : s.tally rank device < s.policy.markThreshold) :
    s.examineDevice rank device again = s := if_pos h

theorem State.examineDevice_flagged (h : s.isSuspect rank device = true) (hagain : again = false) :
    s.examineDevice rank device again = s := by
  unfold State.examineDevice
  simp [h, hagain]

/-- A device at the mark threshold is dealt with by its state, unless its flag stands and counts. -/
theorem State.examineDevice_reached (h : s.policy.markThreshold ≤ s.tally rank device)
    (hflag : s.isSuspect rank device = false ∨ again = true) : s.examineDevice rank device again =
      if (s.rankDevices rank).stateOf device = .marked ∨ (s.rankDevices rank).stateOf device = .replaced then s
      else if (s.rankDevices rank).stateOf device = .active ∧ s.policy.autoMark = 1 ∧
          (s.rankDevices rank).markedDevice = none then s.markDevice rank device .rebuild .auto
      else s.makeSuspect rank device := by
  have counted : ¬ (s.isSuspect rank device && !again) = true := by grind
  rw [State.examineDevice, if_neg (Nat.not_lt.2 h), if_neg counted]
  cases (s.rankDevices rank).stateOf device <;> simp

theorem State.makeSuspect_again (h : s.isSuspect rank device = true) : s.makeSuspect rank device = s := if_pos h

/-- The state with a device's flag set, before the record of it. -/
def State.flagged (s : State) (rank device : Nat) : State :=
  s.setSuspects rank (addToSet (nth s.suspects rank 0) device)

theorem State.makeSuspect_first (h : s.isSuspect rank device = false) : s.makeSuspect rank device =
    (s.flagged rank device).handPlain (.deviceSuspect (s.tally rank device)) none rank 0 [device] :=
  if_neg (by rw [h]; decide)

theorem State.isSuspect_flagged (hr : rank < 4) (r : Nat) {d : Nat} (hd : d < 20) :
    (s.flagged rank device).isSuspect r d = (s.isSuspect r d || decide (r = rank ∧ d = device)) := by
  rw [State.flagged, State.isSuspect_setSuspects s hr]
  split
  · next h => rw [inSet_addToSet _ hd, State.isSuspect, h]; simp
  · next h => simp [h]

end

/-- Settles O43: each of the four acts by its own cases, and the victim is the least in `weaker`. -/
theorem scoredEventUpdatesTable : Obligations.ScoredEventUpdatesTable := by
  refine ⟨fun s rank row weight named t => ⟨fun e h => State.scoredEvent_found named t h,
      State.scoredEvent_created named t, State.scoredEvent_untracked named t, fun v h full hv hnone light weakest _ =>
        State.scoredEvent_evicts named t h full (victimOf_weakest hv hnone weakest) light⟩,
    fun s rank row weight devices t => ⟨rfl, ⟨_, rfl⟩, fun d hr _ => ?_⟩, fun s rank row risen => ?_,
    fun s rank device again => ⟨State.examineDevice_below, State.examineDevice_flagged, fun h hflag => ?_⟩,
    fun s rank which again => ⟨(s.devicesByTally rank).filter which, fun d => ?_,
      (s.devicesByTally_pairwise rank).filter which, rfl⟩,
    fun s => ⟨s.clearAllSuspects, rfl, s.clearAllSuspects_only, fun r d hr _ => s.isSuspect_clearAllSuspects hr d⟩⟩
  · exact State.isSuspect_clearSuspects_same _ hr d
  · refine ⟨rfl, State.retireObstacle_off, State.retireObstacle_noSpare,
      fun h hspare full => (State.retireObstacle_behind h hspare).trans (if_pos full),
      fun h hspare room => (State.retireObstacle_behind h hspare).trans (if_neg (Nat.not_le.2 room)), rfl,
      fun h => by rw [State.examineRetire, h], fun e he => ⟨State.examineRetire_pending he, fun h hobstacle => ?_,
        fun h hobstacle => ?_, State.examineRetire_below he, State.examineRetire_unhindered he,
        fun c h hscore => State.examineRetire_hindered he h hscore⟩⟩
    · exact (State.examineRetire_advised he h).trans (if_pos hobstacle)
    · exact (State.examineRetire_advised he h).trans (if_neg hobstacle)
  · rw [State.examineDevice_reached h hflag]
    refine ⟨fun hstate => if_pos hstate, fun hactive hauto hfree => ?_, fun hstate => ?_⟩
    · rw [if_neg (by simp [hactive]), if_pos ⟨hactive, hauto, hfree⟩]
    · rw [if_neg (by grind), if_neg (by grind)]
      refine ⟨State.makeSuspect_again, fun hclear hr hd => ⟨s.flagged rank device, State.makeSuspect_first hclear, ?_,
        fun r d _ hd' hother => ?_, rfl⟩⟩
      · rw [State.isSuspect_flagged hr rank hd]
        simp
      · rw [State.isSuspect_flagged hr r hd', decide_eq_false hother, Bool.or_false]
  · rw [List.mem_filter, State.mem_devicesByTally]

end Sys2Proof.Machine
end

section
/-! PROOFS. O42: the lines of EXPORT TABLES hold the fields of the snapshot, and enter the writer one at a time. -/

namespace Sys2Proof.Machine

/-! ## Fields that lie apart (section 10.6) -/

theorem HoldsFields.of_eq {l : Line} {fs gs : List FieldValue} (hl : l = lineOfFields gs) (hfs : fs = gs)
    (h : fieldsApart gs = true) : HoldsFields l fs := by
  rw [hl, hfs]
  exact holdsFields_lineOfFields gs h

theorem fieldsApart_bytes {n : Nat} (hn : n ≤ 64) (f : Nat → Nat) :
    fieldsApart ((List.range n).map fun b => byteField b (f b)) = true := by
  refine fieldsApart_of_ascending _ (List.pairwise_map.2 (List.pairwise_lt_range.imp fun h => Nat.succ_le_of_lt h)) ?_
  intro g hg
  obtain ⟨b, hb, rfl⟩ := List.mem_map.1 hg
  have : b < n := List.mem_range.1 hb
  show b + 1 ≤ 64
  omega

/-- Places of `size` bytes follow one another, as do the fields within each place. -/
theorem recordFields_ascending (size : Nat) {records : List (List FieldValue)}
    (h : ∀ fs ∈ records, fs.Pairwise (fun f g => f.off + f.bytes ≤ g.off) ∧ ∀ f ∈ fs, f.off + f.bytes ≤ size) :
    (records.zipIdx.flatMap fun r => fieldsAt (size * r.2) r.1).Pairwise fun f g => f.off + f.bytes ≤ g.off := by
  have indices : records.zipIdx.Pairwise fun a b => a.2 < b.2 := by
    rw [← List.pairwise_map (f := Prod.snd), List.zipIdx_map_snd]
    exact List.pairwise_lt_range'
  refine List.pairwise_flatMap.2 ⟨fun r hr => ?_, indices.imp_of_mem fun {a b} ha _ hab f hf g hg => ?_⟩
  · refine List.pairwise_map.2 ((h r.1 (List.fst_mem_of_mem_zipIdx hr)).1.imp fun {f g} hfg => ?_)
    show size * r.2 + f.off + f.bytes ≤ size * r.2 + g.off
    omega
  · obtain ⟨x, hx, rfl⟩ := List.mem_map.1 hf
    obtain ⟨y, hy, rfl⟩ := List.mem_map.1 hg
    have fits := (h a.1 (List.fst_mem_of_mem_zipIdx ha)).2 x hx
    show size * a.2 + x.off + x.bytes ≤ size * b.2 + y.off
    calc size * a.2 + x.off + x.bytes ≤ size * (a.2 + 1) := by rw [Nat.mul_succ]; omega
      _ ≤ size * b.2 := Nat.mul_le_mul_left _ hab
      _ ≤ size * b.2 + y.off := Nat.le_add_right _ _

theorem recordFields_within (size : Nat) {records : List (List FieldValue)} (hsize : size * records.length ≤ 64)
    (h : ∀ fs ∈ records, ∀ f ∈ fs, f.off + f.bytes ≤ size) :
    ∀ f ∈ records.zipIdx.flatMap (fun r => fieldsAt (size * r.2) r.1), f.off + f.bytes ≤ 64 := by
  intro f hf
  obtain ⟨r, hr, hf⟩ := List.mem_flatMap.1 hf
  obtain ⟨x, hx, rfl⟩ := List.mem_map.1 hf
  have fits := h r.1 (List.fst_mem_of_mem_zipIdx hr) x hx
  have index : r.2 < records.length := List.snd_lt_of_mem_zipIdx hr
  show size * r.2 + x.off + x.bytes ≤ 64
  calc size * r.2 + x.off + x.bytes ≤ size * (r.2 + 1) := by rw [Nat.mul_succ]; omega
    _ ≤ size * records.length := Nat.mul_le_mul_left _ index
    _ ≤ 64 := hsize

theorem recordLine_holds {size : Nat} {records : List (List FieldValue)} (hsize : size * records.length ≤ 64)
    (h : ∀ fs ∈ records, fs.Pairwise (fun f g => f.off + f.bytes ≤ g.off) ∧ ∀ f ∈ fs, f.off + f.bytes ≤ size) :
    HoldsFields (recordLine size records) (records.zipIdx.flatMap fun r => fieldsAt (size * r.2) r.1) :=
  holdsFields_lineOfFields _ (fieldsApart_of_ascending _ (recordFields_ascending size h)
    (recordFields_within size hsize fun fs hfs => (h fs hfs).2))

/-! ## The order of the snapshot's entries (R79, R142) -/

/-- Sorted by rank, then by row. -/
theorem pairwise_sortedByRow {α : Type} (rank row : α → Nat) (l : List α) :
    (List.insertionSort (fun a b => rank a < rank b ∨ (rank a = rank b ∧ row a ≤ row b)) l).Pairwise
      fun a b => rank a < rank b ∨ (rank a = rank b ∧ row a ≤ row b) :=
  @List.pairwise_insertionSort α (fun a b => rank a < rank b ∨ (rank a = rank b ∧ row a ≤ row b)) _
    ⟨fun a b => by omega⟩ ⟨fun a b c => by omega⟩ l

theorem sortedRemaps_perm (l : List RemapEntry) : (sortedRemaps l).Perm l := List.perm_insertionSort _ l

theorem sortedEntries_perm (l : List FaultEntry) : (sortedEntries l).Perm l := List.perm_insertionSort _ l

/-- The lines of a list of records are as many as they fill, and hold the records' fields. -/
theorem recordLines_of_fields {α : Type} (first perLine size : Nat) {l : List α} {n : Nat} (hn : l.length = n)
    {f g : α → List FieldValue} (h : ∀ e, f e = g e) : recordLines first (linesFor n perLine) perLine size (l.map f) =
      (List.range ((l.length + perLine - 1) / perLine)).map fun i =>
        (first + i, recordLine size (((l.map g).drop (perLine * i)).take perLine)) := by
  rw [funext h, hn]
  rfl

/-! ## The fields of a rank's lines (section 10.6) -/

theorem SpareState.code_le (x : SpareState) : x.code ≤ 2 := by cases x <;> decide

/-- The byte of the four spare rows from `4 b` up. -/
def State.spareByte (s : State) (rank b : Nat) : Nat :=
  (s.spareState rank (4 * b)).code + 4 * (s.spareState rank (4 * b + 1)).code +
    16 * (s.spareState rank (4 * b + 2)).code + 64 * (s.spareState rank (4 * b + 3)).code

theorem State.spareLine_holds (s : State) (rank : Nat) :
    HoldsFields (s.spareLine rank) ((List.range 32).map fun b => byteField b (s.spareByte rank b)) :=
  holdsFields_lineOfFields _ (fieldsApart_bytes (by decide) _)

theorem State.spareByte_code (s : State) (rank b : Nat) {k : Nat} (hk : k < 4) :
    s.spareByte rank b % 256 / 4 ^ k % 4 = (s.spareState rank (4 * b + k)).code := by
  have c0 := (s.spareState rank (4 * b)).code_le
  have c1 := (s.spareState rank (4 * b + 1)).code_le
  have c2 := (s.spareState rank (4 * b + 2)).code_le
  have c3 := (s.spareState rank (4 * b + 3)).code_le
  unfold State.spareByte
  interval_cases k <;> (norm_num; omega)

theorem State.spareLine_code (s : State) (rank : Nat) {x : Nat} (hx : x < 128) :
    lineField (s.spareLine rank) (x / 4) 1 / 4 ^ (x % 4) % 4 = (s.spareState rank x).code := by
  have byte : lineField (s.spareLine rank) (x / 4) 1 = s.spareByte rank (x / 4) % 256 :=
    (s.spareLine_holds rank).1 _ (List.mem_map.2 ⟨x / 4, List.mem_range.2 (by omega), rfl⟩)
  rw [byte, s.spareByte_code rank (x / 4) (Nat.mod_lt x (by decide)), Nat.div_add_mod]

theorem State.spareLine_zero (s : State) (rank : Nat) {b : Nat} (h : 32 ≤ b) (hb : b < 64) :
    lineField (s.spareLine rank) b 1 = 0 := by
  refine (s.spareLine_holds rank).2 b hb fun f hf => ?_
  obtain ⟨c, hc, rfl⟩ := List.mem_map.1 hf
  have : c < 32 := List.mem_range.1 hc
  exact .inr (show c + 1 ≤ b by omega)

/-! ## EXPORT TABLES and its lines (R171) -/

theorem exec_exportTables {s : State} {slot : Nat} {l : Line} (h : s.DispatchDue slot l 8) :
    exec .exportTables s = .next ((s.endTake slot l).takeExport slot l).finish := by
  obtain ⟨-, -, -, -, hkind, -⟩ := id h
  exact onOrder_of_due h rfl (by simp [hkind]) State.takeExport

theorem exec_exportLineEntry {s : State} (h : s.handOff = none) :
    exec .exportLineEntry s = .next s.admitExportLine.finish := act_next h

section
variable {s : State} {j : ExportJob} {offset : Nat} {line : Line}

theorem State.admitExportLine_more (hmay : s.mayEnter .exportLine = true) (hj : s.exportJob = some j) {next : Nat × Line}
    {rest : List (Nat × Line)} (hlines : j.lines = (offset, line) :: next :: rest) : s.admitExportLine =
      { s with writer := s.writer ++ [.line (4096 + offset) line], exportJob := some { j with lines := next :: rest },
               waiters := s.waiters.erase .exportLine ++ [.exportLine] } := by
  simp only [State.admitExportLine, if_pos hmay, hj, hlines]
  rfl

theorem State.admitExportLine_last (hmay : s.mayEnter .exportLine = true) (hj : s.exportJob = some j)
    (hlines : j.lines = [(offset, line)]) : s.admitExportLine = State.finishTaken
      { s with writer := s.writer ++ [.line (4096 + offset) line], exportJob := none,
               waiters := s.waiters.erase .exportLine } j.slot .ok .none (j.results s.exportNumber) := by
  simp only [State.admitExportLine, if_pos hmay, hj, hlines]
  rfl

end

/-- Settles O42: each line is read off its list of fields, whose places lie apart. -/
theorem exportWritesItsSnapshot : Obligations.ExportWritesItsSnapshot := by
  refine ⟨⟨Config.exportSlotOfNone.toNat, Config.exportCursorOfWaiting.toNat, fun s number =>
      ⟨s.exportHeader number, fun r => (s.rankDevices r).mapLine, s.tallyLine, s.spareLine, sortedRemaps s.remaps,
        sortedEntries s.table, s.retirementRecords, ?_, ?_, sortedRemaps_perm _,
        pairwise_sortedByRow RemapEntry.rank RemapEntry.row _, sortedEntries_perm _,
        pairwise_sortedByRow FaultEntry.rank FaultEntry.row _, holdsFields_lineOfFields _ rfl, ?_⟩⟩,
    fun size records => recordLine_holds, rfl, fun s slot l => ⟨fun hdue => ⟨_, _, exec_exportTables hdue, rfl, rfl⟩,
      fun j offset line next rest hnone hmay hj hlines => ?_, fun j offset line hnone hmay hj hlines => ?_⟩⟩
  · refine congrArg₂ (· ++ ·) (congrArg₂ (· ++ ·) rfl ?_) ?_
    · refine recordLines_of_fields 16 4 16 (sortedRemaps_perm _).length_eq fun e => ?_
      unfold RemapEntry.fields
      cases e.state <;> rfl
    · refine recordLines_of_fields 256 2 32 (sortedEntries_perm _).length_eq fun e => ?_
      unfold FaultEntry.fields
      cases e.retire <;> rfl
  · unfold State.retirementRecords
    cases hm : s.migration with
    | none => rfl
    | some m =>
      have entry : s.migratingEntry = s.findRemap m.rank m.row := by rw [State.migratingEntry, hm]; rfl
      show [s.migratingRecord m] ++ _ = _
      rw [State.migratingRecord, entry]
      rfl
  · rintro r d rfl
    refine ⟨HoldsFields.of_eq rfl ?_ ?_, HoldsFields.of_eq rfl rfl ?_, fun x _ => rfl, fun b => s.spareLine_zero r,
      fun x hx => (s.spareLine_code r hx).trans ?_⟩
    · refine congrArg₂ (· ++ ·) (congrArg₂ (· ++ ·) (List.map_congr_left fun x _ => congrArg (FieldValue.mk x 1) ?_) rfl) rfl
      cases (s.rankDevices r).stateOf x <;> rfl
    · rfl
    · rfl
    · cases s.spareState r x <;> rfl
  · rw [exec_exportLineEntry hnone, State.admitExportLine_more hmay hj hlines]
  · rw [exec_exportLineEntry hnone, State.admitExportLine_last hmay hj hlines]
    rfl

end Sys2Proof.Machine
end

section
/-! PROOFS. O45: the held time ahead as a count of instants, and the pace review. -/

namespace Sys2Proof.Machine

/-! ## The time left and the held time ahead (R90, R105) -/

theorem State.timeLeft_ahead {s : State} (h : laterThan s.patrol.passEnd s.time = true) :
    s.timeLeft = (s.patrol.passEnd - s.time).toNat := if_pos h

theorem State.timeLeft_passed {s : State} (h : laterThan s.patrol.passEnd s.time = false) : s.timeLeft = 0 :=
  if_neg (Bool.eq_false_iff.1 h)

theorem hasReached_eq_false {now t : PartTime} : hasReached now t = false ↔ laterThan t now = true := by
  simp [hasReached]

theorem hasReached_eq_true {now t : PartTime} : hasReached now t = true ↔ laterThan t now = false := by
  simp [hasReached]

/-- The window will hold patrol `k` microseconds from `now` (R90). -/
def WindowEntry.HoldsPatrolAt (w : WindowEntry) (now : PartTime) (k : Nat) : Prop :=
  (w.state = .armed ∨ w.state = .active) ∧ w.scope.getLsbD 0 = true ∧ laterThan w.stop now = true ∧
    k < (w.stop - now).toNat ∧ (w.state = .armed → laterThan w.start now = true → (w.start - now).toNat ≤ k)

/-- Below `ahead`, a span begins where its window begins to hold patrol: now for one that has started. -/
theorem WindowEntry.spanStart_le {w : WindowEntry} (hlive : w.state = .armed ∨ w.state = .active) {now : PartTime}
    {ahead k : Nat} (hk : k < ahead) :
    (if w.state = .active ∨ hasReached now w.start = true then 0 else min ahead (durationFromTo now w.start)) ≤ k ↔
      (w.state = .armed → laterThan w.start now = true → (w.start - now).toNat ≤ k) := by
  split
  · next started =>
    refine iff_of_true (Nat.zero_le k) fun harmed hlater => ?_
    rcases started with hactive | hreached
    · exact WindowState.noConfusion (harmed.symm.trans hactive)
    · exact absurd hlater (Bool.eq_false_iff.1 (hasReached_eq_true.1 hreached))
  · next waiting =>
    obtain ⟨hactive, hreached⟩ := not_or.1 waiting
    have hstart : min ahead (durationFromTo now w.start) ≤ k ↔ (w.start - now).toNat ≤ k := by
      unfold durationFromTo
      omega
    have hlater := hasReached_eq_false.1 (Bool.eq_false_iff.2 hreached)
    exact hstart.trans ⟨fun h _ _ => h, fun h => h (hlive.resolve_right hactive) hlater⟩

theorem WindowEntry.mem_spanAhead (w : WindowEntry) (now : PartTime) (ahead k : Nat) :
    (∃ span, w.spanAhead now ahead = some span ∧ span.1 ≤ k ∧ k < span.2) ↔ k < ahead ∧ w.HoldsPatrolAt now k := by
  unfold WindowEntry.spanAhead
  split
  · next counts =>
    obtain ⟨hlive, hscope, hstop⟩ := counts
    have hlater := hasReached_eq_false.1 hstop
    constructor
    · rintro ⟨_, hspan, hfrom, hto⟩
      obtain rfl := Option.some.inj hspan
      obtain ⟨hk, hto⟩ := Nat.lt_min.1 hto
      exact ⟨hk, hlive, hscope, hlater, hto, (w.spanStart_le hlive hk).1 hfrom⟩
    · rintro ⟨hk, -, -, -, hto, hfrom⟩
      exact ⟨_, rfl, (w.spanStart_le hlive hk).2 hfrom, Nat.lt_min.2 ⟨hk, hto⟩⟩
  · next apart =>
    refine iff_of_false (fun ⟨_, h, _⟩ => nomatch h) fun ⟨_, hlive, hscope, hstop, _⟩ => ?_
    exact apart ⟨hlive, hscope, hasReached_eq_false.2 hstop⟩

/-- The held time ahead counts each instant in which some window will hold patrol once (R90). -/
theorem State.heldTimeAhead_eq_ncard (s : State) :
    s.heldTimeAhead = Set.ncard {k | k < s.timeLeft ∧ ∃ i, i < 32 ∧ (s.window i).HoldsPatrolAt s.time k} := by
  rw [State.heldTimeAhead, unionLength_eq]
  congr 1
  ext k
  simp only [Set.mem_ofPred_eq, List.mem_filterMap, Vector.mem_toList_iff]
  constructor
  · rintro ⟨span, ⟨w, hw, hspan⟩, hk⟩
    obtain ⟨hleft, holds⟩ := (w.mem_spanAhead s.time s.timeLeft k).1 ⟨span, hspan, hk⟩
    obtain ⟨i, hi, rfl⟩ := Vector.getElem_of_mem hw
    exact ⟨hleft, i, hi, by rwa [s.window_eq_getElem hi]⟩
  · rintro ⟨hleft, i, hi, holds⟩
    rw [s.window_eq_getElem hi] at holds
    obtain ⟨span, hspan, hk⟩ := (WindowEntry.mem_spanAhead _ s.time s.timeLeft k).2 ⟨hleft, holds⟩
    exact ⟨span, ⟨_, Vector.getElem_mem hi, hspan⟩, hk⟩

/-! ## The review (R106, R111) -/

theorem State.askReview_ready {s : State} (h : s.ready = true) : s.askReview = s.review := if_pos h

theorem State.askReview_notReady {s : State} (h : s.ready = false) : s.askReview = s := if_neg (Bool.eq_false_iff.1 h)

theorem State.review_of_no_lines {s : State} (h : s.linesRemaining = 0) : s.review = s := if_pos h

theorem State.review_of_no_intervals {s : State} (hl : 1 ≤ s.linesRemaining) (hi : s.unheldIntervals = 0) :
    s.review = { s with patrol := { s.patrol with rate := rateMax s.policy, atRisk := true } } := by
  rw [State.review, if_neg (Nat.one_le_iff_ne_zero.1 hl), if_pos hi]

theorem State.review_of_intervals {s : State} (hl : 1 ≤ s.linesRemaining) (hi : 1 ≤ s.unheldIntervals) :
    s.review =
      { s with patrol := { s.patrol with
          rate := min (rateMax s.policy) (max s.policy.minRate (rawRate s.linesRemaining s.unheldIntervals)),
          atRisk := decide (rateMax s.policy < rawRate s.linesRemaining s.unheldIntervals) } } := by
  rw [State.review, if_neg (Nat.one_le_iff_ne_zero.1 hl), if_neg (Nat.one_le_iff_ne_zero.1 hi)]

/-- The rate is the quotient rounded up: the least that visits the lines in the intervals. -/
theorem rawRate_eq {lines intervals raw : Nat} (h : lines * 256 ≤ raw * intervals)
    (h' : raw * intervals < lines * 256 + intervals) : rawRate lines intervals = raw := by
  refine Nat.div_eq_of_lt_le ?_ ?_
  · omega
  · rw [Nat.succ_mul]
    omega

/-- Settles O45: the review by its three cases, and the held time as the length of a union of spans. -/
theorem reviewSetsRate : Obligations.ReviewSetsRate := by
  refine ⟨fun s => ⟨State.askReview_ready, State.askReview_notReady, State.timeLeft_ahead, State.timeLeft_passed,
    s.heldTimeAhead_eq_ncard⟩, ?_⟩
  rintro s _ _ _ rfl rfl rfl
  refine ⟨State.review_of_no_lines, State.review_of_no_intervals, fun raw hl hi h h' => ?_⟩
  rw [State.review_of_intervals hl hi]
  have raw_eq : rawRate s.linesRemaining s.unheldIntervals = raw := rawRate_eq h h'
  rw [raw_eq]
  rfl

end Sys2Proof.Machine
end

section
/-! PROOFS. O25, O26: the window records handed over, and the windows that part time starts and ends. -/

namespace Sys2Proof.Machine

/-! ## The write of a window record (R85) -/

theorem State.requestRecord_waits (s : State) (record : Nat) :
    (s.requestRecord record).recordWriteWaits record = true := by
  unfold State.requestRecord
  split
  · next waits => exact waits
  · unfold State.requestItem
    split
    · simp [State.recordWriteWaits]
    · simp [State.recordWriteWaits]

theorem State.requestRecord_only (s : State) (record : Nat) :
    s.requestRecord record =
      { s with writer := (s.requestRecord record).writer, waiters := (s.requestRecord record).waiters } := by
  obtain ⟨q, w, h⟩ := s.requestRecord_frame record
  rw [h]

/-- Put a mirror entry in place and ask for the write of its record (R85). -/
def State.rewriteWindow (s : State) (record : Nat) (w : WindowEntry) : State :=
  (s.setWindow record w).requestRecord record

theorem State.rewriteWindow_waits (s : State) (record : Nat) (w : WindowEntry) :
    (s.rewriteWindow record w).recordWriteWaits record = true := State.requestRecord_waits _ _

theorem State.rewriteWindow_only (s : State) (record : Nat) (w : WindowEntry) :
    s.rewriteWindow record w =
      { s with windows := put s.windows record w, writer := (s.rewriteWindow record w).writer,
               waiters := (s.rewriteWindow record w).waiters } := State.requestRecord_only _ _

/-! ## Arming (R84) -/

theorem WindowEntry.clamped_long {w : WindowEntry} (h : laterThan w.stop w.start = true)
    (long : 14400000000 < durationFromTo w.start w.stop) :
    w.clamped = { w with stop := timeAfter w.start 14400000000 } := if_pos ⟨h, long⟩

theorem WindowEntry.clamped_short {w : WindowEntry}
    (h : laterThan w.stop w.start = false ∨ durationFromTo w.start w.stop ≤ 14400000000) : w.clamped = w := by
  refine if_neg fun ⟨hlater, long⟩ => ?_
  rcases h with h | short
  · exact absurd hlater (Bool.eq_false_iff.1 h)
  · exact absurd long (Nat.not_lt.2 short)

/-- The clamp changes the end alone. -/
theorem WindowEntry.clamped_only_stop (w : WindowEntry) : w.clamped = { w with stop := w.clamped.stop } := by
  unfold WindowEntry.clamped
  split
  · rfl
  · rfl

theorem WindowEntry.armedState_past {w : WindowEntry} {now : PartTime}
    (h : laterThan w.stop w.start = false ∨ hasReached now w.stop = true) : w.armedState now = .past := if_pos h

theorem WindowEntry.armedState_of_open {w : WindowEntry} {now : PartTime} (h : laterThan w.stop w.start = true)
    (hstop : hasReached now w.stop = false) :
    w.armedState now = if hasReached now w.start = true then .active else .armed := by
  refine if_neg fun past => ?_
  rcases past with hpast | hpast
  · exact Bool.false_ne_true (hpast.symm.trans h)
  · exact Bool.false_ne_true (hstop.symm.trans hpast)

theorem WindowEntry.armedState_withState (w : WindowEntry) (st : WindowState) (now : PartTime) :
    WindowEntry.armedState { w with state := st } now = w.armedState now := rfl

section
variable (l : Line) (now : PartTime)

theorem armedEntry_stop : (armedEntry l now).stop = (windowOfLine l .armed).clamped.stop := by rw [armedEntry]

/-- The start, the scope and the tag of an armed entry are those of its line. -/
theorem armedEntry_of_line :
    (armedEntry l now).start = (windowOfLine l .armed).start ∧ (armedEntry l now).scope = (windowOfLine l .armed).scope ∧
      (armedEntry l now).tag = (windowOfLine l .armed).tag := by
  rw [armedEntry, (windowOfLine l .armed).clamped_only_stop]
  exact ⟨rfl, rfl, rfl⟩

/-- An armed entry's state is that of its own times: the clamp comes first (R84). -/
theorem armedEntry_state : (armedEntry l now).state = (armedEntry l now).armedState now :=
  (WindowEntry.armedState_withState _ _ _).symm

end

/-- The record is written back for every outcome but an ARMED one whose end was not cut (R84). -/
theorem armingWrites_iff (l : Line) (now : PartTime) :
    armingWrites l now = true ↔
      (armedEntry l now).state ≠ .armed ∨ (armedEntry l now).stop ≠ BitVec.ofNat 48 (lineField l 16 6) := by
  have cut : (windowOfLine l .armed).clamped ≠ windowOfLine l .armed ↔
      (armedEntry l now).stop ≠ BitVec.ofNat 48 (lineField l 16 6) := by
    refine not_congr ⟨congrArg WindowEntry.stop, fun h => ?_⟩
    have kept : (windowOfLine l .armed).clamped.stop = BitVec.ofNat 48 (lineField l 16 6) := h
    rw [WindowEntry.clamped_only_stop, kept]
    rfl
  rw [armingWrites, Bool.or_eq_true, decide_eq_true_eq, decide_eq_true_eq, cut]

theorem State.armWindow_writes {l : Line} {now : PartTime} (h : armingWrites l now = true) (s : State) (record : Nat) :
    s.armWindow record l now = s.rewriteWindow record (armedEntry l now) := if_pos h

theorem State.armWindow_plain {l : Line} {now : PartTime} (h : armingWrites l now = false) (s : State) (record : Nat) :
    s.armWindow record l now = s.setWindow record (armedEntry l now) := if_neg (Bool.eq_false_iff.1 h)

theorem State.armWindow_only (s : State) (record : Nat) (l : Line) (now : PartTime) :
    s.armWindow record l now =
      { s with windows := put s.windows record (armedEntry l now), writer := (s.armWindow record l now).writer,
               waiters := (s.armWindow record l now).waiters } := by
  cases h : armingWrites l now with
  | true =>
    rw [State.armWindow_writes h]
    exact s.rewriteWindow_only record _
  | false =>
    rw [State.armWindow_plain h]
    rfl

theorem State.armWindow_unwritten (s : State) (record : Nat) {l : Line} {now : PartTime}
    (harmed : (armedEntry l now).state = .armed)
    (huncut : (armedEntry l now).stop = BitVec.ofNat 48 (lineField l 16 6)) :
    (s.armWindow record l now).writer = s.writer ∧ (s.armWindow record l now).waiters = s.waiters := by
  have plain : armingWrites l now = false := Bool.eq_false_iff.2 fun h => by
    rcases (armingWrites_iff l now).1 h with hstate | hstop
    · exact hstate harmed
    · exact hstop huncut
  rw [State.armWindow_plain plain]
  exact ⟨rfl, rfl⟩

theorem State.armWindow_written (s : State) (record : Nat) {l : Line} {now : PartTime}
    (h : (armedEntry l now).state ≠ .armed ∨ (armedEntry l now).stop ≠ BitVec.ofNat 48 (lineField l 16 6)) :
    (s.armWindow record l now).recordWriteWaits record = true := by
  rw [State.armWindow_writes ((armingWrites_iff l now).2 h)]
  exact s.rewriteWindow_waits record _

/-! ## The hand-off of a record line (R83) -/

theorem recordOfOffset_record {record : Nat} (h : record < 32) : recordOfOffset (16 + record) = some record := by
  rw [recordOfOffset, if_pos ⟨by omega, by omega⟩, Nat.add_sub_cancel_left]

theorem State.windowHandOff_arm (s : State) (record : Nat) {l : Line} (h : windowStateField l = 1) :
    s.windowHandOff record l = (s.armWindow record l s.time).askReview := if_pos h

theorem State.windowHandOff_cancel (s : State) (record : Nat) {l : Line} (h : windowStateField l = 4) :
    s.windowHandOff record l = (s.rewriteWindow record WindowEntry.emptyEntry).askReview := by
  rw [State.windowHandOff, if_neg (by omega), if_pos h]
  rfl

theorem State.windowHandOff_empty (s : State) (record : Nat) {l : Line} (h : windowStateField l = 0) :
    s.windowHandOff record l = (s.setWindow record WindowEntry.emptyEntry).askReview := by
  rw [State.windowHandOff, if_neg (by omega), if_neg (by omega), if_pos h]

theorem State.windowHandOff_other (s : State) (record : Nat) {l : Line} (h0 : windowStateField l ≠ 0)
    (h1 : windowStateField l ≠ 1) (h4 : windowStateField l ≠ 4) : s.windowHandOff record l = s.requestRecord record := by
  rw [State.windowHandOff, if_neg h1, if_neg h4, if_neg h0]

section
variable {s : State} {h : HandOff} {record : Nat}

theorem onRecord_next (hs : s.handOff = some h) (ho : h.offset = 16 + record) (hr : record < 32) {p : Nat → Bool}
    (hp : p (windowStateField h.line) = true) :
    onHandOff (fun h => h.isRecord p) State.actOnRecord s =
      .next (State.windowHandOff { s with handOff := none } record h.line).finish := by
  have offset : recordOfOffset h.offset = some record := by rw [ho, recordOfOffset_record hr]
  have kind : h.isRecord p = true := by rw [HandOff.isRecord, offset, hp]; rfl
  rw [onHandOff, hs]
  dsimp only
  rw [if_pos kind, State.actOnRecord, offset]

theorem exec_windowArm (hs : s.handOff = some h) (ho : h.offset = 16 + record) (hr : record < 32)
    (hp : windowStateField h.line = 1) : exec .windowArm s =
      .next (State.windowHandOff { s with handOff := none } record h.line).finish :=
  onRecord_next hs ho hr (decide_eq_true hp)

theorem exec_windowCancel (hs : s.handOff = some h) (ho : h.offset = 16 + record) (hr : record < 32)
    (hp : windowStateField h.line = 4) : exec .windowCancel s =
      .next (State.windowHandOff { s with handOff := none } record h.line).finish :=
  onRecord_next hs ho hr (decide_eq_true hp)

theorem exec_windowEmpty (hs : s.handOff = some h) (ho : h.offset = 16 + record) (hr : record < 32)
    (hp : windowStateField h.line = 0) : exec .windowEmpty s =
      .next (State.windowHandOff { s with handOff := none } record h.line).finish :=
  onRecord_next hs ho hr (decide_eq_true hp)

theorem exec_windowStateNotActedOn (hs : s.handOff = some h) (ho : h.offset = 16 + record) (hr : record < 32)
    (h0 : windowStateField h.line ≠ 0) (h1 : windowStateField h.line ≠ 1) (h4 : windowStateField h.line ≠ 4) :
    exec .windowStateNotActedOn s = .next (State.windowHandOff { s with handOff := none } record h.line).finish :=
  onRecord_next hs ho hr (decide_eq_true ⟨h0, h1, h4⟩)

end

/-- Settles O25: the entry is that of the clamped times, and its record is written back unless the arming leaves the
host's own line true. -/
theorem windowArmSetsEntry : Obligations.WindowArmSetsEntry := by
  refine ⟨?_, fun s h record hs ho hr hp => ?_⟩
  · rintro l now _ rfl
    obtain ⟨start_eq, scope_eq, tag_eq⟩ := armedEntry_of_line l now
    refine ⟨start_eq, scope_eq, tag_eq, fun hlater long => ?_, fun short => ?_, fun past => ?_,
      fun hopen hstop hstart => ?_, fun hopen hstop hstart => ?_⟩
    · rw [start_eq] at hlater long ⊢
      rw [armedEntry_stop, WindowEntry.clamped_long hlater long]
    · rw [start_eq] at short
      rw [armedEntry_stop, WindowEntry.clamped_short short]
      rfl
    · rw [armedEntry_state, WindowEntry.armedState_past past]
    · rw [armedEntry_state, WindowEntry.armedState_of_open hopen hstop, if_pos hstart]
    · rw [armedEntry_state, WindowEntry.armedState_of_open hopen hstop, if_neg (Bool.eq_false_iff.1 hstart)]
  · refine ⟨State.armWindow { s with handOff := none } record h.line s.time, ?_, State.armWindow_only _ _ _ _,
      State.armWindow_unwritten _ _, State.armWindow_written _ _⟩
    rw [exec_windowArm hs ho hr hp, State.windowHandOff_arm _ _ hp]

/-! ## Starts and ends (R86) -/

theorem exec_windowStart {s : State} {record : Nat} (h : s.handOff = none) (hr : record < 32)
    (hd : s.startIsDue record = true) : exec (.windowStart record) s = .next (State.finish
      (s.rewriteWindow record { s.window record with state := .active }).askReview) := by
  show execWindowStart record s = _
  rw [execWindowStart, act_next h, if_pos ⟨hr, hd⟩]
  rfl

theorem State.mayEndNow_iff (s : State) (record : Nat) :
    s.mayEndNow record = true ↔ s.endIsDue record = true ∧ ∀ r, r < 32 → s.startIsDue r = false := by
  simp [State.mayEndNow]

theorem exec_windowEnd {s : State} {record : Nat} (h : s.handOff = none) (hr : record < 32)
    (hm : s.mayEndNow record = true) : exec (.windowEnd record) s = .next (State.finish
      (s.rewriteWindow record { s.window record with state := .past }).askReview) := by
  show execWindowEnd record s = _
  rw [execWindowEnd, act_next h, if_pos ⟨hr, hm⟩]
  rfl

theorem exec_windowEnd_start_due {s : State} (h : s.handOff = none) {r : Nat} (hr : r < 32)
    (hd : s.startIsDue r = true) (record : Nat) : exec (.windowEnd record) s = .next s.finish := by
  have waits : ¬ (record < 32 ∧ s.mayEndNow record = true) := fun ⟨_, hm⟩ =>
    Bool.false_ne_true ((((s.mayEndNow_iff record).1 hm).2 r hr).symm.trans hd)
  show execWindowEnd record s = _
  rw [execWindowEnd, act_next h, if_neg waits]

/-- Settles O26: each change is the entry put in place with its record's write, and the review it asks for. -/
theorem windowRecordsChangeState : Obligations.WindowRecordsChangeState := by
  refine ⟨fun s h record hs ho hr => ⟨fun hp => ⟨_, ?_, State.rewriteWindow_waits _ _ _,
    State.rewriteWindow_only { s with handOff := none } record WindowEntry.emptyEntry⟩, fun hp => ?_,
      fun h0 h1 h4 => ⟨_, ?_, State.requestRecord_waits _ _, State.requestRecord_only { s with handOff := none } record⟩⟩,
    fun record s h hr => ⟨fun harmed hstart => ⟨_, ?_, s.rewriteWindow_waits _ _, s.rewriteWindow_only _ _⟩,
      fun hactive hstop noStart => ⟨_, ?_, s.rewriteWindow_waits _ _, s.rewriteWindow_only _ _⟩,
      fun r hr' harmed hstart => exec_windowEnd_start_due h hr' ((s.startIsDue_iff r).2 ⟨harmed, hstart⟩) record⟩⟩
  · rw [exec_windowCancel hs ho hr hp, State.windowHandOff_cancel _ _ hp]
  · rw [exec_windowEmpty hs ho hr hp, State.windowHandOff_empty _ _ hp]
    rfl
  · rw [exec_windowStateNotActedOn hs ho hr h0 h1 h4, State.windowHandOff_other _ _ h0 h1 h4]
  · exact exec_windowStart h hr ((s.startIsDue_iff record).2 ⟨harmed, hstart⟩)
  · refine exec_windowEnd h hr ((s.mayEndNow_iff record).2 ⟨(s.endIsDue_iff record).2 ⟨hactive, hstop⟩, fun r hr' => ?_⟩)
    refine Bool.eq_false_iff.2 fun hd => ?_
    obtain ⟨harmed, hstart⟩ := (s.startIsDue_iff r).1 hd
    exact Bool.false_ne_true ((noStart r hr' harmed).symm.trans hstart)

end Sys2Proof.Machine
end

section
/-! PROOFS. O7: the restart re-reads the window records and the read mark. -/

namespace Sys2Proof.Machine

/-! ## The reads of the restart (R173) -/

theorem State.restartRead_ended {s : State} {step : RestartStep} {o : OwnRead} {line : Option Line}
    (hp : s.phase = .restarting step) (ho : s.ownRead = some o) (hl : o.stage = .ended line) :
    s.restartRead = some (step, line, o.readTime) := by
  simp only [State.restartRead, hp, ho, hl]

theorem State.beginRestartStep_after_window (s : State) (record : Nat) :
    s.beginRestartStep (RestartStep.windowReread record).next =
      { s with phase := .restarting (RestartStep.windowReread record).next,
               ownRead := some { reader := if record + 1 < 32 then .window (record + 1) else .mark,
                                 stage := .requested, readTime := s.time } } := by
  have next_eq : (RestartStep.windowReread record).next =
      if record + 1 < 32 then .windowReread (record + 1) else .markRead := rfl
  rw [next_eq]
  split
  · rfl
  · rfl

/-! ## A window record re-read (R84, R92) -/

section
variable (s : State) (record : Nat) {l : Line} (now : PartTime)

theorem State.rereadWindow_unusable :
    s.rereadWindow record none now = s.setWindow record WindowEntry.emptyEntry := rfl

theorem State.rereadWindow_empty (h : windowStateField l = 0) :
    s.rereadWindow record (some l) now = s.setWindow record WindowEntry.emptyEntry := if_pos h

theorem State.rereadWindow_armed (h : windowStateField l = 1 ∨ windowStateField l = 2) :
    s.rereadWindow record (some l) now = s.armWindow record l now := by
  rw [State.rereadWindow, if_neg (by omega), if_pos h]

theorem State.rereadWindow_past (h : windowStateField l = 3) :
    s.rereadWindow record (some l) now = s.setWindow record (windowOfLine l .past) := by
  rw [State.rereadWindow, if_neg (by omega), if_neg (by omega), if_pos h]

theorem State.rereadWindow_unknown (h : 4 ≤ windowStateField l) :
    s.rereadWindow record (some l) now = s.rewriteWindow record WindowEntry.emptyEntry := by
  rw [State.rereadWindow, if_neg (by omega), if_neg (by omega), if_neg (by omega)]
  rfl

/-- A re-read changes its own mirror entry, the writer and the waiting blocks. -/
theorem State.rereadWindow_frame (line : Option Line) :
    ∃ w q u, s.rereadWindow record line now =
      { s with windows := put s.windows record w, writer := q, waiters := u } := by
  cases line with
  | none => exact ⟨_, _, _, rfl⟩
  | some l =>
    rcases (by omega : windowStateField l = 0 ∨ (windowStateField l = 1 ∨ windowStateField l = 2) ∨
      windowStateField l = 3 ∨ 4 ≤ windowStateField l) with h | h | h | h
    · exact ⟨_, _, _, s.rereadWindow_empty record now h⟩
    · exact ⟨_, _, _, (s.rereadWindow_armed record now h).trans (s.armWindow_only record l now)⟩
    · exact ⟨_, _, _, s.rereadWindow_past record now h⟩
    · exact ⟨_, _, _, (s.rereadWindow_unknown record now h).trans (s.rewriteWindow_only record _)⟩

end

theorem State.setWindow_window (s : State) {record : Nat} (h : record < 32) (w : WindowEntry) :
    (s.setWindow record w).window record = w := nth_put_same _ _ _ _ h

theorem State.rewriteWindow_window (s : State) {record : Nat} (h : record < 32) (w : WindowEntry) :
    (s.rewriteWindow record w).window record = w := by
  rw [s.rewriteWindow_only]
  exact nth_put_same _ _ _ _ h

theorem State.armWindow_window (s : State) {record : Nat} (h : record < 32) (l : Line) (now : PartTime) :
    (s.armWindow record l now).window record = armedEntry l now := by
  rw [s.armWindow_only]
  exact nth_put_same _ _ _ _ h

/-! ## The read mark (R182) -/

theorem restartMark_within {w x : Count32} (h : (w - x).toNat ≤ 1024) : restartMark w x = x := if_pos h

theorem restartMark_ahead {w x : Count32} (h : 1 ≤ (x - w).toNat) (h' : (x - w).toNat ≤ 2147483648) :
    restartMark w x = w := by
  have far : ¬ (w - x).toNat ≤ 1024 := by bv_omega
  rw [restartMark, if_neg far, if_pos h']

theorem restartMark_behind {w x : Count32} (h : 1024 < (w - x).toNat) (h' : 2147483648 < (x - w).toNat) :
    restartMark w x = w - 1024 := by
  rw [restartMark, if_neg (Nat.not_le.2 h), if_neg (Nat.not_le.2 h')]

/-- The mark in force after the mark read of a restart: an unusable read leaves it. -/
def State.markAfterRead (s : State) : Option Line → Count32
  | none => s.journal.mark
  | some l => restartMark s.journal.published (markField l)

theorem State.rereadMark_frame (s : State) (line : Option Line) :
    ∃ w, s.rereadMark line =
      { s with journal := { s.journal with
                 mark := s.markAfterRead line,
                 roomArmed := decide (32 < 1024 - (s.journal.published - s.markAfterRead line).toNat) },
               waiters := w } := by
  cases line with
  | none => exact State.syncJournal_frame _
  | some l => exact State.syncJournal_frame _

/-! ## The two steps -/

section
variable {s : State} {o : OwnRead} {line : Option Line}

theorem exec_restartWindowReread (h : s.handOff = none) {record : Nat} (hp : s.phase = .restarting (.windowReread record))
    (ho : s.ownRead = some o) (hl : o.stage = .ended line) :
    exec .restartWindowReread s = .next (State.finish
      ((s.rereadWindow record line o.readTime).beginRestartStep (RestartStep.windowReread record).next)) := by
  show execRestartWindowReread s = _
  rw [execRestartWindowReread, act_next h]
  simp only [State.restartRead_ended hp ho hl]

theorem exec_restartMarkRead (h : s.handOff = none) (hp : s.phase = .restarting .markRead)
    (ho : s.ownRead = some o) (hl : o.stage = .ended line) :
    exec .restartMarkRead s = .next (State.finish ((s.rereadMark line).beginRestartStep .identity)) := by
  show execRestartMarkRead s = _
  rw [execRestartMarkRead, act_next h]
  simp only [State.restartRead_ended hp ho hl]

end

/-- Settles O7: the record read settles its mirror entry, the mark read settles M and the ROOM flag, and each step then
begins the next one. -/
theorem restartRereadsWindowsAndMark : Obligations.RestartRereadsWindowsAndMark := by
  refine ⟨fun s o record line h hr hp ho hl => ⟨_, exec_restartWindowReread h hp ho hl, ?_⟩,
    fun s o line h hp ho hl => ⟨_, exec_restartMarkRead h hp ho hl, ?_⟩⟩
  · obtain ⟨w, q, u, frame⟩ := s.rereadWindow_frame record o.readTime line
    have time : (s.rereadWindow record line o.readTime).time = s.time := by rw [frame]
    rw [State.beginRestartStep_after_window, time]
    refine ⟨?_, ?_, ?_, ?_, ?_, fun i _ hne => ?_, fun hmore => ?_, ?_, ?_⟩
    · rintro rfl
      exact ⟨s.setWindow_window hr _, rfl⟩
    · rintro l rfl h0
      rw [s.rereadWindow_empty record o.readTime h0]
      exact ⟨s.setWindow_window hr _, rfl⟩
    · rintro l rfl h12
      rw [s.rereadWindow_armed record o.readTime h12]
      exact ⟨s.armWindow_window hr l _, s.armWindow_unwritten record, s.armWindow_written record⟩
    · rintro l rfl h3
      rw [s.rereadWindow_past record o.readTime h3]
      exact ⟨s.setWindow_window hr _, rfl⟩
    · rintro l rfl h4
      rw [s.rereadWindow_unknown record o.readTime h4]
      exact ⟨s.rewriteWindow_window hr _, s.rewriteWindow_waits record _⟩
    · rw [frame]
      exact nth_put_other _ _ _ _ _ hne
    · have more : record + 1 < 32 := by omega
      simp only [RestartStep.next, if_pos more, and_self]
    · rintro rfl
      exact ⟨rfl, rfl⟩
    · rw [frame]
  · obtain ⟨w, frame⟩ := s.rereadMark_frame line
    rw [frame]
    refine ⟨?_, ?_, ?_, ?_, decide_eq_true_iff, rfl, rfl, List.getLast?_concat, rfl⟩
    · rintro rfl
      rfl
    · rintro l rfl hwithin
      exact restartMark_within hwithin
    · rintro l rfl hahead hhalf
      exact restartMark_ahead hahead hhalf
    · rintro l rfl hfar hbehind
      exact restartMark_behind hfar hbehind

end Sys2Proof.Machine
end

section
/-! PROOFS. The journal's marks, the Pacer and the pass: the relation that every step keeps, and the operations that
move the marks, the policy, the credit or the pass. -/

namespace Sys2Proof.Machine

/-! ## The relation that every step keeps -/

/-- From `s` to `t` the journal's marks, the policy with the Pacer's values, and the pass stay in their ranges. -/
structure State.KeepsRanges (s t : State) : Prop where
  journal : s.JournalInRange → t.JournalInRange
  pacer : s.PacerInRange → t.PacerInRange
  pass : s.PassInRange → t.PassInRange

theorem State.KeepsRanges.refl (s : State) : s.KeepsRanges s := ⟨id, id, id⟩

/-- The last operation first, so that it tells the state it starts from. -/
theorem State.KeepsRanges.after {s t u : State} (h' : t.KeepsRanges u) (h : s.KeepsRanges t) : s.KeepsRanges u :=
  ⟨h'.journal ∘ h.journal, h'.pacer ∘ h.pacer, h'.pass ∘ h.pass⟩

/-- What the ranges are read off. -/
def State.rangedFields (s : State) : Count32 × Count32 × Policy × Patrol × Nat :=
  (s.journal.published, s.journal.mark, s.policy, s.patrol, s.ranks)

theorem State.KeepsRanges.of_same {s t : State} (h : t.rangedFields = s.rangedFields) : s.KeepsRanges t := by
  simp only [State.rangedFields, Prod.mk.injEq] at h
  obtain ⟨hpublished, hmark, hpolicy, hpatrol, hranks⟩ := h
  refine ⟨?_, ?_, ?_⟩
  · rw [State.JournalInRange, State.JournalInRange, hpublished, hmark]; exact id
  · rw [State.PacerInRange, State.PacerInRange, State.PolicyInRange, State.PolicyInRange, hpolicy, hpatrol]; exact id
  · rw [State.PassInRange, State.PassInRange, State.lTotal, State.lTotal, hpatrol, hranks]; exact id

theorem State.KeepsRanges.then_same {s t u : State} (h : s.KeepsRanges t) (e : u.rangedFields = t.rangedFields) :
    s.KeepsRanges u := .after (.of_same e) h

/-- A frame that names none of these fields. -/
theorem State.KeepsRanges.of_frame {s t u : State} (h : t = u) (e : u.rangedFields = s.rangedFields) :
    s.KeepsRanges t := .of_same (h ▸ e)

/-- An effect under its condition. -/
theorem State.KeepsRanges.when {c : Prop} [Decidable c] {s t : State} (h : c → s.KeepsRanges t) :
    s.KeepsRanges (if c then t else s) := by
  split
  · next hc => exact h hc
  · exact .refl s

theorem State.foldl_keepsRanges {α : Type} {f : State → α → State} (hf : ∀ (u : State) (x : α), u.KeepsRanges (f u x))
    (l : List α) (s : State) : s.KeepsRanges (l.foldl f s) := by
  induction l generalizing s with
  | nil => exact .refl s
  | cons x l ih => exact .after (ih _) (hf s x)

/-! ## The journal's marks W and M (R175, R177, R182) -/

/-- A record with room takes one of the free places. -/
theorem publishedNext_inRange {w m : Count32} (h : 0 < 1024 - (w - m).toNat) : (w + 1 - m).toNat ≤ 1024 := by
  bv_omega

/-- A mark that is handed over moves M towards W, and not past it. -/
theorem settledMark_inRange {w m : Count32} (h : (w - m).toNat ≤ 1024) (x : Count32) :
    (w - settledMark w m x).toNat ≤ 1024 := by
  unfold settledMark
  split
  · exact h
  · split
    · exact h
    · split
      · bv_omega
      · bv_omega

/-- The mark of a restart is at most 1024 behind W, whatever the line reads. -/
theorem restartMark_inRange (w x : Count32) : (w - restartMark w x).toNat ≤ 1024 := by
  unfold restartMark
  split
  · assumption
  · split
    · bv_omega
    · bv_omega

theorem State.journalFree_pos_of_room {s : State} {k : RecordKind} (h : s.roomFor k = true) : 0 < s.journalFree := by
  unfold State.roomFor at h
  split at h
  · exact lt_trans (by decide) (of_decide_eq_true h)
  · exact of_decide_eq_true h

/-! ## Causes and slot lines -/

theorem State.askStatus_keepsRanges (s : State) : s.KeepsRanges s.askStatus := by
  obtain ⟨w, h⟩ := s.askStatus_frame
  exact .of_frame h rfl

theorem State.setCauses_keepsRanges (s : State) (c : CauseSet) : s.KeepsRanges (s.setCauses c) := by
  unfold State.setCauses
  split
  · exact .refl s
  · exact .after (State.askStatus_keepsRanges _) (.of_same rfl)

theorem State.requestItem_keepsRanges (s : State) (i : WriterItem) : s.KeepsRanges (s.requestItem i) := by
  obtain ⟨q, w, h⟩ := s.requestItem_frame i
  exact .of_frame h rfl

theorem State.requestRecord_keepsRanges (s : State) (record : Nat) : s.KeepsRanges (s.requestRecord record) := by
  obtain ⟨q, w, h⟩ := s.requestRecord_frame record
  exact .of_frame h rfl

theorem State.enterDone_keepsRanges (s : State) (slot : Nat) (l : Line) : s.KeepsRanges (s.enterDone slot l) :=
  .after (State.setCauses_keepsRanges _ _) (.of_same rfl)

theorem State.requestDone_keepsRanges (s : State) (slot : Nat) (l : Line) : s.KeepsRanges (s.requestDone slot l) := by
  unfold State.requestDone
  split
  · exact s.enterDone_keepsRanges slot l
  · exact .of_same rfl

theorem State.checkQuiesce_keepsRanges (s : State) : s.KeepsRanges s.checkQuiesce := by
  unfold State.checkQuiesce
  split
  · exact .refl s
  · exact .when fun _ => .after (State.requestDone_keepsRanges _ _ _) (.of_same rfl)

/-! ## Publication, staging and the read mark -/

theorem State.raiseJournal_keepsRanges (s : State) : s.KeepsRanges s.raiseJournal :=
  .after (State.setCauses_keepsRanges _ _) (.of_same rfl)

theorem State.checkCoalesce_keepsRanges (s : State) : s.KeepsRanges s.checkCoalesce :=
  .when fun _ => s.raiseJournal_keepsRanges

theorem State.syncJournal_keepsRanges (s : State) : s.KeepsRanges s.syncJournal := by
  obtain ⟨w, h⟩ := s.syncJournal_frame
  exact .of_frame h rfl

/-- A publication raises W by one, which is in range where its record has room. -/
theorem State.publish_keepsRanges {s : State} {r : JournalRecord} (room : s.roomFor r.kind = true) :
    s.KeepsRanges (s.publish r) := by
  obtain ⟨w, cs, co, ho, ra, e, -⟩ := s.publish_eq r
  rw [e]
  exact { State.KeepsRanges.refl s with
    journal := fun _ => publishedNext_inRange (State.journalFree_pos_of_room room) }

theorem State.stage_keepsRanges (s : State) (r : JournalRecord) : s.KeepsRanges (s.stage r) := by
  unfold State.stage
  split
  · exact .after (State.syncJournal_keepsRanges _) (.of_same rfl)
  · exact .of_same rfl

theorem State.handRecord_keepsRanges (s : State) (r : JournalRecord) : s.KeepsRanges (s.handRecord r) := by
  unfold State.handRecord
  split
  · exact s.stage_keepsRanges r
  · split
    · next h => exact State.publish_keepsRanges (Bool.and_eq_true .. ▸ h).2
    · split
      · exact .of_same rfl
      · exact s.stage_keepsRanges r

theorem State.stagingDeparts_keepsRanges (s : State) : s.KeepsRanges s.stagingDeparts := by
  unfold State.stagingDeparts
  split
  · exact .refl s
  · next r rest _ =>
    split
    · exact .after (State.syncJournal_keepsRanges _) (.of_same rfl)
    · refine .when fun h =>
        .after (State.syncJournal_keepsRanges _) (.after (State.publish_keepsRanges ?_) (.of_same rfl))
      exact (Bool.and_eq_true .. ▸ h).2

/-- A read mark put in place settles M. -/
theorem State.moveMark_keepsRanges (s : State) (x : Count32) : s.KeepsRanges (s.moveMark x) := by
  have settled : s.KeepsRanges
      { s with journal := { s.journal with mark := settledMark s.journal.published s.journal.mark x } } :=
    { State.KeepsRanges.refl s with journal := fun h => settledMark_inRange h x }
  simp only [State.moveMark]
  split
  · exact .after (State.syncJournal_keepsRanges _) (.then_same settled rfl)
  · exact .after (State.syncJournal_keepsRanges _) settled

theorem State.markHandOff_keepsRanges (s : State) (h : HandOff) : s.KeepsRanges (s.markHandOff h) := by
  have moved : s.KeepsRanges (if h.markDone = true then s else s.moveMark (markField h.line)) := by
    split
    · exact .refl s
    · exact s.moveMark_keepsRanges _
  simp only [State.markHandOff]
  split
  · exact moved
  · exact .after (State.setCauses_keepsRanges _ _) moved

/-- The read mark of a restart sets M anew. -/
theorem State.rereadMark_keepsRanges (s : State) (line : Option Line) : s.KeepsRanges (s.rereadMark line) := by
  refine .after (State.syncJournal_keepsRanges _) ?_
  cases line with
  | none => exact .of_same rfl
  | some l => exact { State.KeepsRanges.refl s with journal := fun _ => restartMark_inRange _ (markField l) }

/-! ## The policy and the pace review (R106, R168) -/

theorem clampPolicy_clampPolicy (p : Policy) : clampPolicy (clampPolicy p) = clampPolicy p := by
  simp [clampPolicy_eq]

/-- The two values of the policy record on which the rate depends are at least 1. -/
theorem State.PolicyInRange.rate_bounds {s : State} (h : s.PolicyInRange) :
    1 ≤ s.policy.opsPerInterval ∧ 1 ≤ s.policy.minRate := by
  rw [State.PolicyInRange, clampPolicy_eq] at h
  have ops := congrArg Policy.opsPerInterval h
  have rate := congrArg Policy.minRate h
  exact ⟨ops ▸ le_max_left _ _, rate ▸ le_max_left _ _⟩

theorem rateMax_inRange {p : Policy} (h : 1 ≤ p.opsPerInterval) : 1 ≤ rateMax p ∧ rateMax p ≤ 16384 := by
  unfold rateMax
  omega

/-- A review sets the rate between the least rate and rate_max, and the at-risk flag. -/
theorem State.review_keepsRanges (s : State) : s.KeepsRanges s.review := by
  have rated : ∀ rate risk, (s.PolicyInRange → 1 ≤ rate ∧ rate ≤ 16384) →
      s.KeepsRanges { s with patrol := { s.patrol with rate := rate, atRisk := risk } } := fun rate risk hrate =>
    { State.KeepsRanges.refl s with
      pacer := fun ⟨hpolicy, hcredit, howed, _⟩ => ⟨hpolicy, hcredit, howed, hrate hpolicy⟩ }
  by_cases hl : s.linesRemaining = 0
  · rw [State.review_of_no_lines hl]
    exact .refl s
  · by_cases hi : s.unheldIntervals = 0
    · rw [State.review_of_no_intervals (Nat.one_le_iff_ne_zero.2 hl) hi]
      exact rated _ _ fun h => rateMax_inRange h.rate_bounds.1
    · rw [State.review_of_intervals (Nat.one_le_iff_ne_zero.2 hl) (Nat.one_le_iff_ne_zero.2 hi)]
      refine rated _ _ fun h => ?_
      obtain ⟨hops, hmin⟩ := h.rate_bounds
      obtain ⟨hlow, hhigh⟩ := rateMax_inRange hops
      exact ⟨le_min hlow (le_trans hmin (le_max_left _ _)), le_trans (min_le_left _ _) hhigh⟩

theorem State.askReview_keepsRanges (s : State) : s.KeepsRanges s.askReview := .when fun _ => s.review_keepsRanges

theorem State.periodicReview_keepsRanges (s : State) (t : PartTime) : s.KeepsRanges (s.periodicReview t) :=
  .when fun _ => s.askReview_keepsRanges

/-- A clamped record put in force, with credit and owed cut to its B (R109). -/
theorem State.cutCredit_keepsRanges (s : State) (p : Policy) :
    s.KeepsRanges (State.cutCredit { s with policy := clampPolicy p }) :=
  { State.KeepsRanges.refl s with
    pacer := fun ⟨_, _, _, hrate⟩ => ⟨clampPolicy_clampPolicy p, min_le_right _ _, min_le_right _ _, hrate⟩ }

/-- The accrual leaves the credit within its cap (R107). -/
theorem State.accrue_keepsRanges (s : State) : s.KeepsRanges s.accrue :=
  { State.KeepsRanges.refl s with
    pacer := fun ⟨hpolicy, _, _, hrate⟩ =>
      ⟨hpolicy, le_trans (Nat.mod_le _ _) (min_le_left _ _), min_le_left _ _, hrate⟩ }

theorem State.accrueIfAccruing_keepsRanges (s : State) : s.KeepsRanges s.accrueIfAccruing :=
  .when fun _ => s.accrue_keepsRanges

/-! ## The pass (R93, R95, R97, R99) -/

theorem nextPassNumber_inRange (n : Nat) : 1 ≤ nextPassNumber n ∧ nextPassNumber n ≤ 4294967295 := by
  unfold nextPassNumber Config.counterMax
  split
  · omega
  · have := Nat.mod_lt Config.passNumberAfterLast (show 0 < 4294967295 by decide)
    omega

/-- A pass starts at the first line of a populated rank, with its counts at 0. -/
theorem State.startPass_keepsRanges (s : State) {number : Nat} (h : 1 ≤ number ∧ number ≤ 4294967295) :
    s.KeepsRanges (s.startPass number) := by
  refine .after (State.review_keepsRanges _) { State.KeepsRanges.refl s with pass := ?_ }
  rintro ⟨hone, hfour, -⟩
  exact ⟨hone, hfour, Nat.mul_pos hone (by decide), h.1, h.2, Nat.zero_le _, Nat.zero_le _, Nat.zero_le _⟩

theorem State.endVisit_keepsRanges (s : State) : s.KeepsRanges s.endVisit := by
  unfold State.endVisit
  split
  · next h =>
    exact { State.KeepsRanges.refl s with
      pass := fun ⟨hone, hfour, _, hpass⟩ => ⟨hone, hfour, h, hpass⟩ }
  · exact .after (State.startPass_keepsRanges _ (nextPassNumber_inRange _)) (s.handRecord_keepsRanges _)

theorem State.markLate_keepsRanges (s : State) : s.KeepsRanges s.markLate :=
  .after (State.handRecord_keepsRanges _ _) { State.KeepsRanges.refl s with }

/-- The pass counts stop at their limit. -/
theorem State.countVisit_keepsRanges (s : State) (c : LineClass) :
    s.KeepsRanges { s with patrol := s.patrol.counted c } := by
  obtain ⟨corrected, deep, uncorrectable, clean, erased, poisoned⟩ := s.patrol.counted_eq
  cases c with
  | clean => rw [clean]; exact .refl s
  | erased => rw [erased]; exact .refl s
  | poisoned => rw [poisoned]; exact .refl s
  | corrected =>
    rw [corrected]
    exact { State.KeepsRanges.refl s with
      pass := fun ⟨hone, hfour, hcursor, hfirst, hlast, _, hdeep, hlost⟩ =>
        ⟨hone, hfour, hcursor, hfirst, hlast, min_le_left _ _, hdeep, hlost⟩ }
  | deepCorrected =>
    rw [deep]
    exact { State.KeepsRanges.refl s with
      pass := fun ⟨hone, hfour, hcursor, hfirst, hlast, hcorrected, _, hlost⟩ =>
        ⟨hone, hfour, hcursor, hfirst, hlast, hcorrected, min_le_left _ _, hlost⟩ }
  | uncorrectable =>
    rw [uncorrectable]
    exact { State.KeepsRanges.refl s with
      pass := fun ⟨hone, hfour, hcursor, hfirst, hlast, hcorrected, hdeep, _⟩ =>
        ⟨hone, hfour, hcursor, hfirst, hlast, hcorrected, hdeep, min_le_left _ _⟩ }

/-- A visit granted its read is owed no more. -/
theorem State.grantPatrolRead_keepsRanges (s : State) (errors : List SliceError) :
    s.KeepsRanges (s.grantPatrolRead errors) := by
  rw [s.grantPatrolRead_eq]
  exact { State.KeepsRanges.refl s with
    pacer := fun ⟨hpolicy, hcredit, howed, hrate⟩ => ⟨hpolicy, hcredit, le_trans (Nat.sub_le _ _) howed, hrate⟩ }

/-! ## Resets -/

/-- After a power-on reset the values are in range, for as many ranks as a board has. -/
theorem State.powerOn_keepsRanges {s : State} {ranks : Nat} (h : s.PassInRange → 1 ≤ ranks ∧ ranks ≤ 4) (base : Nat)
    (time : PartTime) (pending : List Instr) :
    s.KeepsRanges { State.powerOn ranks base with time := time, pending := pending } where
  journal _ := reset_journalInRange
  pacer _ := reset_pacerInRange
  pass hs := by
    obtain ⟨hone, hfour⟩ := h hs
    obtain ⟨-, -, -, hpass⟩ := reset_passInRange
    exact ⟨hone, hfour, Nat.mul_pos hone (by decide), hpass⟩

/-- A warm reset keeps W, M, the policy and the pass, and drops credit and owed (R59, R182). -/
theorem State.warmed_keepsRanges (s : State) : s.KeepsRanges s.warmed :=
  { State.KeepsRanges.refl s with
    pacer := fun ⟨hpolicy, _, _, hrate⟩ => ⟨hpolicy, Nat.zero_le _, Nat.zero_le _, hrate⟩ }

end Sys2Proof.Machine
end

section
/-! PROOFS. The journal's marks, the Pacer and the pass, continued: what the commands are made of. -/

namespace Sys2Proof.Machine

/-! ## The array -/

theorem State.writeLine_keepsRanges (s : State) (rank row column : Nat) (c : Content) :
    s.KeepsRanges (s.writeLine rank row column c) := by
  obtain ⟨m, w, p, h⟩ := s.writeLine_frame rank row column c
  exact .of_frame h rfl

theorem State.applyErrors_keepsRanges (s : State) (rank row column : Nat) (errors : List SliceError) :
    s.KeepsRanges (s.applyErrors rank row column errors) := by
  obtain ⟨m, h⟩ := s.applyErrors_frame rank row column errors
  exact .of_frame h rfl

theorem State.applyErrorsHost_keepsRanges (s : State) (host : Nat) (errors : List SliceError) :
    s.KeepsRanges (s.applyErrorsHost host errors) := s.applyErrors_keepsRanges _ _ _ errors

theorem State.hostWrite_keepsRanges (s : State) (host : Nat) (c : Content) : s.KeepsRanges (s.hostWrite host c) := by
  obtain ⟨m, w, p, a, b, g, r, q, rd, o, h⟩ := s.hostWrite_frame host c
  exact .of_frame h rfl

/-! ## Scored events and reports (R42, R77) -/

theorem State.makeSuspect_keepsRanges (s : State) (rank device : Nat) : s.KeepsRanges (s.makeSuspect rank device) := by
  unfold State.makeSuspect
  split
  · exact .refl s
  · exact .after (State.handRecord_keepsRanges _ _) (.of_same rfl)

theorem State.markDevice_keepsRanges (s : State) (rank device : Nat) (mode : MarkMode) (origin : Origin) :
    s.KeepsRanges (s.markDevice rank device mode origin) :=
  .after (State.handRecord_keepsRanges _ _) (.of_same rfl)

theorem State.examineDevice_keepsRanges (s : State) (rank device : Nat) (again : Bool) :
    s.KeepsRanges (s.examineDevice rank device again) := by
  unfold State.examineDevice
  split
  · exact .refl s
  · split
    · exact .refl s
    · split
      · exact .refl s
      · exact .refl s
      · exact s.makeSuspect_keepsRanges rank device
      · split
        · exact s.markDevice_keepsRanges rank device _ _
        · exact s.makeSuspect_keepsRanges rank device

theorem State.examineDevices_keepsRanges (s : State) (rank : Nat) (which : Nat → Bool) (again : Bool) :
    s.KeepsRanges (s.examineDevices rank which again) :=
  State.foldl_keepsRanges (fun u d => u.examineDevice_keepsRanges rank d again) _ s

theorem State.clearAllSuspects_keepsRanges (s : State) : s.KeepsRanges s.clearAllSuspects :=
  State.foldl_keepsRanges (f := State.clearSuspects) (fun _ _ => .of_same rfl) _ s

theorem State.examineAll_keepsRanges (s : State) : s.KeepsRanges s.examineAll :=
  .after (State.foldl_keepsRanges (fun u r => u.examineDevices_keepsRanges r _ _) _ _) s.clearAllSuspects_keepsRanges

theorem State.startMigration_keepsRanges (s : State) : s.KeepsRanges s.startMigration := by
  obtain ⟨q, m, sp, r, h⟩ := s.startMigration_frame
  exact .of_frame h rfl

theorem State.retireInternally_keepsRanges (s : State) (rank row : Nat) :
    s.KeepsRanges (s.retireInternally rank row) := by
  obtain ⟨t, a, m, sp, r, h⟩ := s.retireInternally_frame rank row
  exact .of_frame h rfl

theorem State.examineRetire_keepsRanges (s : State) (rank row : Nat) : s.KeepsRanges (s.examineRetire rank row) := by
  unfold State.examineRetire
  split
  · exact .refl s
  · split
    · exact .refl s
    · exact .when fun _ => s.retireInternally_keepsRanges rank row
    · split
      · exact .refl s
      · split
        · exact s.retireInternally_keepsRanges rank row
        · exact .after (State.handRecord_keepsRanges _ _) (.of_same rfl)

theorem State.afterEvent_keepsRanges (s : State) (rank row : Nat) (risen : List Nat) :
    s.KeepsRanges (s.afterEvent rank row risen) :=
  .after (State.examineDevices_keepsRanges _ _ _ _) (s.examineRetire_keepsRanges rank row)

theorem State.createEntry_keepsRanges (s : State) (rank row weight : Nat) (devices : List Nat) (t : PartTime) :
    s.KeepsRanges (s.createEntry rank row weight devices t) :=
  .after (State.afterEvent_keepsRanges _ _ _ _) (.of_same rfl)

theorem State.scoredEvent_keepsRanges (s : State) (rank row weight : Nat) (named : List Nat) (t : PartTime) :
    s.KeepsRanges (s.scoredEvent rank row weight named t) := by
  simp only [State.scoredEvent]
  split
  · exact .after (State.afterEvent_keepsRanges _ _ _ _) (.of_same rfl)
  · split
    · exact s.createEntry_keepsRanges _ _ _ _ _
    · split
      · exact .of_same rfl
      · split
        · exact .after (State.createEntry_keepsRanges _ _ _ _ _ _) (.of_same rfl)
        · exact .of_same rfl

theorem State.scoreDecode_keepsRanges (s : State) (d : Decode) (t : PartTime) : s.KeepsRanges (s.scoreDecode d t) := by
  unfold State.scoreDecode
  split
  · exact .refl s
  · exact s.scoredEvent_keepsRanges _ _ _ _ _

theorem State.noteUncorrectable_keepsRanges (s : State) (host : Option Nat) (t : PartTime) :
    s.KeepsRanges (s.noteUncorrectable host t) := by
  cases host with
  | none => exact .refl s
  | some h => exact .of_same rfl

theorem State.report_keepsRanges (s : State) (d : Decode) (src : Source) (t : PartTime) :
    s.KeepsRanges (s.report d src t) := by
  have recorded : ∀ k, s.KeepsRanges ((s.scoreDecode d t).handRecord (d.record k src t)) := fun k =>
    .after (State.handRecord_keepsRanges _ _) (s.scoreDecode_keepsRanges d t)
  cases h : d.classify.cls with
  | clean => rw [State.report_nothing (.inl h)]; exact .refl s
  | poisoned => rw [State.report_nothing (.inr h)]; exact .refl s
  | erased => rw [State.report_erased h]; exact .of_same rfl
  | corrected => rw [State.report_corrected h]; exact .then_same (recorded _) rfl
  | deepCorrected => rw [State.report_deepCorrected h]; exact .then_same (recorded _) rfl
  | uncorrectable =>
    rw [State.report_uncorrectable h]
    exact .after (State.setCauses_keepsRanges _ _)
      (.after (State.noteUncorrectable_keepsRanges _ _ _) (.then_same (recorded _) rfl))

/-! ## The windows and the hand-offs -/

theorem State.armWindow_keepsRanges (s : State) (record : Nat) (l : Line) (now : PartTime) :
    s.KeepsRanges (s.armWindow record l now) := by
  obtain ⟨v, q, w, h⟩ := s.armWindow_frame record l now
  exact .of_frame h rfl

theorem State.turnWindow_keepsRanges (s : State) (record : Nat) (x : WindowState) :
    s.KeepsRanges (s.turnWindow record x) :=
  .after (State.askReview_keepsRanges _) (.after (State.requestRecord_keepsRanges _ _) (.of_same rfl))

theorem State.slotHandOff_keepsRanges (s : State) (slot : Nat) (l : Line) : s.KeepsRanges (s.slotHandOff slot l) := by
  obtain ⟨m, c, o, h⟩ := s.slotHandOff_frame slot l
  exact .of_frame h rfl

theorem State.windowHandOff_keepsRanges (s : State) (record : Nat) (l : Line) :
    s.KeepsRanges (s.windowHandOff record l) := by
  unfold State.windowHandOff
  split
  · exact .after (State.askReview_keepsRanges _) (s.armWindow_keepsRanges _ _ _)
  · split
    · exact .after (State.askReview_keepsRanges _) (.after (State.requestRecord_keepsRanges _ _) (.of_same rfl))
    · split
      · exact .after (State.askReview_keepsRanges _) (.of_same rfl)
      · exact s.requestRecord_keepsRanges _

theorem State.actOn_keepsRanges (s : State) (h : HandOff) : s.KeepsRanges (s.actOn h) := by
  unfold State.actOn
  split
  · exact s.slotHandOff_keepsRanges _ _
  · split
    · exact s.windowHandOff_keepsRanges _ _
    · exact .when fun _ => s.markHandOff_keepsRanges h

theorem State.settle_keepsRanges (s : State) : s.KeepsRanges s.settle := by
  unfold State.settle
  split
  · exact .refl s
  · exact .after (State.actOn_keepsRanges _ _) (.of_same rfl)

theorem State.actOnSlot_keepsRanges (s : State) (h : HandOff) : s.KeepsRanges (s.actOnSlot h) := by
  unfold State.actOnSlot
  split
  · exact .after (State.slotHandOff_keepsRanges _ _ _) (.of_same rfl)
  · exact .refl s

theorem State.actOnRecord_keepsRanges (s : State) (h : HandOff) : s.KeepsRanges (s.actOnRecord h) := by
  unfold State.actOnRecord
  split
  · exact .after (State.windowHandOff_keepsRanges _ _ _) (.of_same rfl)
  · exact .refl s

/-! ## The demand path -/

theorem State.guardWrite_keepsRanges (s : State) (host slot stateField : Nat) :
    s.KeepsRanges (s.guardWrite host slot stateField) := .then_same (s.handRecord_keepsRanges _) rfl

/-- A presentation journals a guarded write, and moves none of the values itself. -/
theorem State.present_keepsRanges (s : State) (a : ServerAccess) : s.KeepsRanges (s.present a) := by
  cases a with
  | read host =>
    simp only [State.present, State.presentRead, State.answerInTurn]
    split
    · split <;> exact .of_same rfl
    · exact .of_same rfl
  | fullLineWrite host data =>
    simp only [State.present, State.presentFull]
    split
    · exact s.guardWrite_keepsRanges _ _ _
    · exact .of_same rfl
  | maskedWrite host data mask =>
    simp only [State.present, State.presentMasked, State.presentMask]
    split
    · exact s.guardWrite_keepsRanges _ _ _
    · split
      · exact .of_same rfl
      · split
        · exact .of_same rfl
        · split <;> exact .of_same rfl

theorem State.presentInOrder_keepsRanges (port : Nat) (l : List ServerAccess) (s : State) :
    s.KeepsRanges (State.presentInOrder port l s) := by
  induction l generalizing s with
  | nil => exact .of_same rfl
  | cons a rest ih =>
    unfold State.presentInOrder
    split
    · exact .after (ih _) (s.present_keepsRanges a)
    · exact .of_same rfl

theorem State.freePort_keepsRanges (s : State) (port : Nat) : s.KeepsRanges (s.freePort port) :=
  .after (State.presentInOrder_keepsRanges _ _ _) (.of_same rfl)

theorem State.serveAbove_keepsRanges (s : State) (kind : AccessKind) (address : Nat) :
    s.KeepsRanges (s.serveAbove kind address) := by
  cases kind with
  | read => exact .of_same rfl
  | fullLineWrite => exact .refl s
  | maskedWrite => exact .refl s

theorem State.arrive_keepsRanges (s : State) (kind : AccessKind) (address : Nat) (a : ServerAccess) :
    s.KeepsRanges (s.arrive kind address a) := by
  unfold State.arrive
  split
  · exact .refl s
  · split
    · exact s.serveAbove_keepsRanges kind address
    · exact State.presentInOrder_keepsRanges _ _ s

theorem State.handOver_keepsRanges (s : State) (host : Nat) (l : Line) : s.KeepsRanges (s.handOver host l) :=
  .when fun _ => .of_same rfl

/-- A write and its acknowledgement. -/
theorem State.hostWrite_reply_keepsRanges (s : State) (host : Nat) (c : Content) (r : Reply) :
    s.KeepsRanges ((s.hostWrite host c).reply r) := .then_same (s.hostWrite_keepsRanges host c) rfl

theorem State.requestUnlessStale_keepsRanges (s : State) (stale : Bool) (host : Nat) (r : DecodeResult) :
    s.KeepsRanges (s.requestUnlessStale stale host r) := by
  obtain ⟨b, c, h⟩ := s.requestUnlessStale_frame stale host r
  exact .of_frame h rfl

theorem State.endServerRead_keepsRanges (s : State) (x : ServerRead) : s.KeepsRanges (s.endServerRead x) :=
  .after (State.report_keepsRanges _ _ _ _) (.after (State.requestUnlessStale_keepsRanges _ _ _ _) (.of_same rfl))

theorem State.writeBackNow_keepsRanges (s : State) (e : WriteBack) : s.KeepsRanges (s.writeBackNow e) :=
  have dropped : s.KeepsRanges (s.dropWriteBack e.host) := .of_same rfl
  .then_same (.after (State.writeLine_keepsRanges _ _ _ _ _) dropped) rfl

theorem State.endMerge_keepsRanges (s : State) (port host : Nat) (data : Line) (mask : ByteMask) (d : Decode)
    (orphan : Bool) : s.KeepsRanges (s.endMerge port host data mask d orphan) := by
  unfold State.endMerge
  split
  · exact .then_same (s.report_keepsRanges d .merge s.time) rfl
  · exact .of_same rfl

theorem State.reportLoss_keepsRanges (s : State) (loss : Option MergeLoss) : s.KeepsRanges (s.reportLoss loss) := by
  unfold State.reportLoss
  split
  · exact .refl s
  · split
    · exact s.handRecord_keepsRanges _
    · exact s.report_keepsRanges _ _ _

theorem State.writeHalf_keepsRanges (s : State) (port host : Nat) (c : Content) (loss : Option MergeLoss) :
    s.KeepsRanges (s.writeHalf port host c loss) := by
  have reported := State.KeepsRanges.after (State.reportLoss_keepsRanges _ loss)
    (s.hostWrite_reply_keepsRanges host c (.ack host))
  unfold State.writeHalf
  refine .after (State.freePort_keepsRanges _ port) ?_
  split
  · exact reported
  · exact .after (State.handOver_keepsRanges _ _ _) reported

theorem State.writeOrphanHalf_keepsRanges (s : State) (port host : Nat) (c : Content) (loss : Option MergeLoss) :
    s.KeepsRanges (s.writeOrphanHalf port host c loss) :=
  .after (State.freePort_keepsRanges _ _) (.after (State.reportLoss_keepsRanges _ _) (s.hostWrite_keepsRanges host c))

theorem State.writeFromEntry_keepsRanges (s : State) (port host : Nat) (data : Line) (mask : ByteMask) :
    s.KeepsRanges (s.writeFromEntry port host data mask) := by
  unfold State.writeFromEntry
  split
  · exact .of_same rfl
  · split
    · exact .after (State.freePort_keepsRanges _ _)
        (.after (State.handOver_keepsRanges _ _ _) (s.hostWrite_reply_keepsRanges _ _ _))
    · exact .after (State.freePort_keepsRanges _ _)
        (.then_same (.after (State.handRecord_keepsRanges _ _) (s.hostWrite_keepsRanges host poisonContent)) rfl)

/-! ## Start-up, restart and the control window -/

theorem State.enterStatus_keepsRanges (s : State) : s.KeepsRanges s.enterStatus := by
  unfold State.enterStatus
  generalize s.statusPart1 = first
  generalize s.statusPart2 = second
  exact .of_same rfl

theorem State.admitStatus_keepsRanges (s : State) : s.KeepsRanges s.admitStatus :=
  .when fun _ => .after (State.enterStatus_keepsRanges _) (.of_same rfl)

/-- Pass 1 starts as the port opens (R112). -/
theorem State.openPort_keepsRanges (s : State) : s.KeepsRanges s.openPort := by
  have identified : s.KeepsRanges (State.enterIdentity
      { s with writer := [], phase := .running, nextInterval := some (nextPaceBoundary s.time) }) := .of_same rfl
  exact .after (State.startPass_keepsRanges _ (by decide)) (.after (State.enterStatus_keepsRanges _) identified)

theorem State.beginRestartStep_keepsRanges (s : State) (step : RestartStep) :
    s.KeepsRanges (s.beginRestartStep step) := by
  cases step <;> exact .of_same rfl

theorem State.scanSlot_keepsRanges (s : State) (slot : Nat) (line : Option Line) :
    s.KeepsRanges (s.scanSlot slot line) := by
  unfold State.scanSlot
  split
  · exact .of_same rfl
  · split
    · exact .of_same rfl
    · split
      · exact .after (State.requestDone_keepsRanges _ _ _) (.of_same rfl)
      · split <;> exact .of_same rfl

theorem State.rereadWindow_keepsRanges (s : State) (record : Nat) (line : Option Line) (now : PartTime) :
    s.KeepsRanges (s.rereadWindow record line now) := by
  obtain ⟨w, q, u, h⟩ := s.rereadWindow_frame record now line
  exact .of_frame h rfl

/-- The restart's end deals with an E that passed meanwhile, and makes its review (R103, R111). -/
theorem State.admitIdentity_keepsRanges (s : State) : s.KeepsRanges s.admitIdentity := by
  have entered : s.KeepsRanges (State.settleCursor
      { (s.stopAwaiting .identity).enterIdentity with phase := .running, retained := [], writeBacks := [] }) :=
    .of_same rfl
  refine .when fun _ => .after (State.askStatus_keepsRanges _) (.after (State.review_keepsRanges _) ?_)
  split
  · exact .after (State.markLate_keepsRanges _) entered
  · exact entered

theorem State.admitExportLine_keepsRanges (s : State) : s.KeepsRanges s.admitExportLine := by
  refine .when fun _ => ?_
  split
  · exact .of_same rfl
  · split
    · exact .after (State.requestDone_keepsRanges _ _ _) (.of_same rfl)
    · simp only
      split
      · exact .after (State.requestDone_keepsRanges _ _ _) (.of_same rfl)
      · exact .of_same rfl

theorem State.admitOldest_keepsRanges (s : State) : s.KeepsRanges s.admitOldest := by
  unfold State.admitOldest
  split
  · exact .refl s
  · exact .when fun _ => .of_same rfl
  · exact .when fun _ => .after (State.enterDone_keepsRanges _ _ _) (.of_same rfl)
  · exact s.stagingDeparts_keepsRanges
  · exact s.admitExportLine_keepsRanges
  · exact s.admitStatus_keepsRanges
  · exact s.admitIdentity_keepsRanges

theorem State.grantOwnRead_keepsRanges (s : State) (o : OwnRead) (errors : List SliceError) :
    s.KeepsRanges (s.grantOwnRead o errors) := by
  refine .after ?_ (s.applyErrorsHost_keepsRanges (s.base + o.reader.offset) errors)
  unfold State.grantOwnRead State.holdTaken
  cases o.reader <;> exact .of_same rfl

theorem State.endOwnRead_keepsRanges (s : State) (o : OwnRead) (d : Decode) (stale : Bool) :
    s.KeepsRanges (s.endOwnRead o d stale) :=
  .after (State.report_keepsRanges _ _ _ _) (.after (State.requestUnlessStale_keepsRanges _ _ _ _) (.of_same rfl))

/-! ## Orders -/

theorem State.takeScrub_keepsRanges (s : State) (slot : Nat) (l : Line) : s.KeepsRanges (s.takeScrub slot l) := by
  unfold State.takeScrub
  split
  · exact s.requestDone_keepsRanges _ _
  · exact .after (State.requestItem_keepsRanges _ _) (.of_same rfl)

theorem State.takeProbe_keepsRanges (s : State) (slot : Nat) (l : Line) : s.KeepsRanges (s.takeProbe slot l) := by
  unfold State.takeProbe
  split
  · exact s.requestDone_keepsRanges _ _
  · exact .after (State.requestItem_keepsRanges _ _) (.of_same rfl)

theorem State.takeMigrate_keepsRanges (s : State) (slot : Nat) (l : Line) : s.KeepsRanges (s.takeMigrate slot l) := by
  unfold State.takeMigrate
  split
  · exact s.requestDone_keepsRanges _ _
  · exact .after (State.requestItem_keepsRanges _ _) (.after (State.startMigration_keepsRanges _) (.of_same rfl))

theorem State.takeRestoreRow_keepsRanges (s : State) (slot : Nat) (l : Line) :
    s.KeepsRanges (s.takeRestoreRow slot l) := by
  unfold State.takeRestoreRow
  split
  · exact s.requestDone_keepsRanges _ _
  · split
    · exact s.requestDone_keepsRanges _ _
    · exact .after (State.requestDone_keepsRanges _ _ _) (.after (State.handRecord_keepsRanges _ _) (.of_same rfl))

theorem State.markByOrder_keepsRanges (s : State) (slot : Nat) (l : Line) (mode : MarkMode) :
    s.KeepsRanges (s.markByOrder slot l mode) :=
  .after (State.requestDone_keepsRanges _ _ _) (s.markDevice_keepsRanges _ _ _ _)

theorem State.takeMarkRebuild_keepsRanges (s : State) (slot : Nat) (l : Line) :
    s.KeepsRanges (s.takeMarkRebuild slot l) := by
  unfold State.takeMarkRebuild
  split
  · exact s.requestDone_keepsRanges _ _
  · exact s.markByOrder_keepsRanges slot l _

theorem State.takeMarkEraseOnly_keepsRanges (s : State) (slot : Nat) (l : Line) :
    s.KeepsRanges (s.takeMarkEraseOnly slot l) := by
  unfold State.takeMarkEraseOnly
  split
  · exact s.requestDone_keepsRanges _ _
  · exact s.markByOrder_keepsRanges slot l _

theorem State.takeMarkRestore_keepsRanges (s : State) (slot : Nat) (l : Line) :
    s.KeepsRanges (s.takeMarkRestore slot l) := by
  unfold State.takeMarkRestore
  split
  · exact s.requestDone_keepsRanges _ _
  · exact .after (State.requestDone_keepsRanges _ _ _) (.after (State.handRecord_keepsRanges _ _) (.of_same rfl))

/-- The record put in force is the clamped one, whatever the line holds (R168). -/
theorem State.takePolicy_keepsRanges (s : State) (slot : Nat) (l : Line) : s.KeepsRanges (s.takePolicy slot l) :=
  .after (State.requestDone_keepsRanges _ _ _) (.after (State.checkCoalesce_keepsRanges _)
    (.after (State.examineAll_keepsRanges _) (.after (State.review_keepsRanges _) (s.cutCredit_keepsRanges _))))

theorem State.takeQuiesce_keepsRanges (s : State) (slot : Nat) (l : Line) : s.KeepsRanges (s.takeQuiesce slot l) := by
  unfold State.takeQuiesce
  split
  · exact s.requestDone_keepsRanges _ _
  · split
    · exact .after (State.requestDone_keepsRanges _ _ _) (.of_same rfl)
    · exact .after (State.requestItem_keepsRanges _ _) (.of_same rfl)

theorem State.takeResume_keepsRanges (s : State) (slot : Nat) (l : Line) : s.KeepsRanges (s.takeResume slot l) := by
  refine .after (State.requestDone_keepsRanges _ _ _) ?_
  unfold State.abandonQuiesce
  split
  · exact .of_same rfl
  · exact .after (State.requestDone_keepsRanges _ _ _) (.of_same rfl)

theorem State.takeExport_keepsRanges (s : State) (slot : Nat) (l : Line) : s.KeepsRanges (s.takeExport slot l) :=
  have written : s.KeepsRanges (State.writeTaken
      { s with exportNumber := s.exportNumber + 1,
               exportJob := some { slot := slot, lines := s.exportLines (s.exportNumber + 1),
                                   faultEntries := s.table.length, remapEntries := s.remaps.length } } slot l) :=
    .after (State.requestItem_keepsRanges _ _) (.of_same rfl)
  .then_same written rfl

/-! ## The background engines -/

theorem State.changeOrder_keepsRanges (s : State) (slot : Nat) (f : TargetedOrder → TargetedOrder) :
    s.KeepsRanges (s.changeOrder slot f) := .of_same rfl

theorem State.changeRemap_keepsRanges (s : State) (rank row : Nat) (f : RemapEntry → RemapEntry) :
    s.KeepsRanges (s.changeRemap rank row f) := .of_same rfl

theorem State.removeEntry_keepsRanges (s : State) (rank row : Nat) : s.KeepsRanges (s.removeEntry rank row) :=
  .of_same rfl

theorem State.setRankDevices_keepsRanges (s : State) (rank : Nat) (d : RankDevices) :
    s.KeepsRanges (s.setRankDevices rank d) := .of_same rfl

theorem State.visitWrite_keepsRanges (s : State) (op : OpenLine) (c : Content) : s.KeepsRanges (s.visitWrite op c) :=
  .when fun _ => .then_same (s.writeLine_keepsRanges _ _ _ _) rfl

theorem State.releasePatrol_keepsRanges (s : State) : s.KeepsRanges s.releasePatrol :=
  .after (State.endVisit_keepsRanges _) (.after (State.checkQuiesce_keepsRanges _) (.of_same rfl))

theorem State.endPatrolDecode_keepsRanges (s : State) (d : Decode) : s.KeepsRanges (s.endPatrolDecode d) := by
  have reported : s.KeepsRanges (s.reportVisit d) :=
    .after (State.countVisit_keepsRanges _ d.classify.cls) (s.report_keepsRanges d .patrol s.time)
  unfold State.endPatrolDecode
  split
  · exact .then_same reported rfl
  · exact .after (State.releasePatrol_keepsRanges _) reported

theorem State.completeTargeted_keepsRanges (s : State) (o : TargetedOrder) (fs : List FieldValue) :
    s.KeepsRanges (s.completeTargeted o fs) := .after (State.requestDone_keepsRanges _ _ _) (.of_same rfl)

theorem State.releaseScrub_keepsRanges (s : State) (slot : Nat) : s.KeepsRanges (s.releaseScrub slot) := by
  have advanced : s.KeepsRanges (State.changeOrder (State.checkQuiesce { s with targetedOp := none }) slot
      fun o => { o with cursor := o.cursor + 1 }) :=
    .after (State.changeOrder_keepsRanges _ _ _) (.after (State.checkQuiesce_keepsRanges _) (.of_same rfl))
  simp only [State.releaseScrub]
  split
  · split
    · exact .after (State.completeTargeted_keepsRanges _ _ _) advanced
    · exact advanced
  · exact advanced

theorem State.endScrubDecode_keepsRanges (s : State) (o : TargetedOrder) (d : Decode) :
    s.KeepsRanges (s.endScrubDecode o d) := by
  have reported : s.KeepsRanges (s.reportScrub o d) := .then_same (s.report_keepsRanges d _ _) rfl
  unfold State.endScrubDecode
  split
  · exact .then_same reported rfl
  · exact .after (State.releaseScrub_keepsRanges _ _) reported

theorem State.grantTargetedRead_keepsRanges (s : State) (o : TargetedOrder) (errors : List SliceError) :
    s.KeepsRanges (s.grantTargetedRead o errors) := .then_same (s.applyErrorsHost_keepsRanges _ errors) rfl

theorem State.countTargeted_keepsRanges (s : State) (o : TargetedOrder) : s.KeepsRanges (s.countTargeted o) := by
  rw [s.countTargeted_eq]
  exact .of_same rfl

theorem State.countDropped_keepsRanges (s : State) (op : OpenLine) (slot : Nat) :
    s.KeepsRanges (s.countDropped op slot) := by
  unfold State.countDropped
  split
  · exact .refl s
  · exact .of_same rfl

theorem State.endProbe_keepsRanges (s : State) (o : TargetedOrder) (d : Decode) : s.KeepsRanges (s.endProbe o d) :=
  .after (State.completeTargeted_keepsRanges _ _ _)
    (.after (State.checkQuiesce_keepsRanges _) (.then_same (s.report_keepsRanges d .probe s.time) rfl))

theorem State.endCopyDecode_keepsRanges (s : State) (d : Decode) : s.KeepsRanges (s.endCopyDecode d) :=
  .then_same (s.report_keepsRanges d .migration s.time) rfl

theorem State.copyWrite_keepsRanges (s : State) (e : RemapEntry) (op : OpenLine) (c : Content) :
    s.KeepsRanges (s.copyWrite e op c) := by
  unfold State.copyWrite
  split
  · exact .then_same (s.writeLine_keepsRanges _ _ _ _) rfl
  · exact .of_same rfl

theorem State.discardEarlier_keepsRanges (s : State) (e : RemapEntry) : s.KeepsRanges (s.discardEarlier e) := by
  unfold State.discardEarlier
  split
  · exact .of_same rfl
  · exact .refl s

theorem State.finishMigrationSlot_keepsRanges (s : State) (m : Migration) (e : RemapEntry) :
    s.KeepsRanges (s.finishMigrationSlot m e) := by
  unfold State.finishMigrationSlot
  split
  · exact s.requestDone_keepsRanges _ _
  · exact .refl s

theorem State.completeMigration_keepsRanges (s : State) (m : Migration) (e : RemapEntry) :
    s.KeepsRanges (s.completeMigration m e) := by
  have discarded : s.KeepsRanges (State.removeEntry (State.discardEarlier
      (s.changeRemap e.rank e.row fun x => { x with state := .active, cursor := 128, earlier := none }) e)
      e.rank e.row) :=
    .after (State.removeEntry_keepsRanges _ _ _)
      (.after (State.discardEarlier_keepsRanges _ e) (s.changeRemap_keepsRanges _ _ _))
  have recorded := fun r => State.KeepsRanges.after (State.finishMigrationSlot_keepsRanges _ m e)
    (.after (State.handRecord_keepsRanges _ r) discarded)
  exact .after (State.startMigration_keepsRanges _) (.then_same (recorded _) rfl)

theorem State.endCopy_keepsRanges (s : State) (e : RemapEntry) : s.KeepsRanges (s.endCopy e) := by
  have advanced : s.KeepsRanges ((State.checkQuiesce { s with migrationOp := none }).changeRemap e.rank e.row
      fun x => { x with cursor := x.cursor + 1 }) :=
    .after (State.changeRemap_keepsRanges _ _ _ _) (.after (State.checkQuiesce_keepsRanges _) (.of_same rfl))
  simp only [State.endCopy]
  split
  · exact advanced
  · split
    · exact .after (State.completeMigration_keepsRanges _ _ _) advanced
    · exact advanced

theorem State.endRebuildDecode_keepsRanges (s : State) (d : Decode) : s.KeepsRanges (s.endRebuildDecode d) :=
  .then_same (s.report_keepsRanges d .rebuild s.time) rfl

theorem State.rebuildWrite_keepsRanges (s : State) (op : OpenLine) (c : Content) :
    s.KeepsRanges (s.rebuildWrite op c) := by
  unfold State.rebuildWrite
  split
  · exact s.writeLine_keepsRanges _ _ _ _
  · exact .of_same rfl

theorem State.completeRebuild_keepsRanges (s : State) (rank : Nat) : s.KeepsRanges (s.completeRebuild rank) := by
  simp only [State.completeRebuild]
  split
  · exact .of_same rfl
  · exact .after (State.examineDevices_keepsRanges _ _ _ _) (.after (State.handRecord_keepsRanges _ _) (.of_same rfl))

theorem State.endRebuildLine_keepsRanges (s : State) (op : OpenLine) : s.KeepsRanges (s.endRebuildLine op) := by
  have advanced : ∀ d, s.KeepsRanges ((State.checkQuiesce { s with rebuildOp := none }).setRankDevices op.rank d) :=
    fun _ => .after (State.setRankDevices_keepsRanges _ _ _) (.after (State.checkQuiesce_keepsRanges _) (.of_same rfl))
  simp only [State.endRebuildLine]
  split
  · exact advanced _
  · exact .after (State.completeRebuild_keepsRanges _ _) (advanced _)

end Sys2Proof.Machine
end

section
/-! PROOFS. O56: every command keeps the journal's marks, the Pacer and the pass in their ranges, and so does every
step. -/

namespace Sys2Proof.Machine

/-! ## The frame of a command -/

/-- Every next state that a command's effect gives has its values in range when the state before had. -/
def EffectKeepsRanges (e : State → Host.Outcome State Fault Refusal) : Prop :=
  ∀ s t : State, e s = .next t → s.KeepsRanges t

/-- A command whose own effect keeps the ranges, from whatever state the pending hand-off leaves. -/
theorem act_keepsRanges {f : State → State} (hf : ∀ u : State, u.KeepsRanges (f u)) : EffectKeepsRanges (act f) :=
  fun s t h => by
    cases h
    exact .then_same (.after (hf _) s.settle_keepsRanges) rfl

theorem onHandOff_keepsRanges {p : HandOff → Bool} {f : State → HandOff → State}
    (hf : ∀ (u : State) (h : HandOff), u.KeepsRanges (f u h)) : EffectKeepsRanges (onHandOff p f) := fun s t h => by
  unfold onHandOff at h
  split at h
  · split at h
    · cases h
      exact .then_same (hf _ _) rfl
    · cases h
      exact .refl s
  · cases h
    exact .refl s

/-- An order whose own effect keeps the ranges. -/
theorem onOrder_keepsRanges {p : Line → Bool} {f : State → Nat → Line → State}
    (hf : ∀ (u : State) (slot : Nat) (l : Line), u.KeepsRanges (f u slot l)) : EffectKeepsRanges (onOrder p f) := by
  refine act_keepsRanges fun u => ?_
  split
  · exact .after (hf _ _ _) (.of_same rfl)
  · exact .refl u

/-! ### Resets and restart -/

theorem execPowerOnReset_keepsRanges (ranks : BitVec 2) (base : BitVec 13) :
    EffectKeepsRanges (execPowerOnReset ranks base) := fun s t h => by
  cases h
  exact State.powerOn_keepsRanges (fun _ => ⟨by omega, by omega⟩) _ _ _

theorem execArrayInitLineWrite_keepsRanges (rank : Nat) : EffectKeepsRanges (execArrayInitLineWrite rank) :=
  act_keepsRanges fun u => .when fun _ => by
    rw [u.initLine_eq]
    exact .of_same rfl

theorem execArrayInitDone_keepsRanges : EffectKeepsRanges execArrayInitDone :=
  act_keepsRanges fun u => .when fun _ => by
    split
    · exact .of_same rfl
    · exact u.openPort_keepsRanges

theorem execWarmReset_keepsRanges : EffectKeepsRanges execWarmReset := act_keepsRanges fun u => by
  split
  · exact State.powerOn_keepsRanges (fun ⟨hone, hfour, _⟩ => ⟨hone, hfour⟩) _ _ _
  · exact .refl u
  · exact .after (State.beginRestartStep_keepsRanges _ _) u.warmed_keepsRanges
  · exact .after (State.beginRestartStep_keepsRanges _ _) u.warmed_keepsRanges

theorem execRestartSlotScanRead_keepsRanges : EffectKeepsRanges execRestartSlotScanRead := act_keepsRanges fun u => by
  split
  · exact .after (State.beginRestartStep_keepsRanges _ _) (u.scanSlot_keepsRanges _ _)
  · exact .refl u

theorem execRestartWindowReread_keepsRanges : EffectKeepsRanges execRestartWindowReread := act_keepsRanges fun u => by
  split
  · exact .after (State.beginRestartStep_keepsRanges _ _) (u.rereadWindow_keepsRanges _ _ _)
  · exact .refl u

theorem execRestartMarkRead_keepsRanges : EffectKeepsRanges execRestartMarkRead := act_keepsRanges fun u => by
  split
  · exact .after (State.beginRestartStep_keepsRanges _ _) (u.rereadMark_keepsRanges _)
  · exact .refl u

/-! ### The demand path -/

theorem execAccessAboveLTotal_keepsRanges (kind : AccessKind) (address : Nat) :
    EffectKeepsRanges (execAccessAboveLTotal kind address) :=
  act_keepsRanges fun u => .when fun _ => u.serveAbove_keepsRanges _ _

theorem execServerReadGrant_keepsRanges (port : Nat) (errors : List SliceError) :
    EffectKeepsRanges (execServerReadGrant port errors) := act_keepsRanges fun u => by
  split
  · exact .when fun _ =>
      .after (State.freePort_keepsRanges _ _) (.then_same (u.applyErrorsHost_keepsRanges _ errors) rfl)
  · exact .refl u

theorem execServerReadDecodeEnd_keepsRanges (port : Nat) : EffectKeepsRanges (execServerReadDecodeEnd port) :=
  act_keepsRanges fun u => by
    split
    · exact .after (State.endServerRead_keepsRanges _ _) (.of_same rfl)
    · exact .refl u

theorem execWriteBackGrant_keepsRanges (port : Nat) : EffectKeepsRanges (execWriteBackGrant port) :=
  act_keepsRanges fun u => by
    split
    · exact .when fun _ => u.writeBackNow_keepsRanges _
    · exact .refl u

theorem execFullLineWriteGrant_keepsRanges (port : Nat) : EffectKeepsRanges (execFullLineWriteGrant port) :=
  act_keepsRanges fun u => by
    split
    · exact .when fun _ => .after (State.freePort_keepsRanges _ _)
        (.after (State.handOver_keepsRanges _ _ _) (u.hostWrite_reply_keepsRanges _ _ _))
    · exact .refl u

theorem execMergeReadGrant_keepsRanges (port : Nat) (errors : List SliceError) :
    EffectKeepsRanges (execMergeReadGrant port errors) := act_keepsRanges fun u => by
  split
  · exact .when fun _ => .then_same (u.applyErrorsHost_keepsRanges _ errors) rfl
  · exact .refl u

theorem execMergeDecodeEnd_keepsRanges (port : Nat) : EffectKeepsRanges (execMergeDecodeEnd port) :=
  act_keepsRanges fun u => by
    split
    · exact u.endMerge_keepsRanges _ _ _ _ _ _
    · exact .refl u

theorem execMaskedWriteHalfGrant_keepsRanges (port : Nat) : EffectKeepsRanges (execMaskedWriteHalfGrant port) :=
  act_keepsRanges fun u => by
    split
    · refine .when fun _ => ?_
      split
      · exact u.writeOrphanHalf_keepsRanges _ _ _ _
      · exact u.writeHalf_keepsRanges _ _ _ _
    · exact .refl u

theorem execMaskedWriteEntryGrant_keepsRanges (port : Nat) : EffectKeepsRanges (execMaskedWriteEntryGrant port) :=
  act_keepsRanges fun u => by
    split
    · exact .when fun _ => u.writeFromEntry_keepsRanges _ _ _ _
    · exact .refl u

/-! ### Hand-offs, the writer, the own reads and the takes -/

theorem execReadMarkWrite_keepsRanges : EffectKeepsRanges execReadMarkWrite :=
  onHandOff_keepsRanges fun _ _ => .after (State.moveMark_keepsRanges _ _) (.of_same rfl)

theorem execCauseAcknowledge_keepsRanges : EffectKeepsRanges execCauseAcknowledge :=
  onHandOff_keepsRanges fun _ _ => .after (State.setCauses_keepsRanges _ _) (.of_same rfl)

theorem execWindowStart_keepsRanges (record : Nat) : EffectKeepsRanges (execWindowStart record) :=
  act_keepsRanges fun u => .when fun _ => u.turnWindow_keepsRanges _ _

theorem execWindowEnd_keepsRanges (record : Nat) : EffectKeepsRanges (execWindowEnd record) :=
  act_keepsRanges fun u => .when fun _ => u.turnWindow_keepsRanges _ _

theorem execCwWriterGrant_keepsRanges : EffectKeepsRanges execCwWriterGrant := act_keepsRanges fun u => by
  split
  · exact .refl u
  · exact .when fun _ => .after (State.hostWrite_keepsRanges _ _ _) (.of_same rfl)

theorem execOwnReadGrant_keepsRanges (errors : List SliceError) : EffectKeepsRanges (execOwnReadGrant errors) :=
  act_keepsRanges fun u => by
    split
    · exact .when fun _ => u.grantOwnRead_keepsRanges _ errors
    · exact .refl u

theorem execOwnReadDecodeEnd_keepsRanges : EffectKeepsRanges execOwnReadDecodeEnd := act_keepsRanges fun u => by
  split
  · split
    · exact u.endOwnRead_keepsRanges _ _ _
    · exact .refl u
    · exact .refl u
  · exact .refl u

theorem execTakeStart_keepsRanges : EffectKeepsRanges execTakeStart := act_keepsRanges fun u => by
  refine .after (t := u.settleCursor) ?_ (.of_same rfl)
  exact .when fun _ => .of_same rfl

theorem execTakeUnusableLine_keepsRanges : EffectKeepsRanges execTakeUnusableLine := act_keepsRanges fun u => by
  split
  · exact .of_same rfl
  · exact .refl u

theorem execTakeNotPosted_keepsRanges : EffectKeepsRanges execTakeNotPosted := act_keepsRanges fun u => by
  split
  · exact .when fun _ => .of_same rfl
  · exact .refl u

theorem execTakeUnknownKind_keepsRanges : EffectKeepsRanges execTakeUnknownKind := act_keepsRanges fun u => by
  split
  · exact .when fun _ => .after (State.requestDone_keepsRanges _ _ _) (.of_same rfl)
  · exact .refl u

theorem execTakeLackOfRoom_keepsRanges : EffectKeepsRanges execTakeLackOfRoom := act_keepsRanges fun u => by
  split
  · exact .when fun _ => .of_same rfl
  · exact .refl u

/-! ### Decay, pacing and the background engines -/

theorem execDecayTick_keepsRanges : EffectKeepsRanges execDecayTick := act_keepsRanges fun _ => .when fun _ =>
  .after (State.clearAllSuspects_keepsRanges _) (.of_same rfl)

theorem execPaceIntervalStart_keepsRanges : EffectKeepsRanges execPaceIntervalStart := act_keepsRanges fun u => by
  split
  · next t _ =>
    have counted : u.KeepsRanges (u.periodicReview t).startCounts := .then_same (u.periodicReview_keepsRanges t) rfl
    exact .then_same (.after (State.accrueIfAccruing_keepsRanges _) counted) rfl
  · exact .refl u

theorem execPeriodicPaceReview_keepsRanges : EffectKeepsRanges execPeriodicPaceReview := act_keepsRanges fun u => by
  split
  · exact .when fun _ => .then_same u.askReview_keepsRanges rfl
  · exact .refl u

theorem execPassLate_keepsRanges : EffectKeepsRanges execPassLate :=
  act_keepsRanges fun u => .when fun _ => .after (State.review_keepsRanges _) u.markLate_keepsRanges

theorem execPatrolReadGrant_keepsRanges (errors : List SliceError) : EffectKeepsRanges (execPatrolReadGrant errors) :=
  act_keepsRanges fun u => .when fun _ => u.grantPatrolRead_keepsRanges errors

theorem execPatrolDecodeEnd_keepsRanges : EffectKeepsRanges execPatrolDecodeEnd := act_keepsRanges fun u => by
  split
  · exact u.endPatrolDecode_keepsRanges _
  · exact .refl u

theorem execPatrolWriteGrant_keepsRanges : EffectKeepsRanges execPatrolWriteGrant := act_keepsRanges fun u => by
  split
  · exact .when fun _ => .after (State.releasePatrol_keepsRanges _) (u.visitWrite_keepsRanges _ _)
  · exact .refl u

theorem execScrubVisitReadGrant_keepsRanges (errors : List SliceError) :
    EffectKeepsRanges (execScrubVisitReadGrant errors) := act_keepsRanges fun u => by
  split
  · exact .after (State.countTargeted_keepsRanges _ _) (u.grantTargetedRead_keepsRanges _ _)
  · exact .refl u

theorem execScrubVisitDecodeEnd_keepsRanges : EffectKeepsRanges execScrubVisitDecodeEnd := act_keepsRanges fun u => by
  split
  · exact u.endScrubDecode_keepsRanges _ _
  · exact .refl u

theorem execScrubVisitWriteGrant_keepsRanges : EffectKeepsRanges execScrubVisitWriteGrant := act_keepsRanges fun u => by
  split
  · exact .when fun _ => .after (State.releaseScrub_keepsRanges _ _)
      (.after (State.countDropped_keepsRanges _ _ _) (u.visitWrite_keepsRanges _ _))
  · exact .refl u

theorem execProbeReadGrant_keepsRanges (errors : List SliceError) : EffectKeepsRanges (execProbeReadGrant errors) :=
  act_keepsRanges fun u => by
    split
    · exact u.grantTargetedRead_keepsRanges _ _
    · exact .refl u

theorem execProbeDecodeEnd_keepsRanges : EffectKeepsRanges execProbeDecodeEnd := act_keepsRanges fun u => by
  split
  · exact u.endProbe_keepsRanges _ _
  · exact .refl u

theorem execCopyReadGrant_keepsRanges (errors : List SliceError) : EffectKeepsRanges (execCopyReadGrant errors) :=
  act_keepsRanges fun u => by
    split
    · exact .when fun _ => .then_same (u.applyErrors_keepsRanges _ _ _ errors) rfl
    · exact .refl u

theorem execCopyDecodeEnd_keepsRanges : EffectKeepsRanges execCopyDecodeEnd := act_keepsRanges fun u => by
  split
  · exact u.endCopyDecode_keepsRanges _
  · exact .refl u

theorem execCopyWriteGrant_keepsRanges : EffectKeepsRanges execCopyWriteGrant := act_keepsRanges fun u => by
  split
  · exact .when fun _ => .after (State.endCopy_keepsRanges _ _) (u.copyWrite_keepsRanges _ _ _)
  · exact .refl u

theorem execRebuildReadGrant_keepsRanges (errors : List SliceError) : EffectKeepsRanges (execRebuildReadGrant errors) :=
  act_keepsRanges fun u => by
    split
    · exact .when fun _ => .then_same (u.applyErrors_keepsRanges _ _ _ errors) rfl
    · exact .refl u

theorem execRebuildDecodeEnd_keepsRanges : EffectKeepsRanges execRebuildDecodeEnd := act_keepsRanges fun u => by
  split
  · exact u.endRebuildDecode_keepsRanges _
  · exact .refl u

theorem execRebuildWriteGrant_keepsRanges : EffectKeepsRanges execRebuildWriteGrant := act_keepsRanges fun u => by
  split
  · exact .when fun _ => .after (State.endRebuildLine_keepsRanges _ _) (u.rebuildWrite_keepsRanges _ _)
  · exact .refl u

theorem execHoldoffExpiry_keepsRanges : EffectKeepsRanges execHoldoffExpiry :=
  act_keepsRanges fun u => .when fun _ => u.raiseJournal_keepsRanges

theorem execStatusTimerExpiry_keepsRanges : EffectKeepsRanges execStatusTimerExpiry :=
  act_keepsRanges fun _ => .when fun _ => .after (State.askStatus_keepsRanges _) (.of_same rfl)

/-! ### Every command and every step -/

theorem exec_keepsRanges (c : Instr) : EffectKeepsRanges (exec c) := by
  cases c with
  | powerOnReset ranks base => exact execPowerOnReset_keepsRanges ranks base
  | arrayInitLineWrite rank => exact execArrayInitLineWrite_keepsRanges rank
  | arrayInitDone => exact execArrayInitDone_keepsRanges
  | warmReset => exact execWarmReset_keepsRanges
  | restartSlotScanRead => exact execRestartSlotScanRead_keepsRanges
  | restartWindowReread => exact execRestartWindowReread_keepsRanges
  | restartMarkRead => exact execRestartMarkRead_keepsRanges
  | restartEnd => exact act_keepsRanges State.admitIdentity_keepsRanges
  | accessAboveLTotal kind address => exact execAccessAboveLTotal_keepsRanges kind address
  | accessNotReady => exact act_keepsRanges .refl
  | serverReadPresent address => exact act_keepsRanges fun u => u.arrive_keepsRanges .read address (.read address)
  | serverReadGrant port errors => exact execServerReadGrant_keepsRanges port errors
  | serverReadDecodeEnd port => exact execServerReadDecodeEnd_keepsRanges port
  | writeBackGrant port => exact execWriteBackGrant_keepsRanges port
  | fullLineWritePresent address data =>
    exact act_keepsRanges fun u => u.arrive_keepsRanges .fullLineWrite address (.fullLineWrite address data)
  | fullLineWriteGrant port => exact execFullLineWriteGrant_keepsRanges port
  | maskedWritePresent address data mask =>
    exact act_keepsRanges fun u => u.arrive_keepsRanges .maskedWrite address (.maskedWrite address data mask)
  | mergeReadGrant port errors => exact execMergeReadGrant_keepsRanges port errors
  | mergeDecodeEnd port => exact execMergeDecodeEnd_keepsRanges port
  | maskedWriteHalfGrant port => exact execMaskedWriteHalfGrant_keepsRanges port
  | maskedWriteEntryGrant port => exact execMaskedWriteEntryGrant_keepsRanges port
  | slotPost => exact onHandOff_keepsRanges State.actOnSlot_keepsRanges
  | slotFree => exact onHandOff_keepsRanges State.actOnSlot_keepsRanges
  | windowArm => exact onHandOff_keepsRanges State.actOnRecord_keepsRanges
  | windowCancel => exact onHandOff_keepsRanges State.actOnRecord_keepsRanges
  | windowEmpty => exact onHandOff_keepsRanges State.actOnRecord_keepsRanges
  | windowStateNotActedOn => exact onHandOff_keepsRanges State.actOnRecord_keepsRanges
  | readMarkWrite => exact execReadMarkWrite_keepsRanges
  | causeAcknowledge => exact execCauseAcknowledge_keepsRanges
  | otherWindowWrite => exact onHandOff_keepsRanges fun _ _ => .of_same rfl
  | windowStart record => exact execWindowStart_keepsRanges record
  | windowEnd record => exact execWindowEnd_keepsRanges record
  | cwWriterGrant => exact execCwWriterGrant_keepsRanges
  | cwWriterAdmission => exact act_keepsRanges State.admitOldest_keepsRanges
  | ownReadGrant errors => exact execOwnReadGrant_keepsRanges errors
  | ownReadDecodeEnd => exact execOwnReadDecodeEnd_keepsRanges
  | takeStart => exact execTakeStart_keepsRanges
  | takeUnusableLine => exact execTakeUnusableLine_keepsRanges
  | takeNotPosted => exact execTakeNotPosted_keepsRanges
  | takeUnknownKind => exact execTakeUnknownKind_keepsRanges
  | takeLackOfRoom => exact execTakeLackOfRoom_keepsRanges
  | scrubRange => exact onOrder_keepsRanges State.takeScrub_keepsRanges
  | probeLine => exact onOrder_keepsRanges State.takeProbe_keepsRanges
  | retireRowMigrate => exact onOrder_keepsRanges State.takeMigrate_keepsRanges
  | retireRowRestore => exact onOrder_keepsRanges State.takeRestoreRow_keepsRanges
  | markDeviceRebuild => exact onOrder_keepsRanges State.takeMarkRebuild_keepsRanges
  | markDeviceEraseOnly => exact onOrder_keepsRanges State.takeMarkEraseOnly_keepsRanges
  | markDeviceRestore => exact onOrder_keepsRanges State.takeMarkRestore_keepsRanges
  | setPolicy => exact onOrder_keepsRanges State.takePolicy_keepsRanges
  | quiesce => exact onOrder_keepsRanges State.takeQuiesce_keepsRanges
  | resume => exact onOrder_keepsRanges State.takeResume_keepsRanges
  | exportTables => exact onOrder_keepsRanges State.takeExport_keepsRanges
  | exportLineEntry => exact act_keepsRanges State.admitExportLine_keepsRanges
  | decayTick => exact execDecayTick_keepsRanges
  | paceIntervalStart => exact execPaceIntervalStart_keepsRanges
  | periodicPaceReview => exact execPeriodicPaceReview_keepsRanges
  | passLate => exact execPassLate_keepsRanges
  | patrolReadGrant errors => exact execPatrolReadGrant_keepsRanges errors
  | patrolDecodeEnd => exact execPatrolDecodeEnd_keepsRanges
  | patrolWriteGrant => exact execPatrolWriteGrant_keepsRanges
  | scrubVisitReadGrant errors => exact execScrubVisitReadGrant_keepsRanges errors
  | scrubVisitDecodeEnd => exact execScrubVisitDecodeEnd_keepsRanges
  | scrubVisitWriteGrant => exact execScrubVisitWriteGrant_keepsRanges
  | probeReadGrant errors => exact execProbeReadGrant_keepsRanges errors
  | probeDecodeEnd => exact execProbeDecodeEnd_keepsRanges
  | copyReadGrant errors => exact execCopyReadGrant_keepsRanges errors
  | copyDecodeEnd => exact execCopyDecodeEnd_keepsRanges
  | copyWriteGrant => exact execCopyWriteGrant_keepsRanges
  | rebuildReadGrant errors => exact execRebuildReadGrant_keepsRanges errors
  | rebuildDecodeEnd => exact execRebuildDecodeEnd_keepsRanges
  | rebuildWriteGrant => exact execRebuildWriteGrant_keepsRanges
  | stagingDeparture => exact act_keepsRanges State.stagingDeparts_keepsRanges
  | holdoffExpiry => exact execHoldoffExpiry_keepsRanges
  | statusTimerExpiry => exact execStatusTimerExpiry_keepsRanges
  | statusWrite => exact act_keepsRanges State.admitStatus_keepsRanges

theorem State.idle_keepsRanges {s t : State} (h : s.idle = .next t) : s.KeepsRanges t := by
  unfold State.idle at h
  split at h
  · exact act_keepsRanges .refl s t h
  · split at h
    · exact exec_keepsRanges _ s t h
    · cases h
      exact .of_same rfl

theorem step_keepsRanges {s t : State} (h : step s = .next t) : s.KeepsRanges t := by
  unfold step at h
  split at h
  · exact .after (exec_keepsRanges _ _ t h) (.of_same rfl)
  · exact State.idle_keepsRanges h
/-- Settles O56: every command, hand-off and due step is made of operations that each keep the ranges. -/
theorem stepsKeepJournalAndPacerRanges : Obligations.StepsKeepJournalAndPacerRanges := fun _ _ h =>
  ⟨(step_keepsRanges h).journal, (step_keepsRanges h).pacer, (step_keepsRanges h).pass⟩

end Sys2Proof.Machine
end

section
/-! PROOFS. O53: the status lines, the departure of staging, the two timers and the status write. -/

namespace Sys2Proof.Machine

/-! ## The status lines (section 10.6) -/

theorem mul_boolValue (n : Nat) (b : Bool) : n * boolValue b = if b = true then n else 0 := by
  rw [boolValue, mul_ite, mul_one, mul_zero]

theorem CauseSet.toByte_eq (c : CauseSet) :
    c.toByte = (if c.order = true then 1 else 0) + (if c.journal = true then 2 else 0) +
      (if c.uncorrectable = true then 4 else 0) + (if c.room = true then 8 else 0) := by
  rw [CauseSet.toByte, mul_boolValue, mul_boolValue, mul_boolValue, boolValue]

theorem CauseSet.nonempty_iff (c : CauseSet) :
    c.nonempty = true ↔ c.order = true ∨ c.journal = true ∨ c.uncorrectable = true ∨ c.room = true := by
  simp only [CauseSet.nonempty, Bool.or_eq_true, or_assoc]

/-- The fields of part 1 of the status line lie apart in the places of section 10.6. -/
theorem State.statusPart1_holds (s : State) :
    HoldsFields s.statusPart1
      ([timeField 0 s.time, byteField 6 s.resetCause.code, byteField 7 s.journal.causes.toByte,
        ⟨8, 4, s.journal.published.toNat⟩, byteField 12 s.takeCursor, byteField 13 s.patrolState,
        byteField 14 (boolValue s.patrol.late + 2 * boolValue s.patrol.atRisk + 4 * boolValue s.quiesced),
        byteField 15 s.targeted.length, ⟨16, 4, s.patrol.passNumber⟩, ⟨20, 4, s.patrol.cursor⟩,
        ⟨24, 4, s.linesRemaining⟩, ⟨28, 2, s.patrol.rate⟩, byteField 30 s.migrationState,
        byteField 31 s.migrationQueue.length, byteField 32 ((s.migration.map Migration.rank).getD 255),
        byteField 33 ((s.migratingEntry.map RemapEntry.cursor).getD 255),
        ⟨36, 4, hostOrAbsent (s.migration.map Migration.row)⟩] ++
        (List.range 4).map (fun r => byteField (40 + r) (s.rebuildState r)) ++
        (List.range 4).map (fun r => ⟨44 + 4 * r, 4, (s.rankDevices r).cursor⟩)) :=
  holdsFields_lineOfFields _ rfl

/-- The fields of part 2 of the status line lie apart in the places of section 10.6. -/
theorem State.statusPart2_holds (s : State) :
    HoldsFields s.statusPart2
      [timeField 0 s.time, ⟨8, 4, hostOrAbsent (s.lastUncorrectable.map Prod.fst)⟩,
        timeField 12 ((s.lastUncorrectable.map Prod.snd).getD Config.lastUncorrectableTimeOfNone),
        ⟨20, 4, s.counters.corrected⟩, ⟨24, 4, s.counters.deepCorrected⟩, ⟨28, 4, s.counters.uncorrectable⟩,
        ⟨32, 4, s.counters.erasedReads⟩, ⟨36, 4, s.counters.writeBacksSkipped⟩, ⟨40, 4, s.counters.untrackedEvents⟩,
        ⟨44, 4, s.counters.journalHeld⟩] :=
  holdsFields_lineOfFields _ rfl

/-! ## The departure of the head of staging (R176) -/

theorem exec_stagingDeparture {s : State} (h : s.handOff = none) :
    exec .stagingDeparture s = .next (State.finish s.stagingDeparts) := by
  show execStagingDeparture s = _
  rw [execStagingDeparture, act_next h]

/-- A corrected head with free at 32 or less is withheld and counted. -/
theorem State.stagingDeparts_withheld {s : State} {r : JournalRecord} {rest : List JournalRecord}
    (hs : s.journal.staging = r :: rest) (hk : r.kind.isCorrectedKind = true) (hf : s.journalFree ≤ 32) :
    ∃ w, s.stagingDeparts =
      { s with waiters := w, journal := { s.journal with staging := rest },
               counters := { s.counters with journalHeld := bump s.counters.journalHeld } } := by
  obtain ⟨w, e⟩ := State.syncJournal_frame (State.countHeld { s with journal := { s.journal with staging := rest } })
  refine ⟨w, ?_⟩
  have hwithheld : (r.kind.isCorrectedKind && decide (s.journalFree ≤ 32)) = true := by simp [hk, hf]
  simp only [State.stagingDeparts, hs, hwithheld, if_true, e]
  rfl

/-- A record with room is not withheld. -/
theorem State.not_withheld_of_room {s : State} {k : RecordKind} (h : s.roomFor k = true) :
    ¬ (k.isCorrectedKind && decide (s.journalFree ≤ 32)) = true := by
  cases hk : k.isCorrectedKind with
  | false => simp
  | true =>
    have hfree : 32 < s.journalFree := by simpa [State.roomFor, hk] using h
    simpa using hfree

/-- A head with room is published when the writer admits the Journal's line. -/
theorem State.stagingDeparts_published {s : State} {r : JournalRecord} {rest : List JournalRecord}
    (hs : s.journal.staging = r :: rest) (henter : s.mayEnter .journal = true) (hroom : s.roomFor r.kind = true) :
    ∃ w, s.stagingDeparts =
      { State.publish (State.stopAwaiting { s with journal := { s.journal with staging := rest } } .journal) r with
        waiters := w } := by
  obtain ⟨w, e⟩ := State.syncJournal_frame
    (State.publish (State.stopAwaiting { s with journal := { s.journal with staging := rest } } .journal) r)
  refine ⟨w, ?_⟩
  simp only [State.stagingDeparts, hs, henter, hroom, if_neg (State.not_withheld_of_room hroom), Bool.and_self, if_true,
    e]

/-! ## The timers and the status write (R178, R180) -/

theorem exec_holdoffExpiry {s : State} (h : s.handOff = none) (he : s.expired s.journal.holdoff = true) :
    exec .holdoffExpiry s = .next (State.finish s.raiseJournal) := by
  show execHoldoffExpiry s = _
  rw [execHoldoffExpiry, act_next h, if_pos he]

theorem State.raiseJournal_eq (s : State) :
    ∃ w, s.raiseJournal =
      { s with waiters := w,
               journal := { s.journal with coalesce := 0, holdoff := none,
                                           causes := { s.journal.causes with journal := true } } } :=
  State.raiseCause_eq { s with journal := { s.journal with coalesce := 0, holdoff := none } } .journal

theorem exec_statusTimerExpiry {s : State} (h : s.handOff = none) (he : s.expired s.journal.statusTimer = true) :
    exec .statusTimerExpiry s =
      .next (State.finish (State.askStatus { s with journal := { s.journal with statusTimer := none } })) := by
  show execStatusTimerExpiry s = _
  rw [execStatusTimerExpiry, act_next h, if_pos he]

theorem State.mayEnter_status {s : State} (hhead : s.waiters.head? = some .status) (hroom : s.writer.length + 2 ≤ 32) :
    s.mayEnter .status = true := by
  rw [State.mayEnter, Bool.and_eq_true, decide_eq_true_eq, decide_eq_true_eq]
  exact ⟨hhead, hroom⟩

/-- The two lines enter in one, part 1 first. -/
theorem State.enterStatus_eq (s : State) :
    s.enterStatus =
      { s with writer := s.writer ++ [.line 1 s.statusPart1, .line 3 s.statusPart2],
               journal := { s.journal with
                 statusTimer := some (timeAfter s.time s.policy.statusInterval) } } := by
  rw [State.enterStatus, State.enterWriter, State.enterWriter]
  simp only [List.append_assoc, List.cons_append, List.nil_append]

theorem exec_statusWrite {s : State} (h : s.handOff = none) (he : s.mayEnter .status = true) :
    exec .statusWrite s = .next (State.finish (s.stopAwaiting .status).enterStatus) := by
  show execStatusWrite s = _
  rw [execStatusWrite, act_next h, State.admitStatus, if_pos he]

/-- Settles O53: each of the four commands by the branch that its conditions select. -/
theorem stagingAndTimersAct : Obligations.StagingAndTimersAct := by
  refine ⟨⟨Config.lastUncorrectableTimeOfNone.toNat, fun s => ⟨?part1, ?part2⟩⟩,
    fun s r rest h hs => ⟨fun hk hf => ?withheld, fun henter hroom => ?published⟩,
    fun s h => ⟨fun t ht hr => ?holdoff, fun t ht hr => ?timer, fun hhead hroom => ?write,
      s.journal.causes.nonempty_iff⟩⟩
  case part1 =>
    have holds := s.statusPart1_holds
    rw [CauseSet.toByte_eq, mul_boolValue, mul_boolValue, State.migrationState, State.migratingEntry] at holds
    cases hm : s.migration <;> rw [hm] at holds <;> exact holds
  case part2 =>
    have holds := s.statusPart2_holds
    cases hu : s.lastUncorrectable <;> rw [hu] at holds <;> exact holds
  case withheld =>
    obtain ⟨w, e⟩ := State.stagingDeparts_withheld hs hk hf
    have departs := exec_stagingDeparture h
    rw [e] at departs
    exact ⟨_, departs, rfl, rfl, rfl, rfl, rfl⟩
  case published =>
    obtain ⟨w, e⟩ := State.stagingDeparts_published hs henter hroom
    obtain ⟨_, causes, coalesce, holdoff, armed, published, counted, raised, -⟩ :=
      (State.stopAwaiting { s with journal := { s.journal with staging := rest } } .journal).publish_eq r
    have departs := exec_stagingDeparture h
    rw [e, published] at departs
    refine ⟨_, departs, rfl, rfl, rfl, fun hlt => ?_, raised, rfl⟩
    obtain ⟨hcoalesce, hholdoff⟩ := counted hlt
    exact ⟨hcoalesce, fun h0 => hholdoff.trans (if_pos h0), fun h0 => hholdoff.trans (if_neg h0)⟩
  case holdoff =>
    obtain ⟨w, e⟩ := s.raiseJournal_eq
    have expires := exec_holdoffExpiry h (State.expired_some ht hr)
    rw [e] at expires
    exact ⟨_, expires, rfl, (CauseSet.nonempty_iff _).2 (.inr (.inl rfl)), rfl⟩
  case timer =>
    exact ⟨_, exec_statusTimerExpiry h (State.expired_some ht hr), State.askStatus_contains _,
      State.askStatus_only_waiters _⟩
  case write =>
    rw [exec_statusWrite h (State.mayEnter_status hhead hroom), State.enterStatus_eq]
    rfl

end Sys2Proof.Machine
end

section
/-! PROOFS. O33, O49: SCRUB RANGE and PROBE LINE at their takes; a probe's read, and its end without a write. -/

namespace Sys2Proof.Machine

/-! ## The takes of the targeted orders (R115, R116) -/

theorem exec_scrubRange {s : State} {slot : Nat} {l : Line} (h : s.DispatchDue slot l 1) :
    exec .scrubRange s = .next ((s.endTake slot l).takeScrub slot l).finish := by
  obtain ⟨-, -, -, -, hkind, -⟩ := id h
  exact onOrder_of_due h rfl (by simp [hkind]) State.takeScrub

theorem exec_probeLine {s : State} {slot : Nat} {l : Line} (h : s.DispatchDue slot l 2) :
    exec .probeLine s = .next ((s.endTake slot l).takeProbe slot l).finish := by
  obtain ⟨-, -, -, -, hkind, -⟩ := id h
  exact onOrder_of_due h rfl (by simp [hkind]) State.takeProbe

theorem State.takeScrub_refused {s : State} {l : Line} (h : s.lTotal ≤ lineField l 16 4) (slot : Nat) :
    s.takeScrub slot l = s.requestDone slot (doneLine l s.time .refused .badLine []) :=
  if_pos h

theorem State.takeScrub_admitted {s : State} {l : Line} (h : lineField l 16 4 < s.lTotal) (slot : Nat) :
    s.takeScrub slot l = State.requestItem { s with targeted := s.targeted ++ [s.scrubOrder slot l] }
      (.line (64 + slot) (takenLine l s.time)) :=
  if_neg (Nat.not_le.2 h)

theorem State.takeProbe_refused {s : State} {l : Line} (h : s.lTotal ≤ lineField l 16 4) (slot : Nat) :
    s.takeProbe slot l = s.requestDone slot (doneLine l s.time .refused .badLine []) :=
  if_pos h

theorem State.takeProbe_admitted {s : State} {l : Line} (h : lineField l 16 4 < s.lTotal) (slot : Nat) :
    s.takeProbe slot l = State.requestItem { s with targeted := s.targeted ++ [probeOrder slot l] }
      (.line (64 + slot) (takenLine l s.time)) :=
  if_neg (Nat.not_le.2 h)

/-- A SCRUB RANGE is clamped where its count is not 0 and its range passes the channel's end, or its budget is cut. -/
theorem State.scrubOrder_clamped (s : State) (slot : Nat) (l : Line) :
    (s.scrubOrder slot l).clamped =
      decide ((lineField l 20 4 ≠ 0 ∧ s.lTotal < lineField l 16 4 + lineField l 20 4) ∨ 8 < lineField l 24 1) := by
  rw [Bool.decide_or, Bool.decide_and, Bool.and_comm]
  rfl

/-- Settles O33, by the comparison of the first line with L_total: the order of the queue is the one that its line
describes, since the end of the take leaves L_total, the part time and the queue as they are. -/
theorem targetedOrderIsQueued : Obligations.TargetedOrderIsQueued := by
  intro s slot l first count budget hfirst hcount hbudget
  subst hfirst hcount hbudget
  refine ⟨fun hdue hline => ?_, fun hdue hline => ⟨s.scrubOrder slot l, ?_, ?_⟩, fun hdue hline => ?_,
    fun hdue hline => ⟨probeOrder slot l, ?_, rfl⟩⟩
  · rw [exec_scrubRange hdue]
    exact next_finish_congr (State.takeScrub_refused (s := s.endTake slot l) hline slot)
  · rw [exec_scrubRange hdue]
    exact next_finish_congr (State.takeScrub_admitted (s := s.endTake slot l) hline slot)
  · rw [← s.scrubOrder_clamped slot l]
    rfl
  · rw [exec_probeLine hdue]
    exact next_finish_congr (State.takeProbe_refused (s := s.endTake slot l) hline slot)
  · rw [exec_probeLine hdue]
    exact next_finish_congr (State.takeProbe_admitted (s := s.endTake slot l) hline slot)

/-! ## Probes (R122, R123) -/

theorem exec_probeReadGrant {s : State} (h : s.handOff = none) {o : TargetedOrder}
    (hr : s.targetedReadFor .probeLine = some o) (errors : List SliceError) :
    exec (.probeReadGrant errors) s = .next (s.grantTargetedRead o errors).finish := by
  show execProbeReadGrant errors s = _
  rw [execProbeReadGrant, act_next h]
  simp only [hr]

theorem exec_probeDecodeEnd {s : State} (h : s.handOff = none) {d : Decode} {o : TargetedOrder}
    (hd : decodingOf s.targetedOp = some d) (ho : s.underWay .probeLine = some o) :
    exec .probeDecodeEnd s = .next (s.endProbe o d).finish := by
  show execProbeDecodeEnd s = _
  rw [execProbeDecodeEnd, act_next h]
  simp only [hd, ho]

/-- The end of a probe: a QUIESCE that its release completes, then the queue without the order, then the DONE write at
the part time of the decode's end. -/
theorem State.endProbe_eq {s u q : State} (o : TargetedOrder) {d : Decode} (hu : u = s.report d .probe s.time)
    (hq : q = State.checkQuiesce { u with targetedOp := none }) :
    s.endProbe o d = State.requestDone
      { q with targeted := s.targeted.filter fun x => decide (x.slot ≠ o.slot) }
      o.slot (doneLine (q.slot o.slot).taken s.time .ok o.reason (d.probeResults s.time)) := by
  have kept : q.targeted = s.targeted ∧ q.time = s.time := by
    obtain ⟨z, wr, wt, j, m, quiesced⟩ := State.checkQuiesce_frame { u with targetedOp := none }
    obtain ⟨dv, b, f, a, mg, sp, r, w, wt', j', c, lu, reported⟩ := s.report_frame d .probe s.time
    rw [hq, quiesced, hu, reported]
    exact ⟨rfl, rfl⟩
  obtain ⟨targeted, time⟩ := kept
  have ended : s.endProbe o d = q.completeTargeted o (d.probeResults s.time) := by
    rw [hq, hu]
    rfl
  rw [ended, ← targeted, ← time]
  rfl

/-- The reports of a decode leave the array. -/
theorem State.report_sameArray (s : State) (d : Decode) (src : Source) (t : PartTime) :
    s.SameArray (s.report d src t) := by
  obtain ⟨dv, b, f, a, mg, sp, r, w, wt, j, c, lu, reported⟩ := s.report_frame d src t
  rw [reported]
  exact ⟨rfl, rfl, rfl⟩

/-- Settles O49: the read's record is that of the order's line, and the decode's end reports, releases and completes. -/
theorem probeReportsWithoutWriting : Obligations.ProbeReportsWithoutWriting := by
  refine ⟨rfl, fun s o h hk => ⟨fun errors hreq hgrant => ⟨_, _, rfl, rfl, ?_⟩, fun op d hop ho _ hd =>
    ⟨_, _, rfl, rfl, ?_, s.report_sameArray d .probe s.time⟩⟩⟩
  · rw [exec_probeReadGrant h (State.targetedReadFor_some hreq hk hgrant), State.grantTargetedRead_eq]
    rfl
  · rw [exec_probeDecodeEnd h (hop ▸ decodingOf_some hd) (State.underWay_some ho hk), State.endProbe_eq o rfl rfl]
    rfl

end Sys2Proof.Machine
end

section
/-! PROOFS. O35: the start of a migration, by the remap entry that it creates or changes and the spare row it takes. -/

namespace Sys2Proof.Machine

/-! ## Remap entries after a change, and after the start of a migration (R132, step 3) -/

/-- A change that keeps the keys reaches the entries of its row, and leaves every other row's entry. -/
theorem State.findRemap_changeRemap (s : State) (rank row : Nat) (f : RemapEntry → RemapEntry)
    (hkey : ∀ e, (f e).rank = e.rank ∧ (f e).row = e.row) (r w : Nat) :
    (s.changeRemap rank row f).findRemap r w =
      (s.findRemap r w).map fun e => if e.rank = rank ∧ e.row = row then f e else e := by
  have samePick : ((fun e : RemapEntry => decide (e.rank = r ∧ e.row = w)) ∘ fun e =>
      if e.rank = rank ∧ e.row = row then f e else e) = fun e => decide (e.rank = r ∧ e.row = w) := by
    funext e
    obtain ⟨hrank, hrow⟩ := hkey e
    dsimp only [Function.comp_apply]
    split
    · rw [hrank, hrow]
    · rfl
  rw [State.findRemap, State.changeRemap, List.find?_map, samePick]
  rfl

theorem State.startRemap_of_none {s : State} {q : Retirement} (h : s.findRemap q.rank q.row = none) (i : Nat) :
    s.startRemap q i =
      { s with remaps := s.remaps ++ [{ rank := q.rank, row := q.row, spare := i, earlier := none, state := .migrating,
                                        cursor := 0, origin := q.origin }] } := by
  rw [State.startRemap, h]

theorem State.startRemap_of_some {s : State} {q : Retirement} {e : RemapEntry} (h : s.findRemap q.rank q.row = some e)
    (i : Nat) :
    s.startRemap q i = s.changeRemap q.rank q.row fun x =>
      { x with spare := i, earlier := some e.spare, state := .migrating, cursor := 0, origin := q.origin } := by
  rw [State.startRemap, h]

theorem State.startRemap_findRemap_of_some {s : State} {q : Retirement} {e : RemapEntry}
    (hfound : s.findRemap q.rank q.row = some e) (i r w : Nat) :
    (s.startRemap q i).findRemap r w = (s.findRemap r w).map fun x =>
      if x.rank = q.rank ∧ x.row = q.row then
        { x with spare := i, earlier := some e.spare, state := .migrating, cursor := 0, origin := q.origin }
      else x := by
  rw [State.startRemap_of_some hfound]
  refine s.findRemap_changeRemap q.rank q.row _ ?_ r w
  exact fun _ => ⟨rfl, rfl⟩

theorem State.startRemap_findRemap_other (s : State) (q : Retirement) (i : Nat) {r w : Nat}
    (hother : ¬ (r = q.rank ∧ w = q.row)) : (s.startRemap q i).findRemap r w = s.findRemap r w := by
  cases hfound : s.findRemap q.rank q.row with
  | none =>
    rw [State.startRemap_of_none hfound, State.findRemap, List.find?_append, List.find?_cons_of_neg, List.find?_nil,
      Option.or_none]
    · rfl
    · exact fun hkey => hother ((of_decide_eq_true hkey).imp Eq.symm Eq.symm)
  | some e =>
    rw [State.startRemap_findRemap_of_some hfound]
    cases hx : s.findRemap r w with
    | none => rfl
    | some x =>
      obtain ⟨rfl, rfl⟩ := State.findRemap_key hx
      exact congrArg some (if_neg hother)

theorem State.startRemap_findRemap_same {s : State} {q : Retirement} {e : RemapEntry}
    (hfound : s.findRemap q.rank q.row = some e) (i : Nat) :
    (s.startRemap q i).findRemap q.rank q.row =
      some { e with spare := i, earlier := some e.spare, state := .migrating, cursor := 0, origin := q.origin } := by
  rw [State.startRemap_findRemap_of_some hfound, hfound]
  exact congrArg some (if_pos (State.findRemap_key hfound))

/-! ## The start of a migration (R127, R132) -/

theorem State.startMigration_of_some {s : State} {m : Migration} (h : s.migration = some m) : s.startMigration = s := by
  rw [State.startMigration, h]

/-- The migration of a retirement, with nothing copied yet. -/
def Retirement.migration (q : Retirement) : Migration :=
  { rank := q.rank, row := q.row, origin := q.origin, slot := q.slot, corrected := 0, deepCorrected := 0,
    uncorrectable := 0, poisoned := 0, copiesDropped := 0 }

/-- The state in which a retirement has left the queue and begun on a spare row, its remap entry still as it was. -/
def State.beginMigration (s : State) (q : Retirement) (rest : List Retirement) (spare : Nat) : State :=
  State.setSpareState { s with migrationQueue := rest, migration := some q.migration } q.rank spare .inUse

theorem State.beginMigration_spareState (s : State) {q : Retirement} (rest : List Retirement) {i : Nat}
    (hrank : q.rank < 4) (hi : i < 128) (r j : Nat) :
    (s.beginMigration q rest i).spareState r j = if r = q.rank ∧ j = i then .inUse else s.spareState r j :=
  State.spareState_set _ _ _ _ _ _ hrank hi

theorem State.startMigration_started {s : State} {q : Retirement} {rest : List Retirement} {i : Nat}
    (hidle : s.migration = none) (hqueue : s.migrationQueue = q :: rest) (hlowest : s.lowestFree q.rank = some i) :
    s.startMigration = (s.beginMigration q rest i).startRemap q i := by
  rw [State.startMigration, hidle, hqueue]
  simp only [hlowest]
  rfl

/-- Settles O35: the lowest FREE spare row is the one that a start takes, and what a start does to the spare rows and to
the remap entries is what `beginMigration` and `startRemap` do. -/
theorem migrationStartsWithOldest : Obligations.MigrationStartsWithOldest := by
  intro s q rest i
  refine ⟨fun _ => State.startMigration_of_some, fun hidle hqueue hrank hi hfree hlower => ⟨_, rfl, ?_⟩⟩
  have hlowest : s.lowestFree q.rank = some i := (s.lowestFree_eq_some q.rank i).2 ⟨hi, hfree, hlower⟩
  have spareState := s.beginMigration_spareState rest hrank hi
  obtain ⟨l, hstart⟩ := (s.beginMigration q rest i).startRemap_frame q i
  have keptSpares : ((s.beginMigration q rest i).startRemap q i).spareState =
      (s.beginMigration q rest i).spareState := by
    rw [hstart]
    rfl
  rw [State.startMigration_started hidle hqueue hlowest]
  refine ⟨?queue, ?migration, ?taken, fun r j hother => ?spares, fun r w hother => ?entries, fun hnone => ?created,
    fun e hsome => ?changed, ?frame⟩
  case queue => rw [hstart]; rfl
  case migration => rw [hstart]; rfl
  case taken => rw [keptSpares, spareState, if_pos ⟨rfl, rfl⟩]
  case spares => rw [keptSpares, spareState, if_neg hother]
  case entries => exact State.startRemap_findRemap_other (s.beginMigration q rest i) q i hother
  case created => rw [State.startRemap_of_none (s := s.beginMigration q rest i) hnone]; rfl
  case changed => exact State.startRemap_findRemap_same (s := s.beginMigration q rest i) hsome i
  case frame => rw [hstart]; rfl

end Sys2Proof.Machine
end

section
/-! PROOFS. The device map of a rank (R145): what its soundness is read off, and the two changes it goes through. -/

namespace Sys2Proof.Machine

/-! ## Devices and positions -/

theorem RankDevices.stateOf_outside (r : RankDevices) {d : Nat} (h : 20 ≤ d) : r.stateOf d = .replaced := by
  simp [RankDevices.stateOf, nth, h]

theorem RankDevices.lt_of_stateOf_ne {r : RankDevices} {d : Nat} (h : r.stateOf d ≠ .replaced) : d < 20 :=
  Nat.lt_of_not_le fun hd => h (r.stateOf_outside hd)

theorem RankDevices.markedDevice_eq_none {r : RankDevices} :
    r.markedDevice = none ↔ ∀ d, d < 20 → r.stateOf d ≠ .marked := by
  simp [RankDevices.markedDevice, firstBelow_eq_none, Config.devicesPerRank]

theorem RankDevices.markedDevice_isSome_of {r : RankDevices} {d : Nat} (hd : d < 20) (h : r.stateOf d = .marked) :
    r.markedDevice.isSome = true :=
  Option.isSome_iff_ne_none.2 fun hnone => RankDevices.markedDevice_eq_none.1 hnone d hd h

theorem RankDevices.markedDevice_eq_some {r : RankDevices} {d : Nat} (h : r.markedDevice = some d) :
    d < 20 ∧ r.stateOf d = .marked := by
  obtain ⟨hd, hm, -⟩ := firstBelow_eq_some.1 h
  exact ⟨hd, of_decide_eq_true hm⟩

theorem RankDevices.mem_posMap {r : RankDevices} {d : Nat} : d ∈ r.posMap.toList ↔ ∃ p, p < 19 ∧ r.carrier p = d := by
  constructor
  · intro h
    obtain ⟨p, hp, rfl⟩ := Vector.mem_iff_getElem.1 (Vector.mem_toList_iff.1 h)
    exact ⟨p, hp, by simp [RankDevices.carrier, nth, hp]⟩
  · rintro ⟨p, hp, rfl⟩
    exact r.carrier_mem p hp

theorem RankDevices.carrier_positionOf {r : RankDevices} {d m : Nat} (h : r.positionOf d = some m) :
    r.carrier m = d := by
  obtain ⟨-, hm, -⟩ := firstBelow_eq_some.1 h
  exact of_decide_eq_true hm

/-- A device in the map has a position. -/
theorem RankDevices.exists_positionOf {r : RankDevices} {d : Nat} (h : d ∈ r.posMap.toList) :
    ∃ m, r.positionOf d = some m := by
  obtain ⟨p, hp, hd⟩ := RankDevices.mem_posMap.1 h
  refine Option.ne_none_iff_exists'.1 fun hnone => ?_
  have := firstBelow_eq_none.1 hnone p hp
  simp [hd] at this

/-! ## Sound device maps -/

/-- Soundness is read off the device states, the position map and the flag of the rebuild; a rebuild may have ended. -/
theorem RankDevices.Sound.of_map {r x : RankDevices} (h : r.Sound) (hstates : x.states = r.states)
    (hmap : x.posMap = r.posMap) (hflight : x.inFlight = true → r.inFlight = true) : x.Sound := by
  have state : x.stateOf = r.stateOf := funext fun d => by rw [RankDevices.stateOf, hstates]; rfl
  have marked : x.markedDevice = r.markedDevice := by rw [RankDevices.markedDevice, state]; rfl
  obtain ⟨hnodup, hmem, hlt, hmarked, hreplaced, hspare, hgone, hfly⟩ := h
  rw [RankDevices.Sound, hmap, state, marked]
  exact ⟨hnodup, hmem, hlt, hmarked, hreplaced, hspare, hgone, fun hx => hfly (hflight hx)⟩

/-- A device in use carries a position. -/
theorem RankDevices.Sound.carries {r : RankDevices} (h : r.Sound) {d : Nat}
    (hd : r.stateOf d = .active ∨ r.stateOf d = .marked) : d ∈ r.posMap.toList := by
  obtain ⟨-, hmem, -, -, -, -, -, -⟩ := h
  exact (hmem d (RankDevices.lt_of_stateOf_ne (r := r) (by rcases hd with hd | hd <;> simp [hd]))).1 hd

theorem RankDevices.Sound.marked_unique {r : RankDevices} (h : r.Sound) {d e : Nat} (hd : d < 20) (he : e < 20)
    (hmd : r.stateOf d = .marked) (hme : r.stateOf e = .marked) : d = e := by
  obtain ⟨-, -, -, hmarked, -, -, -, -⟩ := h
  exact hmarked d e hd he hmd hme

/-- While a rebuild is in flight device 19 is SPARE and some device is MARKED. -/
theorem RankDevices.Sound.rebuilding {r : RankDevices} (h : r.Sound) (hf : r.inFlight = true) :
    r.stateOf 19 = .spare ∧ r.markedDevice.isSome = true := by
  obtain ⟨-, -, -, -, -, -, -, hfly⟩ := h
  exact hfly hf

/-- With no device MARKED no rebuild is in flight. -/
theorem RankDevices.Sound.not_inFlight {r : RankDevices} (h : r.Sound) (hnone : r.markedDevice = none) :
    r.inFlight = false := by
  refine Bool.eq_false_iff.2 fun hf => ?_
  have := (h.rebuilding hf).2
  simp [hnone] at this

/-- A device that R147 lets an order mark is ACTIVE. -/
theorem RankDevices.Sound.active_of_unmarked {r : RankDevices} (h : r.Sound) {d : Nat} (hin : r.stateOf d ≠ .replaced)
    (hspare : ¬ (d = 19 ∧ r.stateOf 19 = .spare)) (hnone : r.markedDevice = none) : r.stateOf d = .active := by
  obtain ⟨-, -, -, -, -, honly, -, -⟩ := h
  have hd := RankDevices.lt_of_stateOf_ne hin
  cases hs : r.stateOf d with
  | active => rfl
  | spare =>
    obtain rfl := honly d hd hs
    exact absurd ⟨rfl, hs⟩ hspare
  | marked => exact absurd hs (RankDevices.markedDevice_eq_none.1 hnone d hd)
  | replaced => exact absurd hs hin

/-- The marking of an ACTIVE device in a rank that has no MARKED one (R148, steps 1 and 2). -/
theorem RankDevices.Sound.marking {r : RankDevices} (h : r.Sound) {device : Nat} (hactive : r.stateOf device = .active)
    (hnone : r.markedDevice = none) (mode : MarkMode) (now : PartTime) : (r.marking device mode now).Sound := by
  have hd : device < 20 := RankDevices.lt_of_stateOf_ne (r := r) (by simp [hactive])
  have state := r.marking_stateOf hd mode now
  have unmarked := RankDevices.markedDevice_eq_none.1 hnone
  have idle := h.not_inFlight hnone
  obtain ⟨hnodup, hmem, hlt, -, hreplaced, hspare, hgone, -⟩ := h
  have only : ∀ x, x < 20 → (r.marking device mode now).stateOf x = .marked → x = device := fun x hx hm => by
    by_contra hne
    rw [state, if_neg hne] at hm
    exact unmarked x hx hm
  have other : ∀ x, (r.marking device mode now).stateOf x ≠ .marked →
      (r.marking device mode now).stateOf x = r.stateOf x := fun x hx => by
    rw [state] at hx ⊢
    exact if_neg fun he => hx (if_pos he)
  have nineteen : r.stateOf 19 ≠ .spare → (r.marking device mode now).stateOf 19 ≠ .spare := fun hne hs => by
    rw [other 19 (by simp [hs])] at hs
    exact hne hs
  unfold RankDevices.Sound
  rw [r.marking_posMap]
  refine ⟨hnodup, fun x hx => ?_, hlt, fun x y hx hy hmx hmy => (only x hx hmx).trans (only y hy hmy).symm,
    fun x y hx hy hrx hry => ?_, fun x hx hs => ?_, fun x hx hrx => ?_, fun hf => ?_⟩
  · rw [← hmem x hx, state]
    split
    · next he => simp [he, hactive]
    · rfl
  · exact hreplaced x y hx hy (other x (by simp [hrx]) ▸ hrx) (other y (by simp [hry]) ▸ hry)
  · exact hspare x hx (other x (by simp [hs]) ▸ hs)
  · exact nineteen (hgone x hx (other x (by simp [hrx]) ▸ hrx))
  · cases hstart : r.startsRebuild mode with
    | false =>
      rw [RankDevices.marking_not_started hstart] at hf
      simp [idle] at hf
    | true =>
      have hspare19 : r.stateOf 19 = .spare := of_decide_eq_true (Bool.and_eq_true .. ▸ hstart).2
      refine ⟨?_, RankDevices.markedDevice_isSome_of hd (by rw [state, if_pos rfl])⟩
      rw [state, if_neg fun he => by simp [← he, hspare19] at hactive]
      exact hspare19

/-! ## Device 19 in the place of a device (R150, R156) -/

theorem RankDevices.completed_stateOf (r : RankDevices) {d m : Nat} (hd : d < 19) (hm : m < 19) {x : Nat}
    (hx : x < 20) :
    (r.completed d m).stateOf x = if x = 19 then .active else if x = d then .replaced else r.stateOf x := by
  obtain ⟨hgone, hactive, hkept, -, -⟩ := r.completed_spec hd hm
  split
  · next h => rw [h, hactive]
  · next h19 =>
    split
    · next h => rw [h, hgone]
    · next hne => exact hkept x (by omega) hne

/-- In the map, device 19 is in the place of the device. -/
theorem RankDevices.mem_completed_posMap {r : RankDevices} (h : r.Sound) {d m : Nat} (hd : d < 19)
    (hm : r.positionOf d = some m) (x : Nat) :
    x ∈ (r.completed d m).posMap.toList ↔ x = 19 ∨ (x ∈ r.posMap.toList ∧ x ≠ d) := by
  have hm19 := RankDevices.positionOf_lt hm
  have hcm := RankDevices.carrier_positionOf hm
  obtain ⟨-, -, -, hcarrier, hcarriers⟩ := r.completed_spec hd hm19
  simp only [RankDevices.mem_posMap]
  constructor
  · rintro ⟨p, hp, rfl⟩
    by_cases he : p = m
    · exact .inl (he ▸ hcarrier)
    · rw [hcarriers p he]
      exact .inr ⟨⟨p, hp, rfl⟩, fun hc => he (r.carrier_inj h hp hm19 (hc.trans hcm.symm))⟩
  · rintro (rfl | ⟨⟨p, hp, rfl⟩, hne⟩)
    · exact ⟨m, hm19, hcarrier⟩
    · exact ⟨p, hp, hcarriers p fun he => hne (he ▸ hcm)⟩

/-- Device 19 is outside the map while it is SPARE. -/
theorem RankDevices.Sound.spare_not_mem {r : RankDevices} (h : r.Sound) (hspare : r.stateOf 19 = .spare) :
    19 ∉ r.posMap.toList := fun hin => by
  obtain ⟨-, hmem, -, -, -, -, -, -⟩ := h
  have := (hmem 19 (by decide)).2 hin
  simp [hspare] at this

/-- While device 19 is SPARE, the device of a position is one of the 19 others. -/
theorem RankDevices.Sound.carried_lt {r : RankDevices} (h : r.Sound) (hspare : r.stateOf 19 = .spare) {d m : Nat}
    (hm : r.positionOf d = some m) : d < 19 := by
  have hin : d ∈ r.posMap.toList :=
    RankDevices.carrier_positionOf hm ▸ r.carrier_mem m (RankDevices.positionOf_lt hm)
  have hne : d ≠ 19 := fun he => h.spare_not_mem hspare (he ▸ hin)
  obtain ⟨-, -, hlt, -, -, -, -, -⟩ := h
  have := hlt d hin
  omega

/-- Device 19, SPARE till now, takes the position of a device that leaves the map, and no other device is MARKED. -/
theorem RankDevices.Sound.completed {r : RankDevices} (h : r.Sound) {d m : Nat} (hspare : r.stateOf 19 = .spare)
    (hm : r.positionOf d = some m) (honly : ∀ x, x < 20 → r.stateOf x = .marked → x = d) : (r.completed d m).Sound := by
  have hd := h.carried_lt hspare hm
  have state := fun {x} => r.completed_stateOf hd (RankDevices.positionOf_lt hm) (x := x)
  have mem := RankDevices.mem_completed_posMap h hd hm
  have out := h.spare_not_mem hspare
  have map : (r.completed d m).posMap.toList = r.posMap.toList.set m 19 := by simp [RankDevices.completed, put]
  obtain ⟨hnodup, hmem, hlt, -, -, honlySpare, hreplaced, -⟩ := h
  have unreplaced : ∀ x, x < 20 → r.stateOf x ≠ .replaced := fun x hx hr => hreplaced x hx hr hspare
  have unmarked : ∀ x, x < 20 → (r.completed d m).stateOf x ≠ .marked := fun x hx => by
    rw [state hx]
    grind
  have gone : ∀ x, x < 20 → (r.completed d m).stateOf x = .replaced → x = d := fun x hx => by
    rw [state hx]
    grind
  refine ⟨map ▸ hnodup.set out, fun x hx => ?_, fun x hx => ?_, fun x y hx _ hmx => absurd hmx (unmarked x hx),
    fun x y hx hy hrx hry => (gone x hx hrx).trans (gone y hy hry).symm, fun x hx hs => ?_, fun _ _ _ => ?_,
    fun hf => nomatch hf⟩
  · rw [mem, state hx, ← hmem x hx]
    grind
  · obtain rfl | ⟨hin, -⟩ := (mem x).1 hx
    · decide
    · exact hlt x hin
  · rw [state hx] at hs
    grind
  · simp [state]

/-- Where no rebuild is in flight, a RESTORE leaves the map that the end of a rebuild leaves (R150, R156). -/
theorem RankDevices.restored_eq_completed {r : RankDevices} (h : r.inFlight = false) (d m : Nat) :
    r.restored d m = r.completed d m := by
  unfold RankDevices.restored RankDevices.completed
  rw [← h]

end Sys2Proof.Machine
end

section
/-! PROOFS. O37, O38: MARK DEVICE at its take, by its checks in order, and what a marking or a RESTORE leaves. -/

namespace Sys2Proof.Machine

/-! ## The checks of R147 -/

section Checks

variable {s : State} {l : Line}

theorem State.markCheck_badRank (hrank : s.ranks ≤ orderRank l) : s.markCheck l = some .badRank := if_pos hrank

variable (hrank : orderRank l < s.ranks)
include hrank

theorem State.markCheck_badDevice
    (hdevice : 20 ≤ orderDevice l ∨ (s.rankDevices (orderRank l)).stateOf (orderDevice l) = .replaced) :
    s.markCheck l = some .badDevice := by
  unfold State.markCheck
  rw [if_neg (Nat.not_le.2 hrank), if_pos hdevice]

variable (hdevice : orderDevice l < 20)
  (hin : (s.rankDevices (orderRank l)).stateOf (orderDevice l) ≠ .replaced)
include hdevice hin

theorem State.markCheck_device_passed : s.markCheck l =
    if slotMode l ≠ 0 ∧ slotMode l ≠ 1 ∧ slotMode l ≠ 2 then some .badKind
    else if orderDevice l = 19 ∧ (s.rankDevices (orderRank l)).stateOf 19 = .spare then some .notInUse
    else if (s.rankDevices (orderRank l)).markedDevice.isSome then some .markExists
    else if slotMode l = 2 ∧ (s.rankDevices (orderRank l)).stateOf 19 ≠ .spare then some .noSpare
    else none := by
  unfold State.markCheck
  rw [if_neg (Nat.not_le.2 hrank), if_neg (not_or.2 ⟨Nat.not_le.2 hdevice, hin⟩)]

theorem State.markCheck_badKind (hmode : 2 < slotMode l) : s.markCheck l = some .badKind := by
  rw [State.markCheck_device_passed hrank hdevice hin, if_pos (by omega)]

variable (hmode : slotMode l ≤ 2)
include hmode

theorem State.markCheck_notInUse
    (hspare : orderDevice l = 19 ∧ (s.rankDevices (orderRank l)).stateOf 19 = .spare) :
    s.markCheck l = some .notInUse := by
  rw [State.markCheck_device_passed hrank hdevice hin, if_neg (by omega), if_pos hspare]

variable (huse : ¬ (orderDevice l = 19 ∧ (s.rankDevices (orderRank l)).stateOf 19 = .spare))
include huse

theorem State.markCheck_markExists (hmarked : (s.rankDevices (orderRank l)).markedDevice.isSome = true) :
    s.markCheck l = some .markExists := by
  rw [State.markCheck_device_passed hrank hdevice hin, if_neg (by omega), if_neg huse, if_pos hmarked]

variable (hnone : (s.rankDevices (orderRank l)).markedDevice = none)
include hnone

theorem State.markCheck_unmarked : s.markCheck l =
    if slotMode l = 2 ∧ (s.rankDevices (orderRank l)).stateOf 19 ≠ .spare then some .noSpare else none := by
  rw [State.markCheck_device_passed hrank hdevice hin, if_neg (by omega), if_neg huse, if_neg (by simp [hnone])]

end Checks

theorem check_eq_none {c : Prop} [Decidable c] {r : OrderReason} {x : Option OrderReason} :
    (if c then some r else x) = none ↔ ¬ c ∧ x = none := by
  split
  · next h => simp [h]
  · next h => simp [h]

/-- What an order that passes every check of R147 names: a device that is neither REPLACED nor a SPARE, in a rank with
no MARKED device, and in mode RESTORE with device 19 SPARE. -/
theorem State.markCheck_passed {s : State} {l : Line} (h : s.markCheck l = none) :
    (s.rankDevices (orderRank l)).stateOf (orderDevice l) ≠ .replaced ∧
    ¬ (orderDevice l = 19 ∧ (s.rankDevices (orderRank l)).stateOf 19 = .spare) ∧
    (s.rankDevices (orderRank l)).markedDevice = none ∧
    (slotMode l = 2 → (s.rankDevices (orderRank l)).stateOf 19 = .spare) := by
  simp only [State.markCheck, check_eq_none] at h
  obtain ⟨-, hdevice, -, huse, hmarked, hrestore, -⟩ := h
  exact ⟨fun hgone => hdevice (.inr hgone), huse, Option.not_isSome_iff_eq_none.1 hmarked,
    fun hmode => by_contra fun hspare => hrestore ⟨hmode, hspare⟩⟩

/-! ## The takes (R147, R148) -/

section Takes

variable {s : State} {slot : Nat} {l : Line}

theorem exec_markDeviceRebuild (h : s.DispatchDue slot l 4) (h1 : slotMode l ≠ 1) (h2 : slotMode l ≠ 2) :
    exec .markDeviceRebuild s = .next ((s.endTake slot l).takeMarkRebuild slot l).finish := by
  obtain ⟨-, -, -, -, hkind, -⟩ := id h
  exact onOrder_of_due h rfl (by simp [hkind, h1, h2]) State.takeMarkRebuild

theorem exec_markDeviceEraseOnly (h : s.DispatchDue slot l 4) (hmode : slotMode l = 1) :
    exec .markDeviceEraseOnly s = .next ((s.endTake slot l).takeMarkEraseOnly slot l).finish := by
  obtain ⟨-, -, -, -, hkind, -⟩ := id h
  exact onOrder_of_due h rfl (by simp [hkind, hmode]) State.takeMarkEraseOnly

theorem exec_markDeviceRestore (h : s.DispatchDue slot l 4) (hmode : slotMode l = 2) :
    exec .markDeviceRestore s = .next ((s.endTake slot l).takeMarkRestore slot l).finish := by
  obtain ⟨-, -, -, -, hkind, -⟩ := id h
  exact onOrder_of_due h rfl (by simp [hkind, hmode]) State.takeMarkRestore

theorem State.takeMarkRebuild_refused {r : OrderReason} (h : s.markCheck l = some r) :
    s.takeMarkRebuild slot l = s.requestDone slot (doneLine l s.time .refused r []) := by
  unfold State.takeMarkRebuild
  rw [h]
  rfl

theorem State.takeMarkEraseOnly_refused {r : OrderReason} (h : s.markCheck l = some r) :
    s.takeMarkEraseOnly slot l = s.requestDone slot (doneLine l s.time .refused r []) := by
  unfold State.takeMarkEraseOnly
  rw [h]
  rfl

theorem State.takeMarkRestore_refused {r : OrderReason} (h : s.markCheck l = some r) :
    s.takeMarkRestore slot l = s.requestDone slot (doneLine l s.time .refused r []) := by
  unfold State.takeMarkRestore
  rw [h]
  rfl

theorem State.takeMarkRebuild_passed (h : s.markCheck l = none) :
    s.takeMarkRebuild slot l = s.markByOrder slot l .rebuild := by
  unfold State.takeMarkRebuild
  rw [h]

theorem State.takeMarkEraseOnly_passed (h : s.markCheck l = none) :
    s.takeMarkEraseOnly slot l = s.markByOrder slot l .eraseOnly := by
  unfold State.takeMarkEraseOnly
  rw [h]

/-- A record handed to the Journal leaves part time. -/
theorem State.handPlain_time (s : State) (k : RecordKind) (host : Option Nat) (rank row : Nat) (ds : List Nat) :
    (s.handPlain k host rank row ds).time = s.time := by
  obtain ⟨q, w, j, c, h⟩ := s.handPlain_frame k host rank row ds
  rw [h]

/-- The slot of a marking by order: its outcome and reason, the position, and whether a rebuild was started. -/
theorem State.markByOrder_eq {m : Nat} (hm : (s.rankDevices (orderRank l)).positionOf (orderDevice l) = some m)
    (mode : MarkMode) {started degraded : Bool} (hstarted : (s.rankDevices (orderRank l)).startsRebuild mode = started)
    (hdegraded : (s.rankDevices (orderRank l)).degrades mode = degraded) :
    s.markByOrder slot l mode = (s.markDevice (orderRank l) (orderDevice l) mode .order).requestDone slot
      (doneLine l s.time (if degraded then .okDegraded else .ok) (if degraded then .noSpare else .none)
        [byteField 32 m, byteField 33 (boolValue started), ⟨36, 4, 0⟩]) := by
  have time : (s.markDevice (orderRank l) (orderDevice l) mode .order).time = s.time := State.handPlain_time _ _ _ _ _ _
  unfold State.markByOrder State.finishSlot
  simp only [hm, hstarted, hdegraded, time]
  rfl

end Takes

/-- Settles O37: the checks in their order, then the takes of the two modes with device 19 SPARE and without. -/
theorem markOrderMarksDevice : Obligations.MarkOrderMarksDevice := by
  refine ⟨fun s l rank device _ hrank hdevice => ?_, fun s u slot l rank device m hdue hu hrank hdevice => ?_⟩
  · subst hrank hdevice
    refine ⟨State.markCheck_badRank, fun h h' => State.markCheck_badDevice h h', fun h hd hin =>
      ⟨State.markCheck_badKind h hd hin, fun hmode h19 hspare => State.markCheck_notInUse h hd hin hmode ⟨h19, hspare⟩,
        fun hmode huse => ⟨State.markCheck_markExists h hd hin hmode huse, fun hnone h2 hspare => ?_,
          fun hnone hok => ?_⟩⟩⟩
    · exact (State.markCheck_unmarked h hd hin hmode huse hnone).trans (if_pos ⟨h2, hspare⟩)
    · refine (State.markCheck_unmarked h hd hin hmode huse hnone).trans (if_neg fun hbad => ?_)
      exact hok.elim (fun hne => hne hbad.1) hbad.2
  · obtain rfl : rank = orderRank l := hrank
    obtain rfl : device = orderDevice l := hdevice
    subst hu
    have marked := State.markByOrder_eq (s := s.endTake slot l) (slot := slot) (l := l) (m := m)
    refine ⟨fun r h1 h2 hr => ?_, fun r h1 hr => ?_, fun h0 hnone hm hspare => ?_, fun h0 hnone hm hspare => ?_,
      fun h1 hnone hm => ?_⟩
    · rw [exec_markDeviceRebuild hdue h1 h2]
      exact next_finish_congr (State.takeMarkRebuild_refused (s := s.endTake slot l) hr)
    · rw [exec_markDeviceEraseOnly hdue h1]
      exact next_finish_congr (State.takeMarkEraseOnly_refused (s := s.endTake slot l) hr)
    · rw [exec_markDeviceRebuild hdue (by omega) (by omega)]
      refine next_finish_congr ((State.takeMarkRebuild_passed (s := s.endTake slot l) hnone).trans
        (marked hm .rebuild (started := true) (degraded := false) ?_ ?_))
      · exact decide_eq_true hspare
      · exact decide_eq_false (not_not.2 hspare)
    · rw [exec_markDeviceRebuild hdue (by omega) (by omega)]
      refine next_finish_congr ((State.takeMarkRebuild_passed (s := s.endTake slot l) hnone).trans
        (marked hm .rebuild (started := false) (degraded := true) ?_ ?_))
      · exact decide_eq_false hspare
      · exact decide_eq_true hspare
    · rw [exec_markDeviceEraseOnly hdue h1]
      exact next_finish_congr ((State.takeMarkEraseOnly_passed (s := s.endTake slot l) hnone).trans
        (marked hm .eraseOnly (started := false) (degraded := false) rfl rfl))

/-! ## RESTORE (R150) -/

/-- The rank's map, then the fault table, the record and the slot. -/
theorem State.takeMarkRestore_passed {s v : State} {l : Line} {m : Nat} (h : s.markCheck l = none)
    (hm : (s.rankDevices (orderRank l)).positionOf (orderDevice l) = some m)
    (hv : v = s.setRankDevices (orderRank l) ((s.rankDevices (orderRank l)).restored (orderDevice l) m)) (slot : Nat) :
    s.takeMarkRestore slot l = ((v.stripDevice (orderRank l) (orderDevice l)).handPlain
        (.deviceMarked m .restore .order false false (s.tally (orderRank l) (orderDevice l))) none (orderRank l) 0
        [orderDevice l]).requestDone slot
      (doneLine l s.time .ok .none [byteField 32 m, byteField 33 0, ⟨36, 4, 0⟩]) := by
  subst hv
  unfold State.takeMarkRestore State.finishSlot
  rw [h]
  simp only [hm, Option.getD_some, State.handPlain_time]
  rfl

/-- Settles O38: the rank's map after the RESTORE is that which the end of a rebuild leaves. -/
theorem restoreMarkMovesPosition : Obligations.RestoreMarkMovesPosition := by
  intro s u slot l rank device m hdue hu hmode hrank hdevice
  obtain rfl : rank = orderRank l := hrank
  obtain rfl : device = orderDevice l := hdevice
  subst hu
  rw [exec_markDeviceRestore hdue hmode]
  refine ⟨fun r hr => next_finish_congr (State.takeMarkRestore_refused (s := s.endTake slot l) hr),
    fun hnone hsound hm hr4 => ?_⟩
  obtain ⟨-, -, hunmarked, hspare⟩ := State.markCheck_passed hnone
  have map := fun r => (s.endTake slot l).rankDevices_setRankDevices hr4
    ((s.rankDevices (orderRank l)).restored (orderDevice l) m) r
  have moved := (map (orderRank l)).trans (if_pos rfl)
  obtain ⟨hgone, hactive, hkept, hcarrier, hcarriers⟩ := (s.rankDevices (orderRank l)).completed_spec
    (hsound.carried_lt (hspare hmode) hm) (RankDevices.positionOf_lt hm)
  rw [← RankDevices.restored_eq_completed (hsound.not_inFlight hunmarked), ← moved]
    at hgone hactive hkept hcarrier hcarriers
  refine ⟨_, ?_, hgone, hactive, hkept, hcarrier, fun p _ => hcarriers p, fun r _ hne => (map r).trans (if_neg hne),
    rfl, next_finish_congr (State.takeMarkRestore_passed (s := s.endTake slot l) hnone hm rfl slot)⟩
  rw [moved]
  rfl

end Sys2Proof.Machine
end

section
/-! PROOFS. The device maps and the rebuild engine's record: the relation that every step keeps, and the operations
that mark a device, move a position, or fill or end the record. -/

namespace Sys2Proof.Machine

/-! ## The relation that every step keeps -/

/-- `t` has sound device maps, with the rebuild engine's record in a rank that is rebuilding, when `s` has. -/
def State.KeepsDevices (s t : State) : Prop := s.DevicesSound → t.DevicesSound

theorem State.KeepsDevices.refl (s : State) : s.KeepsDevices s := id

/-- The last operation first, so that it tells the state it starts from. -/
theorem State.KeepsDevices.after {s t u : State} (h' : t.KeepsDevices u) (h : s.KeepsDevices t) : s.KeepsDevices u :=
  h' ∘ h

/-- What the soundness of the device maps is read off: the maps, and the rank of the rebuild engine's record. -/
def State.deviceFields (s : State) : Vector RankDevices 4 × Option Nat := (s.devices, s.rebuildOp.map OpenLine.rank)

theorem State.devicesSound_iff (s : State) : s.DevicesSound ↔
    (∀ r, r < 4 → (s.rankDevices r).Sound) ∧
      ∀ r, s.rebuildOp.map OpenLine.rank = some r → r < 4 ∧ (s.rankDevices r).inFlight = true := by
  refine and_congr_right fun _ => ⟨fun h r hr => ?_, fun h op hop => h op.rank (by rw [hop]; rfl)⟩
  obtain ⟨op, hop, rfl⟩ := Option.map_eq_some_iff.1 hr
  exact h op hop

theorem State.KeepsDevices.of_same {s t : State} (h : t.deviceFields = s.deviceFields) : s.KeepsDevices t := by
  simp only [State.deviceFields, Prod.mk.injEq] at h
  obtain ⟨hdevices, hop⟩ := h
  unfold State.KeepsDevices
  simp only [State.devicesSound_iff, State.rankDevices, hdevices, hop]
  exact id

theorem State.KeepsDevices.then_same {s t u : State} (h : s.KeepsDevices t) (e : u.deviceFields = t.deviceFields) :
    s.KeepsDevices u := .after (.of_same e) h

/-- A change of the record that leaves it in its rank. -/
theorem State.KeepsDevices.then_rank {s t u : State} (h : s.KeepsDevices t) (hdevices : u.devices = t.devices)
    (hop : u.rebuildOp.map OpenLine.rank = t.rebuildOp.map OpenLine.rank) : s.KeepsDevices u :=
  .then_same h (Prod.ext hdevices hop)

/-- A frame that names neither the device maps nor the record. -/
theorem State.KeepsDevices.of_frame {s t u : State} (h : t = u) (e : u.deviceFields = s.deviceFields) :
    s.KeepsDevices t := .of_same (h ▸ e)

/-- An effect under its condition. -/
theorem State.KeepsDevices.when {c : Prop} [Decidable c] {s t : State} (h : c → s.KeepsDevices t) :
    s.KeepsDevices (if c then t else s) := by
  split
  · next hc => exact h hc
  · exact .refl s

theorem State.foldl_keepsDevices {α : Type} {f : State → α → State}
    (hf : ∀ (u : State) (x : α), u.KeepsDevices (f u x)) (l : List α) (s : State) : s.KeepsDevices (l.foldl f s) := by
  induction l generalizing s with
  | nil => exact .refl s
  | cons x l ih => exact .after (ih _) (hf s x)

/-! ## The map of a rank -/

theorem State.rankDevices_outside (s : State) {rank : Nat} (h : 4 ≤ rank) :
    s.rankDevices rank = RankDevices.powerOn := by
  simp [State.rankDevices, nth, h]

/-- Every rank, fitted or not, has a sound map. -/
theorem State.DevicesSound.rank {s : State} (h : s.DevicesSound) (rank : Nat) : (s.rankDevices rank).Sound := by
  by_cases hr : rank < 4
  · exact h.1 rank hr
  · rw [s.rankDevices_outside (Nat.not_lt.1 hr)]
    exact RankDevices.powerOn_sound

theorem State.lt_four_of_inFlight {s : State} {rank : Nat} (h : (s.rankDevices rank).inFlight = true) : rank < 4 :=
  Nat.lt_of_not_le fun hr => by simp [s.rankDevices_outside hr, RankDevices.powerOn] at h

/-- A new map of a rank is sound, and in a rank with the rebuild engine's record the rebuild stays in flight. -/
theorem State.DevicesSound.set {s : State} (h : s.DevicesSound) {rank : Nat} {x : RankDevices} (hx : x.Sound)
    (hop : ∀ op, s.rebuildOp = some op → op.rank = rank → x.inFlight = true) :
    (s.setRankDevices rank x).DevicesSound := by
  by_cases hr : rank < 4
  · have map := s.rankDevices_setRankDevices hr x
    refine ⟨fun r hr4 => ?_, fun op hsome => ?_⟩
    · rw [map]
      split
      · exact hx
      · exact h.1 r hr4
    · obtain ⟨hr4, hf⟩ := h.2 op hsome
      refine ⟨hr4, ?_⟩
      rw [map]
      split
      · next he => exact hop op hsome he
      · exact hf
  · have same : s.setRankDevices rank x = s := by
      unfold State.setRankDevices
      rw [put_outside _ _ _ (Nat.not_lt.1 hr)]
    rwa [same]

/-- A change of a rank's map that keeps it sound and ends no rebuild. -/
theorem State.setRankDevices_keepsDevices {s : State} {rank : Nat} {x : RankDevices}
    (hx : (s.rankDevices rank).Sound → x.Sound) (hflight : (s.rankDevices rank).inFlight = true → x.inFlight = true) :
    s.KeepsDevices (s.setRankDevices rank x) := fun h =>
  h.set (hx (h.rank rank)) fun op hop he => hflight (he ▸ (h.2 op hop).2)

/-- A change of the rebuild record of a rank alone: its cursor or its counts (R153). -/
theorem State.setRebuildRecord_keepsDevices {s : State} {rank : Nat} {x : RankDevices}
    (hstates : x.states = (s.rankDevices rank).states) (hmap : x.posMap = (s.rankDevices rank).posMap)
    (hflight : x.inFlight = (s.rankDevices rank).inFlight) : s.KeepsDevices (s.setRankDevices rank x) :=
  State.setRankDevices_keepsDevices (fun h => h.of_map hstates hmap fun hx => hflight ▸ hx) fun h => hflight.trans h

/-! ## The open records (R15, R154) -/

theorem closeIf_rank (p : OpenLine → Bool) (o : Option OpenLine) :
    (closeIf p o).map OpenLine.rank = o.map OpenLine.rank := by
  cases o with
  | none => rfl
  | some op =>
    simp only [closeIf, Option.map_some]
    split <;> rfl

theorem leaveOn_rank (rank row column : Nat) (c : Content) (o : Option OpenLine) :
    (leaveOn rank row column c o).map OpenLine.rank = o.map OpenLine.rank := by
  cases o with
  | none => rfl
  | some op =>
    simp only [leaveOn, Option.map_some]
    split <;> rfl

theorem toWrite_rank (c : Content) (o : Option OpenLine) :
    (o.map fun op => op.toWrite c).map OpenLine.rank = o.map OpenLine.rank := by
  cases o with
  | none => rfl
  | some op => rfl

/-! ## The journal, the slots and the array -/

theorem State.handRecord_keepsDevices (s : State) (r : JournalRecord) : s.KeepsDevices (s.handRecord r) := by
  obtain ⟨q, w, j, c, h⟩ := s.handRecord_frame r
  exact .of_frame h rfl

theorem State.setCauses_keepsDevices (s : State) (c : CauseSet) : s.KeepsDevices (s.setCauses c) := by
  obtain ⟨j, w, h⟩ := s.setCauses_frame c
  exact .of_frame h rfl

theorem State.requestItem_keepsDevices (s : State) (i : WriterItem) : s.KeepsDevices (s.requestItem i) := by
  obtain ⟨q, w, h⟩ := s.requestItem_frame i
  exact .of_frame h rfl

theorem State.requestDone_keepsDevices (s : State) (slot : Nat) (l : Line) : s.KeepsDevices (s.requestDone slot l) := by
  obtain ⟨q, w, j, m, h⟩ := s.requestDone_frame slot l
  exact .of_frame h rfl

theorem State.checkQuiesce_keepsDevices (s : State) : s.KeepsDevices s.checkQuiesce := by
  obtain ⟨z, q, w, j, m, h⟩ := s.checkQuiesce_frame
  exact .of_frame h rfl

theorem State.review_keepsDevices (s : State) : s.KeepsDevices s.review := by
  obtain ⟨p, h⟩ := s.review_frame
  exact .of_frame h rfl

theorem State.askReview_keepsDevices (s : State) : s.KeepsDevices s.askReview := by
  obtain ⟨p, h⟩ := s.askReview_frame
  exact .of_frame h rfl

theorem State.askStatus_keepsDevices (s : State) : s.KeepsDevices s.askStatus := by
  obtain ⟨w, h⟩ := s.askStatus_frame
  exact .of_frame h rfl

theorem State.checkCoalesce_keepsDevices (s : State) : s.KeepsDevices s.checkCoalesce := by
  obtain ⟨j, w, h⟩ := s.checkCoalesce_frame
  exact .of_frame h rfl

theorem State.endVisit_keepsDevices (s : State) : s.KeepsDevices s.endVisit := by
  obtain ⟨p, q, w, j, c, h⟩ := s.endVisit_frame
  exact .of_frame h rfl

theorem State.settle_keepsDevices (s : State) : s.KeepsDevices s.settle := by
  obtain ⟨f, m, c, o, v, q, w, p, j, h⟩ := s.settle_frame
  exact .of_frame h rfl

theorem State.startMigration_keepsDevices (s : State) : s.KeepsDevices s.startMigration := by
  obtain ⟨q, m, sp, r, h⟩ := s.startMigration_frame
  exact .of_frame h rfl

theorem State.writeLine_keepsDevices (s : State) (rank row column : Nat) (c : Content) :
    s.KeepsDevices (s.writeLine rank row column c) := by
  obtain ⟨m, w, p, h⟩ := s.writeLine_frame rank row column c
  exact .of_frame h rfl

theorem State.applyErrors_keepsDevices (s : State) (rank row column : Nat) (errors : List SliceError) :
    s.KeepsDevices (s.applyErrors rank row column errors) := by
  obtain ⟨m, h⟩ := s.applyErrors_frame rank row column errors
  exact .of_frame h rfl

theorem State.applyErrorsHost_keepsDevices (s : State) (host : Nat) (errors : List SliceError) :
    s.KeepsDevices (s.applyErrorsHost host errors) := s.applyErrors_keepsDevices _ _ _ errors

theorem State.hostLineWrites_keepsDevices (s : State) (host : Nat) (c : Content) :
    s.KeepsDevices (s.hostLineWrites host c) := by
  have served := s.writeLine_keepsDevices (rankOf host) (s.servingRow (rankOf host) (rowOf host) (columnOf host))
    (columnOf host) c
  simp only [State.hostLineWrites]
  split
  · split
    · exact served
    · exact .then_rank (.after (State.writeLine_keepsDevices _ _ _ _ c) served) rfl (closeIf_rank _ _)
  · exact served

/-- A host write closes records, and the rebuild engine's record stays in its rank. -/
theorem State.hostWrite_keepsDevices (s : State) (host : Nat) (c : Content) : s.KeepsDevices (s.hostWrite host c) :=
  .then_rank (s.hostLineWrites_keepsDevices host c) rfl (closeIf_rank _ _)

theorem State.freePort_keepsDevices (s : State) (port : Nat) : s.KeepsDevices (s.freePort port) := by
  obtain ⟨p, a, r, y, q, w, j, c, h⟩ := s.freePort_frame port
  exact .of_frame h rfl

theorem State.requestUnlessStale_keepsDevices (s : State) (stale : Bool) (host : Nat) (r : DecodeResult) :
    s.KeepsDevices (s.requestUnlessStale stale host r) := by
  obtain ⟨b, c, h⟩ := s.requestUnlessStale_frame stale host r
  exact .of_frame h rfl

/-! ## Marking (R148, R150, R151) -/

/-- The marking of an ACTIVE device in a rank that has no MARKED one, whoever asks for it. -/
theorem State.markDevice_keepsDevices {s : State} {rank device : Nat}
    (hactive : s.DevicesSound → (s.rankDevices rank).stateOf device = .active)
    (hnone : (s.rankDevices rank).markedDevice = none) (mode : MarkMode) (origin : Origin) :
    s.KeepsDevices (s.markDevice rank device mode origin) := fun h => by
  have marked : (s.setRankDevices rank ((s.rankDevices rank).marking device mode s.time)).DevicesSound := by
    refine h.set ((h.rank rank).marking (hactive h) hnone mode s.time) fun op hop he => ?_
    have := (h.2 op hop).2
    rw [he, (h.rank rank).not_inFlight hnone] at this
    cases this
  exact State.KeepsDevices.after (State.handRecord_keepsDevices _ _) (.of_same rfl) marked

theorem State.makeSuspect_keepsDevices (s : State) (rank device : Nat) :
    s.KeepsDevices (s.makeSuspect rank device) := by
  obtain ⟨f, q, w, j, c, h⟩ := s.makeSuspect_frame rank device
  exact .of_frame h rfl

/-- The table marks a device only when it is ACTIVE and no device of its rank is MARKED (R73, R151). -/
theorem State.examineDevice_keepsDevices (s : State) (rank device : Nat) (again : Bool) :
    s.KeepsDevices (s.examineDevice rank device again) := by
  unfold State.examineDevice
  split
  · exact .refl s
  · split
    · exact .refl s
    · split
      · exact .refl s
      · exact .refl s
      · exact s.makeSuspect_keepsDevices rank device
      · next hactive =>
        split
        · next hauto => exact State.markDevice_keepsDevices (fun _ => hactive) hauto.2 _ _
        · exact s.makeSuspect_keepsDevices rank device

theorem State.examineDevices_keepsDevices (s : State) (rank : Nat) (which : Nat → Bool) (again : Bool) :
    s.KeepsDevices (s.examineDevices rank which again) :=
  State.foldl_keepsDevices (fun u d => u.examineDevice_keepsDevices rank d again) _ s

theorem State.clearAllSuspects_keepsDevices (s : State) : s.KeepsDevices s.clearAllSuspects :=
  .of_frame s.clearAllSuspects_only rfl

theorem State.examineAll_keepsDevices (s : State) : s.KeepsDevices s.examineAll :=
  .after (State.foldl_keepsDevices (fun u r => u.examineDevices_keepsDevices r _ _) _ _) s.clearAllSuspects_keepsDevices

/-- An order that passes the checks of R147 names an ACTIVE device in a rank that has no MARKED one. -/
theorem State.markByOrder_keepsDevices {s : State} {l : Line} (h : s.markCheck l = none) (slot : Nat)
    (mode : MarkMode) : s.KeepsDevices (s.markByOrder slot l mode) := by
  obtain ⟨hin, huse, hnone, -⟩ := State.markCheck_passed h
  exact .after (State.requestDone_keepsDevices _ _ _)
    (State.markDevice_keepsDevices (fun hs => (hs.rank _).active_of_unmarked hin huse hnone) hnone _ _)

theorem State.takeMarkRebuild_keepsDevices (s : State) (slot : Nat) (l : Line) :
    s.KeepsDevices (s.takeMarkRebuild slot l) := by
  unfold State.takeMarkRebuild
  split
  · exact s.requestDone_keepsDevices _ _
  · next h => exact State.markByOrder_keepsDevices h slot _

theorem State.takeMarkEraseOnly_keepsDevices (s : State) (slot : Nat) (l : Line) :
    s.KeepsDevices (s.takeMarkEraseOnly slot l) := by
  unfold State.takeMarkEraseOnly
  split
  · exact s.requestDone_keepsDevices _ _
  · next h => exact State.markByOrder_keepsDevices h slot _

/-- A RESTORE finds device 19 SPARE and no device MARKED, so no rebuild is in flight and the device has a position. -/
theorem State.takeMarkRestore_keepsDevices {s : State} {l : Line} (hmode : slotMode l = 2) (slot : Nat) :
    s.KeepsDevices (s.takeMarkRestore slot l) := by
  cases hcheck : s.markCheck l with
  | some r =>
    rw [State.takeMarkRestore_refused hcheck]
    exact s.requestDone_keepsDevices _ _
  | none =>
    intro h
    obtain ⟨hin, huse, hnone, hspare⟩ := State.markCheck_passed hcheck
    have hsound := h.rank (orderRank l)
    have hactive := hsound.active_of_unmarked hin huse hnone
    have idle := hsound.not_inFlight hnone
    obtain ⟨m, hm⟩ := RankDevices.exists_positionOf (hsound.carries (.inl hactive))
    rw [State.takeMarkRestore_passed hcheck hm rfl]
    refine State.KeepsDevices.after (State.requestDone_keepsDevices _ _ _)
      (.after (State.handRecord_keepsDevices _ _) (.of_same rfl))
      (h.set (x := (s.rankDevices (orderRank l)).restored (orderDevice l) m) ?_ fun op hop he => ?_)
    · rw [RankDevices.restored_eq_completed idle]
      exact hsound.completed (hspare hmode) hm fun x hx hx' =>
        absurd hx' (RankDevices.markedDevice_eq_none.1 hnone x hx)
    · have := (h.2 op hop).2
      rw [he, idle] at this
      cases this

/-! ## Scored events and reports (R42, R77) -/

theorem State.afterEvent_keepsDevices (s : State) (rank row : Nat) (risen : List Nat) :
    s.KeepsDevices (s.afterEvent rank row risen) := by
  obtain ⟨t, a, m, sp, r, q, w, j, c, h⟩ := s.examineRetire_frame rank row
  exact .after (State.examineDevices_keepsDevices _ _ _ _) (.of_frame h rfl)

theorem State.createEntry_keepsDevices (s : State) (rank row weight : Nat) (devices : List Nat) (t : PartTime) :
    s.KeepsDevices (s.createEntry rank row weight devices t) :=
  .after (State.afterEvent_keepsDevices _ _ _ _) (.of_same rfl)

theorem State.scoredEvent_keepsDevices (s : State) (rank row weight : Nat) (named : List Nat) (t : PartTime) :
    s.KeepsDevices (s.scoredEvent rank row weight named t) := by
  simp only [State.scoredEvent]
  split
  · exact .after (State.afterEvent_keepsDevices _ _ _ _) (.of_same rfl)
  · split
    · exact s.createEntry_keepsDevices _ _ _ _ _
    · split
      · exact .of_same rfl
      · split
        · exact .after (State.createEntry_keepsDevices _ _ _ _ _ _) (.of_same rfl)
        · exact .of_same rfl

theorem State.scoreDecode_keepsDevices (s : State) (d : Decode) (t : PartTime) :
    s.KeepsDevices (s.scoreDecode d t) := by
  unfold State.scoreDecode
  split
  · exact .refl s
  · exact s.scoredEvent_keepsDevices _ _ _ _ _

theorem State.noteUncorrectable_keepsDevices (s : State) (host : Option Nat) (t : PartTime) :
    s.KeepsDevices (s.noteUncorrectable host t) := by
  cases host with
  | none => exact .refl s
  | some h => exact .of_same rfl

/-- Of what a reader reports of a decode, the fault event alone may mark a device. -/
theorem State.report_keepsDevices (s : State) (d : Decode) (src : Source) (t : PartTime) :
    s.KeepsDevices (s.report d src t) := by
  have recorded : ∀ k, s.KeepsDevices ((s.scoreDecode d t).handRecord (d.record k src t)) := fun k =>
    .after (State.handRecord_keepsDevices _ _) (s.scoreDecode_keepsDevices d t)
  cases h : d.classify.cls with
  | clean => rw [State.report_nothing (.inl h)]; exact .refl s
  | poisoned => rw [State.report_nothing (.inr h)]; exact .refl s
  | erased => rw [State.report_erased h]; exact .of_same rfl
  | corrected => rw [State.report_corrected h]; exact .then_same (recorded _) rfl
  | deepCorrected => rw [State.report_deepCorrected h]; exact .then_same (recorded _) rfl
  | uncorrectable =>
    rw [State.report_uncorrectable h]
    exact .after (State.setCauses_keepsDevices _ _)
      (.after (State.noteUncorrectable_keepsDevices _ _ _) (.then_same (recorded _) rfl))

theorem State.reportLoss_keepsDevices (s : State) (loss : Option MergeLoss) : s.KeepsDevices (s.reportLoss loss) := by
  unfold State.reportLoss
  split
  · exact .refl s
  · split
    · exact s.handRecord_keepsDevices _
    · exact s.report_keepsDevices _ _ _

/-! ## Rebuild lines (R152 to R156) -/

/-- The record is filled for a rank with a rebuild in flight (R152). -/
theorem State.grantRebuildRead_keepsDevices {s : State} {rank : Nat} (h : s.currentChoice = some rank)
    (errors : List SliceError) : s.KeepsDevices (s.grantRebuildRead rank errors) := fun hs => by
  obtain ⟨-, hf, -⟩ := (s.rankRebuilding_iff rank).1 (State.currentChoice_some h).2
  rw [s.grantRebuildRead_eq rank errors rfl rfl]
  refine ⟨hs.1, fun op hop => ?_⟩
  cases hop
  exact ⟨State.lt_four_of_inFlight hf, hf⟩

theorem RankDevices.counted_leaves (r : RankDevices) (c : LineClass) :
    (r.counted c).states = r.states ∧ (r.counted c).posMap = r.posMap ∧ (r.counted c).inFlight = r.inFlight := by
  cases c <;> exact ⟨rfl, rfl, rfl⟩

theorem State.endRebuildDecode_keepsDevices (s : State) (d : Decode) : s.KeepsDevices (s.endRebuildDecode d) := by
  obtain ⟨hstates, hmap, hflight⟩ := RankDevices.counted_leaves ((s.report d .rebuild s.time).rankDevices d.rank)
    d.classify.cls
  obtain ⟨_, _, _, _, _, _, _, _, _, _, _, _, frame⟩ := s.report_frame d .rebuild s.time
  have kept : (s.report d .rebuild s.time).rebuildOp = s.rebuildOp := by rw [frame]
  exact .then_rank (.after (State.setRebuildRecord_keepsDevices hstates hmap hflight)
    (s.report_keepsDevices d .rebuild s.time)) rfl ((toWrite_rank _ _).trans (congrArg _ kept.symm))

theorem State.rebuildWrite_keepsDevices (s : State) (op : OpenLine) (c : Content) :
    s.KeepsDevices (s.rebuildWrite op c) := by
  unfold State.rebuildWrite
  split
  · exact s.writeLine_keepsDevices _ _ _ _
  · exact State.setRebuildRecord_keepsDevices rfl rfl rfl

/-- The write of a rebuild line leaves the record as it was. -/
theorem State.rebuildWrite_rebuildOp (s : State) (op : OpenLine) (c : Content) :
    (s.rebuildWrite op c).rebuildOp = s.rebuildOp := by
  obtain ⟨m, w, p, h⟩ := s.writeLine_frame op.rank op.row op.column c
  unfold State.rebuildWrite
  split
  · rw [h]
  · rfl

/-- The completion of a rebuild that is in flight, with the engine's record NONE (R156). -/
theorem State.completeRebuild_keepsDevices {s : State} {rank : Nat} (hop : s.rebuildOp = none)
    (hf : (s.rankDevices rank).inFlight = true) : s.KeepsDevices (s.completeRebuild rank) := fun h => by
  have hsound := h.rank rank
  obtain ⟨hspare, hmarked⟩ := hsound.rebuilding hf
  obtain ⟨d, hd⟩ := Option.isSome_iff_exists.1 hmarked
  obtain ⟨hd20, hstate⟩ := RankDevices.markedDevice_eq_some hd
  obtain ⟨m, hm⟩ := RankDevices.exists_positionOf (hsound.carries (.inr hstate))
  rw [State.completeRebuild_marked rfl hd hm]
  refine State.KeepsDevices.after (State.examineDevices_keepsDevices _ _ _ _) (State.handRecord_keepsDevices _ _)
    (h.set (hsound.completed hspare hm fun x hx hx' => hsound.marked_unique hx hd20 hx' hstate) fun op hsome => ?_)
  simp [hop] at hsome

/-- The line's end releases the record, moves the cursor, and after the last line completes the rebuild (R153, R156). -/
theorem State.endRebuildLine_keepsDevices {s : State} {op : OpenLine} (hop : s.rebuildOp = some op) :
    s.KeepsDevices (s.endRebuildLine op) := fun h => by
  obtain ⟨hr, hf⟩ := h.2 op hop
  have released : State.DevicesSound { s with rebuildOp := none } := ⟨h.1, fun _ hnone => nomatch hnone⟩
  obtain ⟨z, q, w, j, m, frame⟩ := State.checkQuiesce_frame { s with rebuildOp := none }
  generalize hs1 : State.checkQuiesce { s with rebuildOp := none } = s1 at frame
  have hs1sound : s1.DevicesSound := hs1 ▸ State.checkQuiesce_keepsDevices _ released
  have map : s1.rankDevices op.rank = s.rankDevices op.rank := by rw [frame]; rfl
  have advanced := State.setRebuildRecord_keepsDevices (s := s1) (rank := op.rank)
    (x := { s1.rankDevices op.rank with cursor := physIndex op.row op.column + 1 }) rfl rfl rfl hs1sound
  simp only [State.endRebuildLine, hs1]
  split
  · exact advanced
  · refine State.completeRebuild_keepsDevices ?_ ?_ advanced
    · rw [frame]
      rfl
    · rw [s1.rankDevices_setRankDevices hr, if_pos rfl, ← hf, ← map]

end Sys2Proof.Machine
end

section
/-! PROOFS. The device maps, continued: what the other commands are made of, which leave the maps to the reports of
decodes and to the policy's examination. -/

namespace Sys2Proof.Machine

/-! ## The demand path -/

theorem State.serveAbove_keepsDevices (s : State) (kind : AccessKind) (address : Nat) :
    s.KeepsDevices (s.serveAbove kind address) := by
  cases kind with
  | read => exact .of_same rfl
  | fullLineWrite => exact .refl s
  | maskedWrite => exact .refl s

theorem State.arrive_keepsDevices (s : State) (kind : AccessKind) (address : Nat) (a : ServerAccess) :
    s.KeepsDevices (s.arrive kind address a) := by
  unfold State.arrive
  split
  · exact .refl s
  · split
    · exact s.serveAbove_keepsDevices kind address
    · obtain ⟨p, b, r, y, q, w, j, c, h⟩ := s.accept_frame a
      exact .of_frame h rfl

theorem State.handOver_keepsDevices (s : State) (host : Nat) (l : Line) : s.KeepsDevices (s.handOver host l) :=
  .when fun _ => .of_same rfl

/-- A write and its acknowledgement. -/
theorem State.hostWrite_reply_keepsDevices (s : State) (host : Nat) (c : Content) (r : Reply) :
    s.KeepsDevices ((s.hostWrite host c).reply r) := .then_same (s.hostWrite_keepsDevices host c) rfl

theorem State.endServerRead_keepsDevices (s : State) (x : ServerRead) : s.KeepsDevices (s.endServerRead x) :=
  .after (State.report_keepsDevices _ _ _ _) (.after (State.requestUnlessStale_keepsDevices _ _ _ _) (.of_same rfl))

theorem State.writeBackNow_keepsDevices (s : State) (e : WriteBack) : s.KeepsDevices (s.writeBackNow e) :=
  have dropped : s.KeepsDevices (s.dropWriteBack e.host) := .of_same rfl
  .then_rank (.after (State.writeLine_keepsDevices _ _ _ _ _) dropped) rfl (leaveOn_rank _ _ _ _ _)

theorem State.endMerge_keepsDevices (s : State) (port host : Nat) (data : Line) (mask : ByteMask) (d : Decode)
    (orphan : Bool) : s.KeepsDevices (s.endMerge port host data mask d orphan) := by
  unfold State.endMerge
  split
  · exact .then_same (s.report_keepsDevices d .merge s.time) rfl
  · exact .of_same rfl

theorem State.writeHalf_keepsDevices (s : State) (port host : Nat) (c : Content) (loss : Option MergeLoss) :
    s.KeepsDevices (s.writeHalf port host c loss) := by
  have reported := State.KeepsDevices.after (State.reportLoss_keepsDevices _ loss)
    (s.hostWrite_reply_keepsDevices host c (.ack host))
  unfold State.writeHalf
  refine .after (State.freePort_keepsDevices _ port) ?_
  split
  · exact reported
  · exact .after (State.handOver_keepsDevices _ _ _) reported

theorem State.writeOrphanHalf_keepsDevices (s : State) (port host : Nat) (c : Content) (loss : Option MergeLoss) :
    s.KeepsDevices (s.writeOrphanHalf port host c loss) :=
  .after (State.freePort_keepsDevices _ _)
    (.after (State.reportLoss_keepsDevices _ _) (s.hostWrite_keepsDevices host c))

theorem State.writeFromEntry_keepsDevices (s : State) (port host : Nat) (data : Line) (mask : ByteMask) :
    s.KeepsDevices (s.writeFromEntry port host data mask) := by
  unfold State.writeFromEntry
  split
  · exact .of_same rfl
  · split
    · exact .after (State.freePort_keepsDevices _ _)
        (.after (State.handOver_keepsDevices _ _ _) (s.hostWrite_reply_keepsDevices _ _ _))
    · exact .after (State.freePort_keepsDevices _ _)
        (.then_same (.after (State.handRecord_keepsDevices _ _) (s.hostWrite_keepsDevices host poisonContent)) rfl)

/-! ## Resets, restart and the control window -/

/-- The part at power-on has the device maps of the reset state, and no record. -/
theorem State.powerOn_keepsDevices (s : State) (ranks base : Nat) (time : PartTime) (pending : List Instr) :
    s.KeepsDevices { State.powerOn ranks base with time := time, pending := pending } := fun _ =>
  State.KeepsDevices.of_same (s := State.reset) rfl reset_devicesSound

/-- A warm reset keeps every device map and drops the rebuild engine's record (R159). -/
theorem State.warmed_keepsDevices (s : State) : s.KeepsDevices s.warmed := fun h => ⟨h.1, fun _ hop => nomatch hop⟩

theorem State.startPass_keepsDevices (s : State) (number : Nat) : s.KeepsDevices (s.startPass number) :=
  .after (State.review_keepsDevices _) (.of_same rfl)

theorem State.enterStatus_keepsDevices (s : State) : s.KeepsDevices s.enterStatus := by
  unfold State.enterStatus
  generalize s.statusPart1 = first
  generalize s.statusPart2 = second
  exact .of_same rfl

theorem State.openPort_keepsDevices (s : State) : s.KeepsDevices s.openPort := by
  have identified : s.KeepsDevices (State.enterIdentity
      { s with writer := [], phase := .running, nextInterval := some (nextPaceBoundary s.time) }) := .of_same rfl
  exact .after (State.startPass_keepsDevices _ _) (.after (State.enterStatus_keepsDevices _) identified)

theorem State.beginRestartStep_keepsDevices (s : State) (step : RestartStep) :
    s.KeepsDevices (s.beginRestartStep step) := by
  cases step <;> exact .of_same rfl

theorem State.scanSlot_keepsDevices (s : State) (slot : Nat) (line : Option Line) :
    s.KeepsDevices (s.scanSlot slot line) := by
  unfold State.scanSlot
  split
  · exact .of_same rfl
  · split
    · exact .of_same rfl
    · split
      · exact .after (State.requestDone_keepsDevices _ _ _) (.of_same rfl)
      · split <;> exact .of_same rfl

theorem State.rereadWindow_keepsDevices (s : State) (record : Nat) (line : Option Line) (now : PartTime) :
    s.KeepsDevices (s.rereadWindow record line now) := by
  obtain ⟨w, q, u, h⟩ := s.rereadWindow_frame record now line
  exact .of_frame h rfl

theorem State.rereadMark_keepsDevices (s : State) (line : Option Line) : s.KeepsDevices (s.rereadMark line) := by
  obtain ⟨w, h⟩ := s.rereadMark_frame line
  exact .of_frame h rfl

theorem State.markLate_keepsDevices (s : State) : s.KeepsDevices s.markLate :=
  .after (State.handRecord_keepsDevices _ _) (.of_same rfl)

theorem State.admitIdentity_keepsDevices (s : State) : s.KeepsDevices s.admitIdentity := by
  have entered : s.KeepsDevices (State.settleCursor
      { (s.stopAwaiting .identity).enterIdentity with phase := .running, retained := [], writeBacks := [] }) :=
    .of_same rfl
  refine .when fun _ => .after (State.askStatus_keepsDevices _) (.after (State.review_keepsDevices _) ?_)
  split
  · exact .after (State.markLate_keepsDevices _) entered
  · exact entered

theorem State.admitStatus_keepsDevices (s : State) : s.KeepsDevices s.admitStatus :=
  .when fun _ => .after (State.enterStatus_keepsDevices _) (.of_same rfl)

theorem State.admitExportLine_keepsDevices (s : State) : s.KeepsDevices s.admitExportLine := by
  refine .when fun _ => ?_
  split
  · exact .of_same rfl
  · split
    · exact .after (State.requestDone_keepsDevices _ _ _) (.of_same rfl)
    · simp only
      split
      · exact .after (State.requestDone_keepsDevices _ _ _) (.of_same rfl)
      · exact .of_same rfl

theorem State.stagingDeparts_keepsDevices (s : State) : s.KeepsDevices s.stagingDeparts := by
  obtain ⟨q, w, j, c, h⟩ := s.stagingDeparts_frame
  exact .of_frame h rfl

theorem State.admitOldest_keepsDevices (s : State) : s.KeepsDevices s.admitOldest := by
  unfold State.admitOldest
  split
  · exact .refl s
  · exact .when fun _ => .of_same rfl
  · next slot l rest _ =>
    obtain ⟨q, w, j, m, h⟩ := State.enterDone_frame { s with waiters := rest } slot l
    exact .when fun _ => .of_frame h rfl
  · exact s.stagingDeparts_keepsDevices
  · exact s.admitExportLine_keepsDevices
  · exact s.admitStatus_keepsDevices
  · exact s.admitIdentity_keepsDevices

theorem State.grantOwnRead_keepsDevices (s : State) (o : OwnRead) (errors : List SliceError) :
    s.KeepsDevices (s.grantOwnRead o errors) := by
  refine .after ?_ (s.applyErrorsHost_keepsDevices (s.base + o.reader.offset) errors)
  unfold State.grantOwnRead State.holdTaken
  cases o.reader <;> exact .of_same rfl

theorem State.endOwnRead_keepsDevices (s : State) (o : OwnRead) (d : Decode) (stale : Bool) :
    s.KeepsDevices (s.endOwnRead o d stale) :=
  .after (State.report_keepsDevices _ _ _ _) (.after (State.requestUnlessStale_keepsDevices _ _ _ _) (.of_same rfl))

/-! ## The windows, the hand-offs and the Pacer -/

theorem State.moveMark_keepsDevices (s : State) (x : Count32) : s.KeepsDevices (s.moveMark x) := by
  obtain ⟨j, w, h⟩ := s.moveMark_frame x
  exact .of_frame h rfl

theorem State.actOnSlot_keepsDevices (s : State) (h : HandOff) : s.KeepsDevices (s.actOnSlot h) := by
  unfold State.actOnSlot
  split
  · next slot _ =>
    obtain ⟨m, c, o, e⟩ := State.slotHandOff_frame { s with handOff := none } slot h.line
    exact .of_frame e rfl
  · exact .refl s

theorem State.actOnRecord_keepsDevices (s : State) (h : HandOff) : s.KeepsDevices (s.actOnRecord h) := by
  unfold State.actOnRecord
  split
  · next record _ =>
    obtain ⟨v, q, w, p, e⟩ := State.windowHandOff_frame { s with handOff := none } record h.line
    exact .of_frame e rfl
  · exact .refl s

theorem State.periodicReview_keepsDevices (s : State) (t : PartTime) : s.KeepsDevices (s.periodicReview t) := by
  obtain ⟨p, h⟩ := s.periodicReview_frame t
  exact .of_frame h rfl

theorem State.accrueIfAccruing_keepsDevices (s : State) : s.KeepsDevices s.accrueIfAccruing :=
  .when fun _ => .of_same rfl

theorem State.turnWindow_keepsDevices (s : State) (record : Nat) (x : WindowState) :
    s.KeepsDevices (s.turnWindow record x) := by
  obtain ⟨q, w, h⟩ := (s.setWindow record { s.window record with state := x }).requestRecord_frame record
  exact .after (State.askReview_keepsDevices _) (.of_frame h rfl)

/-! ## Orders -/

theorem State.takeScrub_keepsDevices (s : State) (slot : Nat) (l : Line) : s.KeepsDevices (s.takeScrub slot l) := by
  unfold State.takeScrub
  split
  · exact s.requestDone_keepsDevices _ _
  · exact .after (State.requestItem_keepsDevices _ _) (.of_same rfl)

theorem State.takeProbe_keepsDevices (s : State) (slot : Nat) (l : Line) : s.KeepsDevices (s.takeProbe slot l) := by
  unfold State.takeProbe
  split
  · exact s.requestDone_keepsDevices _ _
  · exact .after (State.requestItem_keepsDevices _ _) (.of_same rfl)

theorem State.takeMigrate_keepsDevices (s : State) (slot : Nat) (l : Line) : s.KeepsDevices (s.takeMigrate slot l) := by
  unfold State.takeMigrate
  split
  · exact s.requestDone_keepsDevices _ _
  · exact .after (State.requestItem_keepsDevices _ _) (.after (State.startMigration_keepsDevices _) (.of_same rfl))

theorem State.takeRestoreRow_keepsDevices (s : State) (slot : Nat) (l : Line) :
    s.KeepsDevices (s.takeRestoreRow slot l) := by
  unfold State.takeRestoreRow
  split
  · exact s.requestDone_keepsDevices _ _
  · split
    · exact s.requestDone_keepsDevices _ _
    · exact .after (State.requestDone_keepsDevices _ _ _) (.after (State.handRecord_keepsDevices _ _) (.of_same rfl))

/-- A new policy may bring devices to the mark threshold (R75). -/
theorem State.takePolicy_keepsDevices (s : State) (slot : Nat) (l : Line) : s.KeepsDevices (s.takePolicy slot l) := by
  have cut : s.KeepsDevices (State.cutCredit { s with policy := clampPolicy (policyOfLine l) }) := .of_same rfl
  exact .after (State.requestDone_keepsDevices _ _ _) (.after (State.checkCoalesce_keepsDevices _)
    (.after (State.examineAll_keepsDevices _) (.after (State.review_keepsDevices _) cut)))

theorem State.takeQuiesce_keepsDevices (s : State) (slot : Nat) (l : Line) : s.KeepsDevices (s.takeQuiesce slot l) := by
  unfold State.takeQuiesce
  split
  · exact s.requestDone_keepsDevices _ _
  · split
    · exact .after (State.requestDone_keepsDevices _ _ _) (.of_same rfl)
    · exact .after (State.requestItem_keepsDevices _ _) (.of_same rfl)

theorem State.takeResume_keepsDevices (s : State) (slot : Nat) (l : Line) : s.KeepsDevices (s.takeResume slot l) := by
  refine .after (State.requestDone_keepsDevices _ _ _) ?_
  unfold State.abandonQuiesce
  split
  · exact .of_same rfl
  · exact .after (State.requestDone_keepsDevices _ _ _) (.of_same rfl)

theorem State.takeExport_keepsDevices (s : State) (slot : Nat) (l : Line) : s.KeepsDevices (s.takeExport slot l) :=
  have written : s.KeepsDevices (State.writeTaken
      { s with exportNumber := s.exportNumber + 1,
               exportJob := some { slot := slot, lines := s.exportLines (s.exportNumber + 1),
                                   faultEntries := s.table.length, remapEntries := s.remaps.length } } slot l) :=
    .after (State.requestItem_keepsDevices _ _) (.of_same rfl)
  .then_same written rfl

/-! ## Patrol, targeted work and migration -/

theorem State.changeOrder_keepsDevices (s : State) (slot : Nat) (f : TargetedOrder → TargetedOrder) :
    s.KeepsDevices (s.changeOrder slot f) := .of_same rfl

theorem State.changeRemap_keepsDevices (s : State) (rank row : Nat) (f : RemapEntry → RemapEntry) :
    s.KeepsDevices (s.changeRemap rank row f) := .of_same rfl

theorem State.removeEntry_keepsDevices (s : State) (rank row : Nat) : s.KeepsDevices (s.removeEntry rank row) :=
  .of_same rfl

theorem State.visitWrite_keepsDevices (s : State) (op : OpenLine) (c : Content) : s.KeepsDevices (s.visitWrite op c) :=
  .when fun _ => .then_rank (s.writeLine_keepsDevices _ _ _ _) rfl (leaveOn_rank _ _ _ _ _)

theorem State.releasePatrol_keepsDevices (s : State) : s.KeepsDevices s.releasePatrol :=
  .after (State.endVisit_keepsDevices _) (.after (State.checkQuiesce_keepsDevices _) (.of_same rfl))

theorem State.grantPatrolRead_keepsDevices (s : State) (errors : List SliceError) :
    s.KeepsDevices (s.grantPatrolRead errors) := by
  rw [s.grantPatrolRead_eq]
  exact .of_same rfl

theorem State.endPatrolDecode_keepsDevices (s : State) (d : Decode) : s.KeepsDevices (s.endPatrolDecode d) := by
  have reported : s.KeepsDevices (s.reportVisit d) := .then_same (s.report_keepsDevices d .patrol s.time) rfl
  unfold State.endPatrolDecode
  split
  · exact .then_same reported rfl
  · exact .after (State.releasePatrol_keepsDevices _) reported

theorem State.completeTargeted_keepsDevices (s : State) (o : TargetedOrder) (fs : List FieldValue) :
    s.KeepsDevices (s.completeTargeted o fs) := .after (State.requestDone_keepsDevices _ _ _) (.of_same rfl)

theorem State.releaseScrub_keepsDevices (s : State) (slot : Nat) : s.KeepsDevices (s.releaseScrub slot) := by
  have advanced : s.KeepsDevices (State.changeOrder (State.checkQuiesce { s with targetedOp := none }) slot
      fun o => { o with cursor := o.cursor + 1 }) :=
    .after (State.changeOrder_keepsDevices _ _ _) (.after (State.checkQuiesce_keepsDevices _) (.of_same rfl))
  simp only [State.releaseScrub]
  split
  · split
    · exact .after (State.completeTargeted_keepsDevices _ _ _) advanced
    · exact advanced
  · exact advanced

theorem State.endScrubDecode_keepsDevices (s : State) (o : TargetedOrder) (d : Decode) :
    s.KeepsDevices (s.endScrubDecode o d) := by
  have reported : s.KeepsDevices (s.reportScrub o d) := .then_same (s.report_keepsDevices d _ _) rfl
  unfold State.endScrubDecode
  split
  · exact .then_same reported rfl
  · exact .after (State.releaseScrub_keepsDevices _ _) reported

theorem State.grantTargetedRead_keepsDevices (s : State) (o : TargetedOrder) (errors : List SliceError) :
    s.KeepsDevices (s.grantTargetedRead o errors) := .then_same (s.applyErrorsHost_keepsDevices _ errors) rfl

theorem State.countTargeted_keepsDevices (s : State) (o : TargetedOrder) : s.KeepsDevices (s.countTargeted o) := by
  rw [s.countTargeted_eq]
  exact .of_same rfl

theorem State.countDropped_keepsDevices (s : State) (op : OpenLine) (slot : Nat) :
    s.KeepsDevices (s.countDropped op slot) := by
  unfold State.countDropped
  split
  · exact .refl s
  · exact .of_same rfl

theorem State.endProbe_keepsDevices (s : State) (o : TargetedOrder) (d : Decode) : s.KeepsDevices (s.endProbe o d) :=
  .after (State.completeTargeted_keepsDevices _ _ _)
    (.after (State.checkQuiesce_keepsDevices _) (.then_same (s.report_keepsDevices d .probe s.time) rfl))

theorem State.endCopyDecode_keepsDevices (s : State) (d : Decode) : s.KeepsDevices (s.endCopyDecode d) :=
  .then_same (s.report_keepsDevices d .migration s.time) rfl

theorem State.copyWrite_keepsDevices (s : State) (e : RemapEntry) (op : OpenLine) (c : Content) :
    s.KeepsDevices (s.copyWrite e op c) := by
  unfold State.copyWrite
  split
  · exact .then_rank (s.writeLine_keepsDevices _ _ _ _) rfl (closeIf_rank _ _)
  · exact .of_same rfl

theorem State.discardEarlier_keepsDevices (s : State) (e : RemapEntry) : s.KeepsDevices (s.discardEarlier e) := by
  unfold State.discardEarlier
  split
  · exact .of_same rfl
  · exact .refl s

theorem State.finishMigrationSlot_keepsDevices (s : State) (m : Migration) (e : RemapEntry) :
    s.KeepsDevices (s.finishMigrationSlot m e) := by
  unfold State.finishMigrationSlot
  split
  · exact s.requestDone_keepsDevices _ _
  · exact .refl s

theorem State.completeMigration_keepsDevices (s : State) (m : Migration) (e : RemapEntry) :
    s.KeepsDevices (s.completeMigration m e) := by
  have discarded : s.KeepsDevices (State.removeEntry (State.discardEarlier
      (s.changeRemap e.rank e.row fun x => { x with state := .active, cursor := 128, earlier := none }) e)
      e.rank e.row) :=
    .after (State.removeEntry_keepsDevices _ _ _)
      (.after (State.discardEarlier_keepsDevices _ e) (s.changeRemap_keepsDevices _ _ _))
  have recorded := fun r => State.KeepsDevices.after (State.finishMigrationSlot_keepsDevices _ m e)
    (.after (State.handRecord_keepsDevices _ r) discarded)
  exact .after (State.startMigration_keepsDevices _) (.then_same (recorded _) rfl)

theorem State.endCopy_keepsDevices (s : State) (e : RemapEntry) : s.KeepsDevices (s.endCopy e) := by
  have advanced : s.KeepsDevices ((State.checkQuiesce { s with migrationOp := none }).changeRemap e.rank e.row
      fun x => { x with cursor := x.cursor + 1 }) :=
    .after (State.changeRemap_keepsDevices _ _ _ _) (.after (State.checkQuiesce_keepsDevices _) (.of_same rfl))
  simp only [State.endCopy]
  split
  · exact advanced
  · split
    · exact .after (State.completeMigration_keepsDevices _ _ _) advanced
    · exact advanced

end Sys2Proof.Machine
end

section
/-! PROOFS. O58: every command keeps the device maps sound, and so does every step. -/

namespace Sys2Proof.Machine

/-! ## The frame of a command -/

/-- Every next state that a command's effect gives has sound device maps when the state before had. -/
def EffectKeepsDevices (e : State → Host.Outcome State Fault Refusal) : Prop :=
  ∀ s t : State, e s = .next t → s.KeepsDevices t

/-- A command whose own effect keeps the maps, from whatever state the pending hand-off leaves. -/
theorem act_keepsDevices {f : State → State} (hf : ∀ u : State, u.KeepsDevices (f u)) : EffectKeepsDevices (act f) :=
  fun s t h => by
    cases h
    exact .then_same (.after (hf _) s.settle_keepsDevices) rfl

theorem onHandOff_keepsDevices {p : HandOff → Bool} {f : State → HandOff → State}
    (hf : ∀ (u : State) (h : HandOff), u.KeepsDevices (f u h)) : EffectKeepsDevices (onHandOff p f) := fun s t h => by
  unfold onHandOff at h
  split at h
  · split at h
    · cases h
      exact .then_same (hf _ _) rfl
    · cases h
      exact .refl s
  · cases h
    exact .refl s

/-- An order whose own effect keeps the maps, for a line of the kind and mode it is carried out for. -/
theorem onOrder_keepsDevices {p : Line → Bool} {f : State → Nat → Line → State}
    (hf : ∀ (u : State) (slot : Nat) (l : Line), p l = true → u.KeepsDevices (f u slot l)) :
    EffectKeepsDevices (onOrder p f) := by
  refine act_keepsDevices fun u => ?_
  split
  · next slot l h =>
    obtain ⟨-, -, hp⟩ := State.dispatched_some h
    exact .after (hf _ _ _ hp) (.of_same rfl)
  · exact .refl u

/-! ### Resets and restart -/

theorem execPowerOnReset_keepsDevices (ranks : BitVec 2) (base : BitVec 13) :
    EffectKeepsDevices (execPowerOnReset ranks base) := fun s t h => by
  cases h
  exact State.powerOn_keepsDevices s _ _ _ _

theorem execArrayInitLineWrite_keepsDevices (rank : Nat) : EffectKeepsDevices (execArrayInitLineWrite rank) :=
  act_keepsDevices fun u => .when fun _ => by
    rw [u.initLine_eq]
    exact .of_same rfl

theorem execArrayInitDone_keepsDevices : EffectKeepsDevices execArrayInitDone :=
  act_keepsDevices fun u => .when fun _ => by
    split
    · exact .of_same rfl
    · exact u.openPort_keepsDevices

theorem execWarmReset_keepsDevices : EffectKeepsDevices execWarmReset := act_keepsDevices fun u => by
  split
  · exact u.powerOn_keepsDevices _ _ _ _
  · exact .refl u
  · exact .after (State.beginRestartStep_keepsDevices _ _) u.warmed_keepsDevices
  · exact .after (State.beginRestartStep_keepsDevices _ _) u.warmed_keepsDevices

theorem execRestartSlotScanRead_keepsDevices : EffectKeepsDevices execRestartSlotScanRead :=
  act_keepsDevices fun u => by
    split
    · exact .after (State.beginRestartStep_keepsDevices _ _) (u.scanSlot_keepsDevices _ _)
    · exact .refl u

theorem execRestartWindowReread_keepsDevices : EffectKeepsDevices execRestartWindowReread :=
  act_keepsDevices fun u => by
    split
    · exact .after (State.beginRestartStep_keepsDevices _ _) (u.rereadWindow_keepsDevices _ _ _)
    · exact .refl u

theorem execRestartMarkRead_keepsDevices : EffectKeepsDevices execRestartMarkRead := act_keepsDevices fun u => by
  split
  · exact .after (State.beginRestartStep_keepsDevices _ _) (u.rereadMark_keepsDevices _)
  · exact .refl u

/-! ### The demand path -/

theorem execAccessAboveLTotal_keepsDevices (kind : AccessKind) (address : Nat) :
    EffectKeepsDevices (execAccessAboveLTotal kind address) :=
  act_keepsDevices fun u => .when fun _ => u.serveAbove_keepsDevices _ _

theorem execServerReadGrant_keepsDevices (port : Nat) (errors : List SliceError) :
    EffectKeepsDevices (execServerReadGrant port errors) := act_keepsDevices fun u => by
  split
  · exact .when fun _ =>
      .after (State.freePort_keepsDevices _ _) (.then_same (u.applyErrorsHost_keepsDevices _ errors) rfl)
  · exact .refl u

theorem execServerReadDecodeEnd_keepsDevices (port : Nat) : EffectKeepsDevices (execServerReadDecodeEnd port) :=
  act_keepsDevices fun u => by
    split
    · exact .after (State.endServerRead_keepsDevices _ _) (.of_same rfl)
    · exact .refl u

theorem execWriteBackGrant_keepsDevices (port : Nat) : EffectKeepsDevices (execWriteBackGrant port) :=
  act_keepsDevices fun u => by
    split
    · exact .when fun _ => u.writeBackNow_keepsDevices _
    · exact .refl u

theorem execFullLineWriteGrant_keepsDevices (port : Nat) : EffectKeepsDevices (execFullLineWriteGrant port) :=
  act_keepsDevices fun u => by
    split
    · exact .when fun _ => .after (State.freePort_keepsDevices _ _)
        (.after (State.handOver_keepsDevices _ _ _) (u.hostWrite_reply_keepsDevices _ _ _))
    · exact .refl u

theorem execMergeReadGrant_keepsDevices (port : Nat) (errors : List SliceError) :
    EffectKeepsDevices (execMergeReadGrant port errors) := act_keepsDevices fun u => by
  split
  · exact .when fun _ => .then_same (u.applyErrorsHost_keepsDevices _ errors) rfl
  · exact .refl u

theorem execMergeDecodeEnd_keepsDevices (port : Nat) : EffectKeepsDevices (execMergeDecodeEnd port) :=
  act_keepsDevices fun u => by
    split
    · exact u.endMerge_keepsDevices _ _ _ _ _ _
    · exact .refl u

theorem execMaskedWriteHalfGrant_keepsDevices (port : Nat) : EffectKeepsDevices (execMaskedWriteHalfGrant port) :=
  act_keepsDevices fun u => by
    split
    · refine .when fun _ => ?_
      split
      · exact u.writeOrphanHalf_keepsDevices _ _ _ _
      · exact u.writeHalf_keepsDevices _ _ _ _
    · exact .refl u

theorem execMaskedWriteEntryGrant_keepsDevices (port : Nat) : EffectKeepsDevices (execMaskedWriteEntryGrant port) :=
  act_keepsDevices fun u => by
    split
    · exact .when fun _ => u.writeFromEntry_keepsDevices _ _ _ _
    · exact .refl u

/-! ### Hand-offs, the writer, the own reads and the takes -/

theorem execReadMarkWrite_keepsDevices : EffectKeepsDevices execReadMarkWrite :=
  onHandOff_keepsDevices fun _ _ => .after (State.moveMark_keepsDevices _ _) (.of_same rfl)

theorem execCauseAcknowledge_keepsDevices : EffectKeepsDevices execCauseAcknowledge :=
  onHandOff_keepsDevices fun _ _ => .after (State.setCauses_keepsDevices _ _) (.of_same rfl)

theorem execWindowStart_keepsDevices (record : Nat) : EffectKeepsDevices (execWindowStart record) :=
  act_keepsDevices fun u => .when fun _ => u.turnWindow_keepsDevices _ _

theorem execWindowEnd_keepsDevices (record : Nat) : EffectKeepsDevices (execWindowEnd record) :=
  act_keepsDevices fun u => .when fun _ => u.turnWindow_keepsDevices _ _

theorem execCwWriterGrant_keepsDevices : EffectKeepsDevices execCwWriterGrant := act_keepsDevices fun u => by
  split
  · exact .refl u
  · exact .when fun _ => .after (State.hostWrite_keepsDevices _ _ _) (.of_same rfl)

theorem execOwnReadGrant_keepsDevices (errors : List SliceError) : EffectKeepsDevices (execOwnReadGrant errors) :=
  act_keepsDevices fun u => by
    split
    · exact .when fun _ => u.grantOwnRead_keepsDevices _ errors
    · exact .refl u

theorem execOwnReadDecodeEnd_keepsDevices : EffectKeepsDevices execOwnReadDecodeEnd := act_keepsDevices fun u => by
  split
  · split
    · exact u.endOwnRead_keepsDevices _ _ _
    · exact .refl u
    · exact .refl u
  · exact .refl u

theorem execTakeStart_keepsDevices : EffectKeepsDevices execTakeStart := act_keepsDevices fun u => by
  refine .after (t := u.settleCursor) ?_ (.of_same rfl)
  exact .when fun _ => .of_same rfl

theorem execTakeUnusableLine_keepsDevices : EffectKeepsDevices execTakeUnusableLine := act_keepsDevices fun u => by
  split
  · exact .of_same rfl
  · exact .refl u

theorem execTakeNotPosted_keepsDevices : EffectKeepsDevices execTakeNotPosted := act_keepsDevices fun u => by
  split
  · exact .when fun _ => .of_same rfl
  · exact .refl u

theorem execTakeUnknownKind_keepsDevices : EffectKeepsDevices execTakeUnknownKind := act_keepsDevices fun u => by
  split
  · exact .when fun _ => .after (State.requestDone_keepsDevices _ _ _) (.of_same rfl)
  · exact .refl u

theorem execTakeLackOfRoom_keepsDevices : EffectKeepsDevices execTakeLackOfRoom := act_keepsDevices fun u => by
  split
  · exact .when fun _ => .of_same rfl
  · exact .refl u

/-- The order is carried out for a line in mode RESTORE alone. -/
theorem execMarkDeviceRestore_keepsDevices : EffectKeepsDevices execMarkDeviceRestore :=
  onOrder_keepsDevices fun _ slot _ hp =>
    State.takeMarkRestore_keepsDevices (of_decide_eq_true (Bool.and_eq_true .. ▸ hp).2) slot

/-! ### Decay, pacing and the background engines -/

theorem execDecayTick_keepsDevices : EffectKeepsDevices execDecayTick := act_keepsDevices fun _ => .when fun _ =>
  .after (State.clearAllSuspects_keepsDevices _) (.of_same rfl)

theorem execPaceIntervalStart_keepsDevices : EffectKeepsDevices execPaceIntervalStart := act_keepsDevices fun u => by
  split
  · next t _ =>
    have counted : u.KeepsDevices (u.periodicReview t).startCounts := .then_same (u.periodicReview_keepsDevices t) rfl
    exact .then_same (.after (State.accrueIfAccruing_keepsDevices _) counted) rfl
  · exact .refl u

theorem execPeriodicPaceReview_keepsDevices : EffectKeepsDevices execPeriodicPaceReview := act_keepsDevices fun u => by
  split
  · exact .when fun _ => .then_same u.askReview_keepsDevices rfl
  · exact .refl u

theorem execPassLate_keepsDevices : EffectKeepsDevices execPassLate :=
  act_keepsDevices fun u => .when fun _ => .after (State.review_keepsDevices _) u.markLate_keepsDevices

theorem execPatrolReadGrant_keepsDevices (errors : List SliceError) : EffectKeepsDevices (execPatrolReadGrant errors) :=
  act_keepsDevices fun u => .when fun _ => u.grantPatrolRead_keepsDevices errors

theorem execPatrolDecodeEnd_keepsDevices : EffectKeepsDevices execPatrolDecodeEnd := act_keepsDevices fun u => by
  split
  · exact u.endPatrolDecode_keepsDevices _
  · exact .refl u

theorem execPatrolWriteGrant_keepsDevices : EffectKeepsDevices execPatrolWriteGrant := act_keepsDevices fun u => by
  split
  · exact .when fun _ => .after (State.releasePatrol_keepsDevices _) (u.visitWrite_keepsDevices _ _)
  · exact .refl u

theorem execScrubVisitReadGrant_keepsDevices (errors : List SliceError) :
    EffectKeepsDevices (execScrubVisitReadGrant errors) := act_keepsDevices fun u => by
  split
  · exact .after (State.countTargeted_keepsDevices _ _) (u.grantTargetedRead_keepsDevices _ _)
  · exact .refl u

theorem execScrubVisitDecodeEnd_keepsDevices : EffectKeepsDevices execScrubVisitDecodeEnd :=
  act_keepsDevices fun u => by
    split
    · exact u.endScrubDecode_keepsDevices _ _
    · exact .refl u

theorem execScrubVisitWriteGrant_keepsDevices : EffectKeepsDevices execScrubVisitWriteGrant :=
  act_keepsDevices fun u => by
    split
    · exact .when fun _ => .after (State.releaseScrub_keepsDevices _ _)
        (.after (State.countDropped_keepsDevices _ _ _) (u.visitWrite_keepsDevices _ _))
    · exact .refl u

theorem execProbeReadGrant_keepsDevices (errors : List SliceError) : EffectKeepsDevices (execProbeReadGrant errors) :=
  act_keepsDevices fun u => by
    split
    · exact u.grantTargetedRead_keepsDevices _ _
    · exact .refl u

theorem execProbeDecodeEnd_keepsDevices : EffectKeepsDevices execProbeDecodeEnd := act_keepsDevices fun u => by
  split
  · exact u.endProbe_keepsDevices _ _
  · exact .refl u

theorem execCopyReadGrant_keepsDevices (errors : List SliceError) : EffectKeepsDevices (execCopyReadGrant errors) :=
  act_keepsDevices fun u => by
    split
    · exact .when fun _ => .then_same (u.applyErrors_keepsDevices _ _ _ errors) rfl
    · exact .refl u

theorem execCopyDecodeEnd_keepsDevices : EffectKeepsDevices execCopyDecodeEnd := act_keepsDevices fun u => by
  split
  · exact u.endCopyDecode_keepsDevices _
  · exact .refl u

theorem execCopyWriteGrant_keepsDevices : EffectKeepsDevices execCopyWriteGrant := act_keepsDevices fun u => by
  split
  · exact .when fun _ => .after (State.endCopy_keepsDevices _ _) (u.copyWrite_keepsDevices _ _ _)
  · exact .refl u

theorem execRebuildReadGrant_keepsDevices (errors : List SliceError) :
    EffectKeepsDevices (execRebuildReadGrant errors) :=
  act_keepsDevices fun u => by
    split
    · next h => exact .when fun _ => State.grantRebuildRead_keepsDevices h errors
    · exact .refl u

theorem execRebuildDecodeEnd_keepsDevices : EffectKeepsDevices execRebuildDecodeEnd := act_keepsDevices fun u => by
  split
  · exact u.endRebuildDecode_keepsDevices _
  · exact .refl u

theorem execRebuildWriteGrant_keepsDevices : EffectKeepsDevices execRebuildWriteGrant := act_keepsDevices fun u => by
  split
  · next op c h =>
    have hop : (u.rebuildWrite op c).rebuildOp = some op := (u.rebuildWrite_rebuildOp op c).trans (writingOf_eq_some h)
    exact .when fun _ => .after (State.endRebuildLine_keepsDevices hop) (u.rebuildWrite_keepsDevices op c)
  · exact .refl u

theorem execHoldoffExpiry_keepsDevices : EffectKeepsDevices execHoldoffExpiry :=
  act_keepsDevices fun _ => .when fun _ => .after (State.setCauses_keepsDevices _ _) (.of_same rfl)

theorem execStatusTimerExpiry_keepsDevices : EffectKeepsDevices execStatusTimerExpiry :=
  act_keepsDevices fun _ => .when fun _ => .after (State.askStatus_keepsDevices _) (.of_same rfl)

/-! ### Every command and every step -/

theorem exec_keepsDevices (c : Instr) : EffectKeepsDevices (exec c) := by
  cases c with
  | powerOnReset ranks base => exact execPowerOnReset_keepsDevices ranks base
  | arrayInitLineWrite rank => exact execArrayInitLineWrite_keepsDevices rank
  | arrayInitDone => exact execArrayInitDone_keepsDevices
  | warmReset => exact execWarmReset_keepsDevices
  | restartSlotScanRead => exact execRestartSlotScanRead_keepsDevices
  | restartWindowReread => exact execRestartWindowReread_keepsDevices
  | restartMarkRead => exact execRestartMarkRead_keepsDevices
  | restartEnd => exact act_keepsDevices State.admitIdentity_keepsDevices
  | accessAboveLTotal kind address => exact execAccessAboveLTotal_keepsDevices kind address
  | accessNotReady => exact act_keepsDevices .refl
  | serverReadPresent address => exact act_keepsDevices fun u => u.arrive_keepsDevices .read address (.read address)
  | serverReadGrant port errors => exact execServerReadGrant_keepsDevices port errors
  | serverReadDecodeEnd port => exact execServerReadDecodeEnd_keepsDevices port
  | writeBackGrant port => exact execWriteBackGrant_keepsDevices port
  | fullLineWritePresent address data =>
    exact act_keepsDevices fun u => u.arrive_keepsDevices .fullLineWrite address (.fullLineWrite address data)
  | fullLineWriteGrant port => exact execFullLineWriteGrant_keepsDevices port
  | maskedWritePresent address data mask =>
    exact act_keepsDevices fun u => u.arrive_keepsDevices .maskedWrite address (.maskedWrite address data mask)
  | mergeReadGrant port errors => exact execMergeReadGrant_keepsDevices port errors
  | mergeDecodeEnd port => exact execMergeDecodeEnd_keepsDevices port
  | maskedWriteHalfGrant port => exact execMaskedWriteHalfGrant_keepsDevices port
  | maskedWriteEntryGrant port => exact execMaskedWriteEntryGrant_keepsDevices port
  | slotPost => exact onHandOff_keepsDevices State.actOnSlot_keepsDevices
  | slotFree => exact onHandOff_keepsDevices State.actOnSlot_keepsDevices
  | windowArm => exact onHandOff_keepsDevices State.actOnRecord_keepsDevices
  | windowCancel => exact onHandOff_keepsDevices State.actOnRecord_keepsDevices
  | windowEmpty => exact onHandOff_keepsDevices State.actOnRecord_keepsDevices
  | windowStateNotActedOn => exact onHandOff_keepsDevices State.actOnRecord_keepsDevices
  | readMarkWrite => exact execReadMarkWrite_keepsDevices
  | causeAcknowledge => exact execCauseAcknowledge_keepsDevices
  | otherWindowWrite => exact onHandOff_keepsDevices fun _ _ => .of_same rfl
  | windowStart record => exact execWindowStart_keepsDevices record
  | windowEnd record => exact execWindowEnd_keepsDevices record
  | cwWriterGrant => exact execCwWriterGrant_keepsDevices
  | cwWriterAdmission => exact act_keepsDevices State.admitOldest_keepsDevices
  | ownReadGrant errors => exact execOwnReadGrant_keepsDevices errors
  | ownReadDecodeEnd => exact execOwnReadDecodeEnd_keepsDevices
  | takeStart => exact execTakeStart_keepsDevices
  | takeUnusableLine => exact execTakeUnusableLine_keepsDevices
  | takeNotPosted => exact execTakeNotPosted_keepsDevices
  | takeUnknownKind => exact execTakeUnknownKind_keepsDevices
  | takeLackOfRoom => exact execTakeLackOfRoom_keepsDevices
  | scrubRange => exact onOrder_keepsDevices fun u slot l _ => u.takeScrub_keepsDevices slot l
  | probeLine => exact onOrder_keepsDevices fun u slot l _ => u.takeProbe_keepsDevices slot l
  | retireRowMigrate => exact onOrder_keepsDevices fun u slot l _ => u.takeMigrate_keepsDevices slot l
  | retireRowRestore => exact onOrder_keepsDevices fun u slot l _ => u.takeRestoreRow_keepsDevices slot l
  | markDeviceRebuild => exact onOrder_keepsDevices fun u slot l _ => u.takeMarkRebuild_keepsDevices slot l
  | markDeviceEraseOnly => exact onOrder_keepsDevices fun u slot l _ => u.takeMarkEraseOnly_keepsDevices slot l
  | markDeviceRestore => exact execMarkDeviceRestore_keepsDevices
  | setPolicy => exact onOrder_keepsDevices fun u slot l _ => u.takePolicy_keepsDevices slot l
  | quiesce => exact onOrder_keepsDevices fun u slot l _ => u.takeQuiesce_keepsDevices slot l
  | resume => exact onOrder_keepsDevices fun u slot l _ => u.takeResume_keepsDevices slot l
  | exportTables => exact onOrder_keepsDevices fun u slot l _ => u.takeExport_keepsDevices slot l
  | exportLineEntry => exact act_keepsDevices State.admitExportLine_keepsDevices
  | decayTick => exact execDecayTick_keepsDevices
  | paceIntervalStart => exact execPaceIntervalStart_keepsDevices
  | periodicPaceReview => exact execPeriodicPaceReview_keepsDevices
  | passLate => exact execPassLate_keepsDevices
  | patrolReadGrant errors => exact execPatrolReadGrant_keepsDevices errors
  | patrolDecodeEnd => exact execPatrolDecodeEnd_keepsDevices
  | patrolWriteGrant => exact execPatrolWriteGrant_keepsDevices
  | scrubVisitReadGrant errors => exact execScrubVisitReadGrant_keepsDevices errors
  | scrubVisitDecodeEnd => exact execScrubVisitDecodeEnd_keepsDevices
  | scrubVisitWriteGrant => exact execScrubVisitWriteGrant_keepsDevices
  | probeReadGrant errors => exact execProbeReadGrant_keepsDevices errors
  | probeDecodeEnd => exact execProbeDecodeEnd_keepsDevices
  | copyReadGrant errors => exact execCopyReadGrant_keepsDevices errors
  | copyDecodeEnd => exact execCopyDecodeEnd_keepsDevices
  | copyWriteGrant => exact execCopyWriteGrant_keepsDevices
  | rebuildReadGrant errors => exact execRebuildReadGrant_keepsDevices errors
  | rebuildDecodeEnd => exact execRebuildDecodeEnd_keepsDevices
  | rebuildWriteGrant => exact execRebuildWriteGrant_keepsDevices
  | stagingDeparture => exact act_keepsDevices State.stagingDeparts_keepsDevices
  | holdoffExpiry => exact execHoldoffExpiry_keepsDevices
  | statusTimerExpiry => exact execStatusTimerExpiry_keepsDevices
  | statusWrite => exact act_keepsDevices State.admitStatus_keepsDevices

theorem State.idle_keepsDevices {s t : State} (h : s.idle = .next t) : s.KeepsDevices t := by
  unfold State.idle at h
  split at h
  · exact act_keepsDevices .refl s t h
  · split at h
    · exact exec_keepsDevices _ s t h
    · cases h
      exact .of_same rfl

theorem step_keepsDevices {s t : State} (h : step s = .next t) : s.KeepsDevices t := by
  unfold step at h
  split at h
  · exact .after (exec_keepsDevices _ _ t h) (.of_same rfl)
  · exact State.idle_keepsDevices h

/-- Settles O58: every command, hand-off and due step is made of operations that each keep the maps. -/
theorem stepsKeepDevicesSound : Obligations.StepsKeepDevicesSound := fun _ _ h hstep => step_keepsDevices hstep h

end Sys2Proof.Machine
end

section
/-! PROOFS. O28: the writer's places, what enters and what waits, and the admission of the oldest waiting block. -/

namespace Sys2Proof.Machine

/-! ## The writer's places (R174) -/

theorem Waiter.hasOwnStep_iff (w : Waiter) :
    w.hasOwnStep = true ↔ w = .status ∨ w = .exportLine ∨ w = .identity ∨ w = .journal := by
  cases w <;> simp [Waiter.hasOwnStep]

theorem Waiter.places_eq (w : Waiter) : w.places = if w = .status then 2 else 1 := by
  cases w <;> simp [Waiter.places]

theorem State.writerHasPlace_iff (s : State) : s.writerHasPlace = true ↔
    (∀ w ∈ s.waiters, w = .status ∨ w = .exportLine ∨ w = .identity ∨ w = .journal) ∧
      s.writer.length + (s.waiters.map fun w => if w = .status then 2 else 1).sum + 1 ≤ 32 := by
  have places : (fun w : Waiter => if w = .status then 2 else 1) = Waiter.places := funext fun w => w.places_eq.symm
  rw [places, State.writerHasPlace, Bool.and_eq_true, decide_eq_true_eq, List.all_eq_true]
  simp only [Waiter.hasOwnStep_iff]
  rfl

/-! ## A line write enters or waits (R167, R174, R179) -/

section
variable {s : State}

theorem State.requestItem_enters (h : s.writerHasPlace = true) (item : WriterItem) :
    s.requestItem item = { s with writer := s.writer ++ [item] } := if_pos h

theorem State.requestItem_waits (h : s.writerHasPlace = false) (item : WriterItem) :
    s.requestItem item = { s with waiters := s.waiters ++ [.item item] } := if_neg (Bool.eq_false_iff.1 h)

theorem State.requestDone_enters (h : s.writerHasPlace = true) (slot : Nat) (l : Line) :
    s.requestDone slot l = s.enterDone slot l := if_pos h

theorem State.requestDone_waits (h : s.writerHasPlace = false) (slot : Nat) (l : Line) :
    s.requestDone slot l = { s with waiters := s.waiters ++ [.slotDone slot l] } := if_neg (Bool.eq_false_iff.1 h)

end

/-- A DONE write that enters makes its slot's mirror DONE and raises ORDER; only the waiting blocks may change besides,
for the status write that the cause asks for. -/
theorem State.enterDone_eq (s : State) (slot : Nat) (l : Line) :
    s.enterDone slot l =
      { s with writer := s.writer ++ [.line (64 + slot) l], waiters := (s.enterDone slot l).waiters,
               slots := put s.slots slot { s.slot slot with state := .done },
               journal := { s.journal with causes := s.journal.causes.add .order } } := by
  obtain ⟨w, e⟩ := State.raiseCause_eq
    ((s.enterWriter (.line (slotOffset slot) l)).setSlot slot { s.slot slot with state := .done }) .order
  have entered : s.enterDone slot l = _ := e
  rw [entered]
  rfl

theorem State.enterDone_done (s : State) {slot : Nat} (h : slot < 256) (l : Line) :
    ((s.enterDone slot l).slot slot).state = .done := by
  rw [State.enterDone_eq]
  exact congrArg SlotMirror.state (nth_put_same _ _ _ _ h)

theorem State.enterDone_order (s : State) (slot : Nat) (l : Line) :
    (s.enterDone slot l).journal.causes.order = true := by
  rw [State.enterDone_eq]
  rfl

/-! ## Admission (R174) -/

theorem State.mayEnter_head {s : State} {w : Waiter} {rest : List Waiter} (hw : s.waiters = w :: rest)
    (hroom : s.writer.length + w.places ≤ 32) : s.mayEnter w = true := by
  rw [State.mayEnter, hw, Bool.and_eq_true, decide_eq_true_eq, decide_eq_true_eq]
  exact ⟨rfl, hroom⟩

theorem exec_cwWriterAdmission {s : State} (h : s.handOff = none) :
    exec .cwWriterAdmission s = .next s.admitOldest.finish := act_next h

section
variable {s : State} {rest : List Waiter}

theorem State.admitOldest_item {item : WriterItem} (hw : s.waiters = .item item :: rest)
    (hroom : s.writer.length < 32) :
    s.admitOldest = { s with waiters := rest, writer := s.writer ++ [item] } := by
  simp only [State.admitOldest, hw, if_pos (State.mayEnter_head hw hroom)]
  rfl

theorem State.admitOldest_slotDone {slot : Nat} {l : Line} (hw : s.waiters = .slotDone slot l :: rest)
    (hroom : s.writer.length < 32) : s.admitOldest = State.enterDone { s with waiters := rest } slot l := by
  simp only [State.admitOldest, hw, if_pos (State.mayEnter_head hw hroom)]

theorem State.admitOldest_journal (hw : s.waiters = .journal :: rest) : s.admitOldest = s.stagingDeparts := by
  simp only [State.admitOldest, hw]

theorem State.admitOldest_exportLine (hw : s.waiters = .exportLine :: rest) : s.admitOldest = s.admitExportLine := by
  simp only [State.admitOldest, hw]

theorem State.admitOldest_status (hw : s.waiters = .status :: rest) : s.admitOldest = s.admitStatus := by
  simp only [State.admitOldest, hw]

theorem State.admitOldest_identity (hw : s.waiters = .identity :: rest) : s.admitOldest = s.admitIdentity := by
  simp only [State.admitOldest, hw]

end

/-- Settles O28: a request by whether the writer has a place, an admission by the kind of the oldest waiting block. -/
theorem writerEntersOrMakesWait : Obligations.WriterEntersOrMakesWait := by
  refine ⟨State.writerHasPlace_iff, fun s item slot l =>
      ⟨fun hp => ⟨State.requestItem_enters hp item, State.writer_place hp⟩, fun hp => State.requestItem_waits hp item,
        fun hp hslot => ?_, fun hp => State.requestDone_waits hp slot l⟩,
    fun s rest h hroom => ⟨fun item hw => ?_, fun slot l hw hslot => ?_, fun hw => ?_, fun hw => ?_, fun hw => ?_,
      fun hw => ?_⟩⟩
  · rw [State.requestDone_enters hp]
    exact ⟨s.enterDone_done hslot l, s.enterDone_order slot l, s.enterDone_eq slot l⟩
  · rw [exec_cwWriterAdmission h, State.admitOldest_item hw hroom]
  · rw [exec_cwWriterAdmission h, State.admitOldest_slotDone hw hroom]
    exact ⟨_, rfl, State.enterDone_done _ hslot l, State.enterDone_order _ slot l, State.enterDone_eq _ slot l⟩
  · rw [exec_cwWriterAdmission h, State.admitOldest_journal hw, exec_stagingDeparture h]
  · rw [exec_cwWriterAdmission h, State.admitOldest_exportLine hw, exec_exportLineEntry h]
  · rw [exec_cwWriterAdmission h, State.admitOldest_status hw]
    exact (act_next h).symm
  · rw [exec_cwWriterAdmission h, State.admitOldest_identity hw]
    exact (act_next h).symm

end Sys2Proof.Machine
end

section
/-! PROOFS. O27: the host mark line's two fields, and the window lines that carry no meaning. -/

namespace Sys2Proof.Machine

/-! ## The hand-off rows (R57) -/

theorem onHandOff_next {s : State} {h : HandOff} (hs : s.handOff = some h) {p : HandOff → Bool} (hp : p h = true)
    (f : State → HandOff → State) : onHandOff p f s = .next (f s h).finish := by
  rw [onHandOff, hs]
  exact if_pos hp

/-! ## The read mark (R177, R178) -/

section
variable {w m x : Count32}

theorem settledMark_same (h : x = m) : settledMark w m x = m := if_pos h

theorem settledMark_back (h : (m - x).toNat ≤ 1024) : settledMark w m x = m := by
  rw [settledMark, if_pos h, ite_self]

/-- A mark more than 1024 back is a forward one. -/
theorem settledMark_forward (h : 1024 < (m - x).toNat) :
    settledMark w m x = if (x - m).toNat ≤ (w - m).toNat then x else w := by
  have moved : x ≠ m := by
    rintro rfl
    rw [BitVec.sub_self] at h
    exact absurd h (by decide)
  rw [settledMark, if_neg moved, if_neg (Nat.not_le.2 h)]

end

/-- The ROOM flag after the mark has become `m`: set by a move that takes free above 32, else as it was (R178). -/
def State.roomArmedAt (s : State) (m : Count32) : Bool :=
  if m ≠ s.journal.mark ∧ 32 < 1024 - (s.journal.published - m).toNat then true else s.journal.roomArmed

/-- A new read mark settles the mark and the ROOM flag; besides, the Journal may begin or cease to wait. -/
theorem State.moveMark_eq (s : State) (x : Count32) :
    ∃ w, s.moveMark x =
      { s with journal := { s.journal with
                 mark := settledMark s.journal.published s.journal.mark x,
                 roomArmed := s.roomArmedAt (settledMark s.journal.published s.journal.mark x) },
               waiters := w } := by
  generalize hm : settledMark s.journal.published s.journal.mark x = m
  obtain ⟨w, e⟩ := State.syncJournal_frame
    { s with journal := { s.journal with mark := m, roomArmed := s.roomArmedAt m } }
  refine ⟨w, Eq.trans (congrArg State.syncJournal ?_) e⟩
  by_cases h : m ≠ s.journal.mark ∧ 32 < 1024 - (s.journal.published - m).toNat
  · rw [State.roomArmedAt, if_pos h]
    subst hm
    exact if_pos h
  · rw [State.roomArmedAt, if_neg h]
    subst hm
    exact if_neg h

theorem exec_readMarkWrite {s : State} {h : HandOff} (hs : s.handOff = some h) (ho : h.offset = 2)
    (hm : h.markDone = false) : exec .readMarkWrite s = .next (State.finish (State.moveMark
      { s with handOff := if h.ackDone then none else some { h with markDone := true } } (markField h.line))) := by
  have mine : (h.isMark && !h.markDone) = true := by rw [HandOff.isMark, ho, hm]; rfl
  show execReadMarkWrite s = _
  rw [execReadMarkWrite, onHandOff_next (p := fun h => h.isMark && !h.markDone) hs mine]
  rfl

/-! ## The causes (R177, R179) -/

/-- A new pending set is put in place; where it differs, a status write waits. -/
theorem State.setCauses_eq (s : State) (c : CauseSet) :
    ∃ w, s.setCauses c = { s with journal := { s.journal with causes := c }, waiters := w } ∧
      (c ≠ s.journal.causes → w.contains .status = true) := by
  unfold State.setCauses
  split
  · next same => exact ⟨s.waiters, by rw [same], fun hne => absurd same hne⟩
  · exact ⟨_, State.askStatus_only_waiters _, fun _ => State.askStatus_contains _⟩

theorem exec_causeAcknowledge {s : State} {h : HandOff} (hs : s.handOff = some h) (ho : h.offset = 2)
    (ha : h.ackDone = false) : exec .causeAcknowledge s = .next (State.finish (State.acknowledge
      { s with handOff := if h.markDone then none else some { h with ackDone := true } } (ackField h.line))) := by
  have mine : (h.isMark && !h.ackDone) = true := by rw [HandOff.isMark, ho, ha]; rfl
  have remaining : HandOff.remaining { h with ackDone := true } =
      if h.markDone then none else some { h with ackDone := true } := by rw [HandOff.remaining, Bool.and_true]
  show execCauseAcknowledge s = _
  rw [execCauseAcknowledge, onHandOff_next (p := fun h => h.isMark && !h.ackDone) hs mine, remaining]

/-! ## Lines that carry no meaning (R160) -/

theorem slotOfOffset_eq_none {offset : Nat} (h : offset < 64 ∨ 320 ≤ offset) : slotOfOffset offset = none :=
  if_neg (by omega)

theorem recordOfOffset_eq_none {offset : Nat} (h : offset < 16 ∨ 48 ≤ offset) : recordOfOffset offset = none :=
  if_neg (by omega)

theorem exec_otherWindowWrite {s : State} {h : HandOff} (hs : s.handOff = some h) (hmark : h.offset ≠ 2)
    (hrecord : h.offset < 16 ∨ 48 ≤ h.offset) (hslot : h.offset < 64 ∨ 320 ≤ h.offset) :
    exec .otherWindowWrite s = .next (State.finish { s with handOff := none }) := by
  have other : h.isOther = true := by
    rw [HandOff.isOther, slotOfOffset_eq_none hslot, recordOfOffset_eq_none hrecord, HandOff.isMark,
      decide_eq_false hmark]
    rfl
  exact onHandOff_next hs other fun s _ => { s with handOff := none }

/-- Settles O27: the mark by its distances from M and W, the flag by the move and the places it leaves free, the causes
by the set that the line leaves. -/
theorem markLineSettlesMarkAndCauses : Obligations.MarkLineSettlesMarkAndCauses := by
  refine ⟨fun s h x m w hs ho hm hx hmark hpub => ?_, fun s h hs => ⟨fun ho ha => ?_, exec_otherWindowWrite hs⟩⟩
  · subst hx hmark hpub
    obtain ⟨u, moved⟩ := State.moveMark_eq
      { s with handOff := if h.ackDone then none else some { h with markDone := true } } (markField h.line)
    refine ⟨_, (exec_readMarkWrite hs ho hm).trans (next_finish_congr moved), settledMark_same,
      fun _ => settledMark_back, fun hfar hin => ?_, fun hfar hout => ?_, fun hne hfree => if_pos ⟨hne, hfree⟩,
      fun hkept => if_neg fun ⟨hne, hfree⟩ => ?_, rfl⟩
    · exact (settledMark_forward hfar).trans (if_pos hin)
    · exact (settledMark_forward hfar).trans (if_neg (Nat.not_le.2 hout))
    · exact hkept.elim hne (Nat.not_le.2 hfree)
  · obtain ⟨u, set, asked⟩ := State.setCauses_eq
      { s with handOff := if h.markDone then none else some { h with ackDone := true } }
      (s.journal.causes.minus (ackField h.line))
    exact ⟨_, (exec_causeAcknowledge hs ho ha).trans (next_finish_congr set), rfl, rfl, rfl, rfl, asked, rfl⟩

end Sys2Proof.Machine
end

section
/-! PROOFS. O24, O23: the mirror of a slot line handed over, the take cursor, the room for an order, and the start of a
take. -/

namespace Sys2Proof.Machine

/-! ## Slot mirrors and slot lines -/

theorem State.slot_setSlot_same (s : State) {slot : Nat} (h : slot < 256) (m : SlotMirror) :
    (s.setSlot slot m).slot slot = m := nth_put_same _ _ _ _ h

theorem State.slot_setSlot_other (s : State) {slot i : Nat} (h : i ≠ slot) (m : SlotMirror) :
    (s.setSlot slot m).slot i = s.slot i := nth_put_other _ _ _ _ _ h

theorem slotOfOffset_slot {slot : Nat} (h : slot < 256) : slotOfOffset (64 + slot) = some slot := by
  rw [slotOfOffset, if_pos ⟨by omega, by omega⟩, Nat.add_sub_cancel_left]

/-! ## A slot line handed over (R162) -/

section
variable {s : State} {slot : Nat} {l : Line}

theorem State.slotHandOff_posted (h : slotStateField l = 1) : s.slotHandOff slot l = State.settleCursor
    (s.setSlot slot { s.slot slot with state := .posted, kind := slotKind l, mode := slotMode l }) := if_pos h

/-- The slot leaves the posted set, and its take, if it is the one under way, is withdrawn. -/
theorem State.slotHandOff_freed (h : slotStateField l ≠ 1) : s.slotHandOff slot l = State.settleCursor
    { s with slots := put s.slots slot { s.slot slot with state := .free },
             ownRead := if s.takeSlot = some slot then none else s.ownRead } := by
  rw [State.slotHandOff, if_neg h]
  dsimp only
  split
  · rfl
  · rfl

end

section
variable {s : State} {h : HandOff} {slot : Nat}

theorem onSlot_next (hs : s.handOff = some h) (ho : h.offset = 64 + slot) (hr : slot < 256) {p : Nat → Bool}
    (hp : p (slotStateField h.line) = true) :
    onHandOff (fun h => h.isSlot p) State.actOnSlot s =
      .next (State.slotHandOff { s with handOff := none } slot h.line).finish := by
  have offset : slotOfOffset h.offset = some slot := by rw [ho, slotOfOffset_slot hr]
  have mine : h.isSlot p = true := by rw [HandOff.isSlot, offset, hp]; rfl
  rw [onHandOff_next (p := fun h => h.isSlot p) hs mine, State.actOnSlot, offset]

theorem exec_slotPost (hs : s.handOff = some h) (ho : h.offset = 64 + slot) (hr : slot < 256)
    (hp : slotStateField h.line = 1) : exec .slotPost s =
      .next (State.slotHandOff { s with handOff := none } slot h.line).finish :=
  onSlot_next hs ho hr (decide_eq_true hp)

theorem exec_slotFree (hs : s.handOff = some h) (ho : h.offset = 64 + slot) (hr : slot < 256)
    (hp : slotStateField h.line ≠ 1) : exec .slotFree s =
      .next (State.slotHandOff { s with handOff := none } slot h.line).finish :=
  onSlot_next hs ho hr (decide_eq_true hp)

end

/-- Settles O24, by whether the state field of the line is POSTED. -/
theorem slotHandOffSetsMirror : Obligations.SlotHandOffSetsMirror := by
  refine fun s h slot hs ho hr => ⟨fun hp => ?_, fun hp => ?_⟩
  · rw [exec_slotPost hs ho hr hp, State.slotHandOff_posted hp]
    rfl
  · rw [exec_slotFree hs ho hr hp, State.slotHandOff_freed hp]
    rfl

/-! ## The take cursor (R164) -/

/-- The next slot of the set is found by its distance from the slot where the search begins. -/
theorem State.nextPosted_eq (s : State) (start : Nat) :
    s.nextPosted start = (firstBelow 256 fun k => s.inPosted ((start + k) % 256)).map fun k => (start + k) % 256 := by
  rw [State.nextPosted, List.find?_map, firstBelow]
  rfl

theorem State.settleCursor_empty {s : State} (h : ∀ i, i < 256 → s.inPosted i = false) : s.settleCursor = s := by
  have none_posted : s.nextPosted s.takeCursor = none := by
    rw [State.nextPosted_eq, firstBelow_eq_none.2 fun k _ => h _ (Nat.mod_lt _ (by decide)), Option.map_none]
  rw [State.settleCursor, none_posted, Option.getD_none]

theorem State.settleCursor_next {s : State} {k : Nat} (hk : k < 256)
    (hin : s.inPosted ((s.takeCursor + k) % 256) = true)
    (hfirst : ∀ j, j < k → s.inPosted ((s.takeCursor + j) % 256) = false) :
    s.settleCursor = { s with takeCursor := (s.takeCursor + k) % 256 } := by
  have found : s.nextPosted s.takeCursor = some ((s.takeCursor + k) % 256) := by
    rw [State.nextPosted_eq, firstBelow_eq_some.2 ⟨hk, hin, hfirst⟩, Option.map_some]
  rw [State.settleCursor, found, Option.getD_some]

theorem State.settleCursor_stays {s : State} (hc : s.takeCursor < 256) (h : s.inPosted s.takeCursor = true) :
    s.settleCursor = s := by
  have here : (s.takeCursor + 0) % 256 = s.takeCursor := Nat.mod_eq_of_lt hc
  rw [State.settleCursor_next (k := 0) (by decide) (here.symm ▸ h) fun j hj => absurd hj (Nat.not_lt_zero j), here]

/-! ## The start of a take (R165) -/

section
variable {s : State}

theorem State.inPosted_of_posted {slot : Nat} (h : (s.slot slot).state = .posted) : s.inPosted slot = true := by
  rw [State.inPosted, decide_eq_true h, Bool.true_or]

theorem exec_takeStart (h : s.handOff = none) (hc : s.takeCursor < 256) (hp : (s.slot s.takeCursor).state = .posted) :
    exec .takeStart s = .next s.startTake.finish := by
  show execTakeStart s = _
  rw [execTakeStart, act_next h, State.settleCursor_stays hc (State.inPosted_of_posted hp)]

/-- At a POSTED slot of a READY part with no own read under way, a take may start exactly with room for it. -/
theorem State.takeMayStart_eq (hr : s.ready = true) (ho : s.ownRead = none)
    (hp : (s.slot s.takeCursor).state = .posted) :
    s.takeMayStart = s.roomAllows (s.slot s.takeCursor).kind (s.slot s.takeCursor).mode := by
  rw [State.takeMayStart, hr, ho, decide_eq_true hp]
  rfl

end

/-! ## Room (R166) -/

theorem State.roomAllows_full {s : State} (h : 14 ≤ s.takenWhere fun _ => true) (kind mode : Nat) :
    s.roomAllows kind mode = false := by
  rw [State.roomAllows, takenCapacity, decide_eq_false (Nat.not_lt.2 h), Bool.false_and]

section
variable {s : State} {kind : Nat} (mode : Nat) (h : (s.takenWhere fun _ => true) < 14)
include h

/-- With fewer than 14 slots held TAKEN, what counts is the condition of the kind. -/
theorem State.roomAllows_of_taken : s.roomAllows kind mode =
    if kind = 1 ∨ kind = 2 then decide (s.targeted.length < 4)
    else if kind = 3 ∧ mode = 0 then
      decide (s.migrationQueue.length < 8) && decide ((s.takenWhere fun m => decide (m.kind = 3)) < 8)
    else if kind = 6 ∨ kind = 8 then decide ((s.takenWhere fun m => decide (m.kind = kind)) = 0)
    else true := by
  rw [State.roomAllows, takenCapacity, decide_eq_true h, Bool.true_and]
  rfl

theorem State.roomAllows_targeted (hk : kind = 1 ∨ kind = 2) :
    s.roomAllows kind mode = true ↔ s.targeted.length < 4 := by
  rw [State.roomAllows_of_taken mode h, if_pos hk, decide_eq_true_eq]

theorem State.roomAllows_single (hk : kind = 6 ∨ kind = 8) :
    s.roomAllows kind mode = true ↔ (s.takenWhere fun m => decide (m.kind = kind)) = 0 := by
  rw [State.roomAllows_of_taken mode h, if_neg (by omega), if_neg (by omega), if_pos hk, decide_eq_true_eq]

theorem State.roomAllows_migrate : s.roomAllows 3 0 = true ↔
    s.migrationQueue.length < 8 ∧ (s.takenWhere fun m => decide (m.kind = 3)) < 8 := by
  rw [State.roomAllows_of_taken 0 h, if_neg (by omega), if_pos ⟨rfl, rfl⟩, Bool.and_eq_true, decide_eq_true_eq,
    decide_eq_true_eq]

/-- The kinds and modes that need no room of their own. -/
theorem State.roomAllows_other (hk : kind = 3 ∧ mode ≠ 0 ∨ kind = 4 ∨ kind = 5 ∨ kind = 7) :
    s.roomAllows kind mode = true := by
  rw [State.roomAllows_of_taken mode h, if_neg (by omega), if_neg (by omega), if_neg (by omega)]

end

/-- Settles O23: the cursor's move is a first distance, a take's start is the room for it, and the room is that of the
order's kind. -/
theorem takeStartsAtCursor : Obligations.TakeStartsAtCursor := by
  refine ⟨fun s hc => ⟨State.settleCursor_stays hc, State.settleCursor_empty, fun k => State.settleCursor_next⟩,
    fun s h hr ho hc hp => ⟨fun room => ?_, fun full => ?_⟩,
    fun s mode => ⟨fun kind hfull => State.roomAllows_full hfull kind mode, fun h =>
      ⟨State.roomAllows_targeted mode h (.inl rfl), State.roomAllows_targeted mode h (.inr rfl),
        State.roomAllows_migrate h, fun hm => State.roomAllows_other mode h (.inl ⟨rfl, hm⟩),
        State.roomAllows_other mode h (.inr (.inl rfl)), State.roomAllows_other mode h (.inr (.inr (.inl rfl))),
        State.roomAllows_single mode h (.inl rfl), State.roomAllows_other mode h (.inr (.inr (.inr rfl))),
        State.roomAllows_single mode h (.inr rfl)⟩⟩⟩
  · have may : s.takeMayStart = true := (State.takeMayStart_eq hr ho hp).trans room
    rw [exec_takeStart h hc hp, State.startTake, if_pos may]
    rfl
  · have not_may : ¬ s.takeMayStart = true := Bool.eq_false_iff.1 ((State.takeMayStart_eq hr ho hp).trans full)
    rw [exec_takeStart h hc hp, State.startTake, if_neg not_may]

end Sys2Proof.Machine
end

section
/-! PROOFS. O31: the end of a take with its slot in hand, and the fields of the TAKEN and the DONE line. -/

namespace Sys2Proof.Machine

/-! ## Lines of the same fields (section 10.6) -/

/-- The order in which fields are joined to a line does not count. -/
theorem lineOfFields_congr {fs gs : List FieldValue} (h : ∀ f, f ∈ fs ↔ f ∈ gs) :
    lineOfFields fs = lineOfFields gs := by
  refine BitVec.eq_of_getLsbD_eq fun i _ => Bool.eq_iff_iff.2 ?_
  simp only [lineOfFields_getLsbD, List.any_eq_true, h]

/-- The fields of a TAKEN line, by their places. -/
def takenFields (l : Line) (now : PartTime) : List FieldValue :=
  [⟨0, 1, 2⟩, ⟨1, 1, slotKind l⟩, ⟨8, 6, now.toNat⟩, ⟨16, 16, lineField l 16 16⟩]

theorem takenLine_eq (l : Line) (now : PartTime) : takenLine l now = lineOfFields (takenFields l now) := by
  rw [takenLine, keepBytes_eq, keepBytes_eq, ← lineOfFields_append, ← lineOfFields_append]
  refine lineOfFields_congr fun f => ?_
  simp only [takenFields, byteField, timeField, slotKind, List.mem_append, List.mem_cons, List.not_mem_nil, or_false]
  tauto

theorem takenLine_holds (l : Line) (now : PartTime) : HoldsFields (takenLine l now) (takenFields l now) :=
  HoldsFields.of_eq (takenLine_eq l now) rfl rfl

/-- The fields that every DONE line has, by their places: the results stand after them. -/
def doneFields (l : Line) (now : PartTime) (o : OrderOutcome) (r : OrderReason) : List FieldValue :=
  [⟨0, 1, 3⟩, ⟨1, 1, slotKind l⟩, ⟨2, 1, o.code⟩, ⟨3, 1, r.code⟩, ⟨8, 6, now.toNat⟩, ⟨16, 16, lineField l 16 16⟩]

theorem doneLine_eq (l : Line) (now : PartTime) (o : OrderOutcome) (r : OrderReason) (results : List FieldValue) :
    doneLine l now o r results = lineOfFields (doneFields l now o r ++ results) := by
  rw [doneLine, keepBytes_eq, keepBytes_eq, ← lineOfFields_append, ← lineOfFields_append]
  refine lineOfFields_congr fun f => ?_
  simp only [doneFields, byteField, timeField, slotKind, List.mem_append, List.mem_cons, List.not_mem_nil, or_false]
  tauto

/-- The fields that every DONE line has lie apart and end where the results may begin. -/
theorem doneFields_ascending (l : Line) (now : PartTime) (o : OrderOutcome) (r : OrderReason) :
    (doneFields l now o r).Pairwise (fun f g => f.off + f.bytes ≤ g.off) ∧
      ∀ f ∈ doneFields l now o r, f.off + f.bytes ≤ 32 := by
  simp [doneFields]

/-- Results in ascending places of bytes 32 to 63 leave the fields of a DONE line apart. -/
theorem doneLine_holds (l : Line) (now : PartTime) (o : OrderOutcome) (r : OrderReason) {results : List FieldValue}
    (within : ∀ f ∈ results, 32 ≤ f.off ∧ f.off + f.bytes ≤ 64)
    (ascending : results.Pairwise fun f g => f.off + f.bytes ≤ g.off) :
    HoldsFields (doneLine l now o r results) (doneFields l now o r ++ results) := by
  obtain ⟨fixed, before⟩ := doneFields_ascending l now o r
  refine HoldsFields.of_eq (doneLine_eq l now o r results) rfl (fieldsApart_of_ascending _
    (List.pairwise_append.2 ⟨fixed, ascending, fun f hf g hg => (before f hf).trans (within g hg).1⟩) fun f hf => ?_)
  rcases List.mem_append.1 hf with hf | hf
  · exact (before f hf).trans (by decide)
  · exact (within f hf).2

/-! ## The end of a take (R164, R165) -/

theorem State.endTake_slot_same (s : State) {slot : Nat} (h : slot < 256) (l : Line) :
    (s.endTake slot l).slot slot =
      { state := .taken, kind := slotKind l, mode := slotMode l, taken := takenLine l s.time } :=
  s.slot_setSlot_same h _

theorem State.endTake_slot_other (s : State) {slot i : Nat} (h : i ≠ slot) (l : Line) :
    (s.endTake slot l).slot i = s.slot i := s.slot_setSlot_other h _

/-- Settles O31: the two lines are lists of fields in ascending places. -/
theorem takeEndHoldsTheOrder : Obligations.TakeEndHoldsTheOrder := by
  refine ⟨fun s slot l h => ⟨s.endTake_slot_same h l, fun i _ hne => s.endTake_slot_other hne l, rfl,
    takenLine_holds l s.time⟩, fun l now o r results within ascending => doneLine_holds l now o r within ascending,
    rfl, rfl⟩

end Sys2Proof.Machine
end

section
/-! PROOFS. O32: the takes that end before their dispatch. -/

namespace Sys2Proof.Machine

/-! ## The read of a take (R161, R165) -/

theorem State.takeRead_ended {s : State} {o : OwnRead} {slot : Nat} {line : Option Line} (ho : s.ownRead = some o)
    (hr : o.reader = .take slot) (hl : o.stage = .ended line) : s.takeRead = some (slot, line) := by
  simp only [State.takeRead, ho, hr, hl]

theorem State.TakeReads.takeRead {s : State} {slot : Nat} {l : Line} (h : s.TakeReads slot l) :
    s.takeRead = some (slot, some l) := by
  obtain ⟨o, ho, hr, hl⟩ := h
  exact State.takeRead_ended ho hr hl

theorem isOrderKind_iff (kind : Nat) : isOrderKind kind = true ↔ 1 ≤ kind ∧ kind ≤ 8 := by
  rw [isOrderKind, Bool.and_eq_true, decide_eq_true_eq, decide_eq_true_eq]

theorem State.freeTake_slot_free (s : State) {slot : Nat} (h : slot < 256) :
    ((s.freeTake slot).slot slot).state = .free :=
  congrArg SlotMirror.state (s.slot_setSlot_same h { s.slot slot with state := .free })

/-! ## The four ends (R165, steps 1 to 4) -/

section
variable {s : State} {slot : Nat} {l : Line} (h : s.handOff = none)
include h

theorem exec_takeUnusableLine (hread : s.takeRead = some (slot, none)) :
    exec .takeUnusableLine s = .next (s.freeTake slot).finish := by
  show execTakeUnusableLine s = _
  rw [execTakeUnusableLine, act_next h, hread]

variable (hread : s.takeRead = some (slot, some l))
include hread

theorem exec_takeNotPosted (hstate : slotStateField l ≠ 1) :
    exec .takeNotPosted s = .next (s.freeTake slot).finish := by
  show execTakeNotPosted s = _
  rw [execTakeNotPosted, act_next h, hread]
  dsimp only
  rw [if_pos hstate]

variable (hstate : slotStateField l = 1)
include hstate

theorem exec_takeUnknownKind (hkind : isOrderKind (slotKind l) = false) :
    exec .takeUnknownKind s = .next ((s.endTake slot l).refuse slot l .badKind).finish := by
  show execTakeUnknownKind s = _
  rw [execTakeUnknownKind, act_next h, hread]
  dsimp only
  rw [if_pos ⟨hstate, hkind⟩]

theorem exec_takeLackOfRoom (hkind : isOrderKind (slotKind l) = true)
    (hroom : s.roomAllows (slotKind l) (slotMode l) = false) :
    exec .takeLackOfRoom s = .next (s.returnTake slot l).finish := by
  show execTakeLackOfRoom s = _
  rw [execTakeLackOfRoom, act_next h, hread]
  dsimp only
  rw [if_pos ⟨hstate, hkind, hroom⟩]

end

/-- Settles O32: steps 1 and 2 free the slot, step 3 refuses its order, step 4 returns it to the posted set. -/
theorem undispatchedTakesEnd : Obligations.UndispatchedTakesEnd := by
  refine ⟨fun s o slot line h hslot ho hr hl => ⟨s.freeTake slot, rfl, s.freeTake_slot_free hslot, rfl, ?_, ?_⟩,
    fun s slot l h hslot hread hstate hkind => ?_, fun s slot l h hslot hread hstate hlow hhigh hroom => ?_⟩
  · rintro rfl
    exact exec_takeUnusableLine h (State.takeRead_ended ho hr hl)
  · rintro l rfl hstate
    exact exec_takeNotPosted h (State.takeRead_ended ho hr hl) hstate
  · refine exec_takeUnknownKind h hread.takeRead hstate (Bool.eq_false_iff.2 fun known => ?_)
    have := (isOrderKind_iff _).1 known
    omega
  · exact exec_takeLackOfRoom h hread.takeRead hstate ((isOrderKind_iff _).2 ⟨hlow, hhigh⟩) hroom

end Sys2Proof.Machine
end

section
/-! PROOFS. O41: QUIESCE and RESUME at their takes, and the end of a waiting QUIESCE. -/

namespace Sys2Proof.Machine

/-! ## A waiting QUIESCE (R169, R170) -/

theorem State.checkQuiesce_kept {s : State} (h : s.quiesceSlot = none ∨ s.noOpenLine = false) : s.checkQuiesce = s := by
  unfold State.checkQuiesce
  split
  · rfl
  · next waiting =>
    have open_line : ¬ s.noOpenLine = true :=
      h.elim (fun none => nomatch none.symm.trans waiting) Bool.eq_false_iff.1
    exact if_neg open_line

theorem State.checkQuiesce_done {s : State} {i : Nat} (h : s.quiesceSlot = some i) (hopen : s.noOpenLine = true) :
    s.checkQuiesce = State.requestDone { s with quiesceSlot := none } i
      (doneLine (s.slot i).taken s.time .ok .none []) := by
  unfold State.checkQuiesce
  rw [h]
  exact if_pos hopen

theorem State.abandonQuiesce_none {s : State} (h : s.quiesceSlot = none) : s.abandonQuiesce = s := by
  rw [State.abandonQuiesce, h]

theorem State.abandonQuiesce_some {s : State} {i : Nat} (h : s.quiesceSlot = some i) :
    s.abandonQuiesce = State.requestDone { s with quiesceSlot := none } i
      (doneLine (s.slot i).taken s.time .abandoned .none []) := by
  unfold State.abandonQuiesce
  rw [h]
  rfl

/-- A DONE write leaves part time. -/
theorem State.requestDone_time (s : State) (slot : Nat) (l : Line) : (s.requestDone slot l).time = s.time := by
  obtain ⟨q, w, j, m, e⟩ := s.requestDone_frame slot l
  rw [e]

/-! ## The takes (R169, R170) -/

section
variable {s : State} {slot : Nat} {l : Line}

theorem exec_quiesce (h : s.DispatchDue slot l 6) :
    exec .quiesce s = .next ((s.endTake slot l).takeQuiesce slot l).finish := by
  obtain ⟨-, -, -, -, hkind, -⟩ := id h
  exact onOrder_of_due h rfl (by simp [hkind]) State.takeQuiesce

theorem exec_resume (h : s.DispatchDue slot l 7) :
    exec .resume s = .next ((s.endTake slot l).takeResume slot l).finish := by
  obtain ⟨-, -, -, -, hkind, -⟩ := id h
  exact onOrder_of_due h rfl (by simp [hkind]) State.takeResume

theorem State.takeQuiesce_again (hq : s.quiesced = true) :
    s.takeQuiesce slot l = s.requestDone slot (doneLine l s.time .ok .none []) := if_pos hq

theorem State.takeQuiesce_at_once (hq : s.quiesced = false) (hopen : s.noOpenLine = true) :
    s.takeQuiesce slot l =
      State.requestDone { s with quiesced := true } slot (doneLine l s.time .ok .none []) := by
  rw [State.takeQuiesce, if_neg (Bool.eq_false_iff.1 hq), if_pos hopen]
  rfl

theorem State.takeQuiesce_waits (hq : s.quiesced = false) (hopen : s.noOpenLine = false) :
    s.takeQuiesce slot l = State.requestItem { s with quiesced := true, quiesceSlot := some slot }
      (.line (64 + slot) (takenLine l s.time)) := by
  rw [State.takeQuiesce, if_neg (Bool.eq_false_iff.1 hq), if_neg (Bool.eq_false_iff.1 hopen)]
  rfl

theorem State.takeResume_alone (h : s.quiesceSlot = none) : s.takeResume slot l =
    State.requestDone { s with quiesced := false } slot (doneLine l s.time .ok .none []) := by
  rw [State.takeResume, State.abandonQuiesce_none (s := { s with quiesced := false }) h]
  rfl

/-- The waiting QUIESCE is abandoned, and the RESUME is done after it. -/
theorem State.takeResume_abandons {q u : State} {i : Nat} (h : s.quiesceSlot = some i)
    (hq : q = { s with quiesced := false, quiesceSlot := none })
    (hu : u = q.requestDone i (doneLine (q.slot i).taken s.time .abandoned .none [])) :
    s.takeResume slot l = u.requestDone slot (doneLine l s.time .ok .none []) := by
  have abandoned : State.abandonQuiesce { s with quiesced := false } = u := by
    rw [State.abandonQuiesce_some (s := { s with quiesced := false }) h, hu, hq]
    rfl
  have time : u.time = s.time := by rw [hu, State.requestDone_time, hq]
  rw [State.takeResume, abandoned, State.finishSlot, time]

end

/-- Settles O41, by the flag and the open lines for a QUIESCE, and by whether one waits for a RESUME. -/
theorem quiesceAndResumeSetFlag : Obligations.QuiesceAndResumeSetFlag := by
  refine fun s slot l => ⟨State.checkQuiesce_kept, fun i => State.checkQuiesce_done, fun hdue hq => ?_,
    fun hdue hq hopen => ?_, fun hdue hq hopen => ?_, fun hdue hnone => ?_, fun q u i hdue hi hq hu => ?_⟩
  · rw [exec_quiesce hdue]
    exact next_finish_congr (State.takeQuiesce_again (s := s.endTake slot l) hq)
  · rw [exec_quiesce hdue]
    exact next_finish_congr (State.takeQuiesce_at_once (s := s.endTake slot l) hq hopen)
  · rw [exec_quiesce hdue]
    exact next_finish_congr (State.takeQuiesce_waits (s := s.endTake slot l) hq hopen)
  · rw [exec_resume hdue]
    exact next_finish_congr (State.takeResume_alone (s := s.endTake slot l) hnone)
  · rw [exec_resume hdue]
    exact next_finish_congr (State.takeResume_abandons (s := s.endTake slot l) hi hq hu)

end Sys2Proof.Machine
end

section
/-! PROOFS. O6: the slot scan of the restart. -/

namespace Sys2Proof.Machine

/-! ## The mirror from the line read (R173) -/

section
variable (s : State) (slot : Nat) {l : Line}

theorem State.scanSlot_unusable :
    s.scanSlot slot none = s.setSlot slot { s.slot slot with state := .free } := rfl

theorem State.scanSlot_posted (h : slotStateField l = 1) : s.scanSlot slot (some l) =
    s.setSlot slot { s.slot slot with state := .posted, kind := slotKind l, mode := slotMode l } := if_pos h

/-- A slot that the line says TAKEN is abandoned: its mirror is DONE, and its DONE write asks for a place. -/
theorem State.scanSlot_taken (h : slotStateField l = 2) : s.scanSlot slot (some l) =
    (s.setSlot slot { s.slot slot with state := .done, kind := slotKind l, mode := slotMode l }).requestDone slot
      (doneLine l s.time .abandoned (if s.retained.contains slot then .retained else .none) []) := by
  rw [State.scanSlot, if_neg (by omega), if_pos h]
  rfl

theorem State.scanSlot_done (h : slotStateField l = 3) : s.scanSlot slot (some l) =
    s.setSlot slot { s.slot slot with state := .done, kind := slotKind l, mode := slotMode l } := by
  rw [State.scanSlot, if_neg (by omega), if_neg (by omega), if_pos h]

theorem State.scanSlot_free (h : slotStateField l = 0 ∨ 3 < slotStateField l) : s.scanSlot slot (some l) =
    s.setSlot slot { s.slot slot with state := .free } := by
  rw [State.scanSlot, if_neg (by omega), if_neg (by omega), if_neg (by omega)]

end

/-! ## What the scan leaves (R173) -/

/-- `t` differs from `s` in one slot's mirror, the writer, the waiting blocks and the journal at most. -/
structure State.SettlesSlot (s : State) (slot : Nat) (t : State) : Prop where
  frame : t = { s with slots := t.slots, writer := t.writer, waiters := t.waiters, journal := t.journal }
  others : ∀ i, i ≠ slot → t.slot i = s.slot i

theorem State.SettlesSlot.trans {s t u : State} {slot : Nat} (h : s.SettlesSlot slot t) (h' : t.SettlesSlot slot u) :
    s.SettlesSlot slot u where
  frame := by
    rw [h'.frame, h.frame]
  others i hne := (h'.others i hne).trans (h.others i hne)

theorem State.setSlot_settles (s : State) (slot : Nat) (m : SlotMirror) : s.SettlesSlot slot (s.setSlot slot m) :=
  ⟨rfl, fun _ hne => s.slot_setSlot_other hne m⟩

theorem State.requestDone_settles (s : State) (slot : Nat) (l : Line) : s.SettlesSlot slot (s.requestDone slot l) := by
  cases hp : s.writerHasPlace with
  | true =>
    rw [State.requestDone_enters hp, State.enterDone_eq]
    exact ⟨rfl, fun _ hne => nth_put_other _ _ _ _ _ hne⟩
  | false =>
    rw [State.requestDone_waits hp]
    exact ⟨rfl, fun _ _ => rfl⟩

theorem State.scanSlot_settles (s : State) (slot : Nat) (line : Option Line) :
    s.SettlesSlot slot (s.scanSlot slot line) := by
  cases line with
  | none => exact s.setSlot_settles slot _
  | some l =>
    rcases (by omega : slotStateField l = 1 ∨ slotStateField l = 2 ∨ slotStateField l = 3 ∨
      (slotStateField l = 0 ∨ 3 < slotStateField l)) with h | h | h | h
    · rw [s.scanSlot_posted slot h]
      exact s.setSlot_settles slot _
    · rw [s.scanSlot_taken slot h]
      exact (s.setSlot_settles slot _).trans (State.requestDone_settles _ slot _)
    · rw [s.scanSlot_done slot h]
      exact s.setSlot_settles slot _
    · rw [s.scanSlot_free slot h]
      exact s.setSlot_settles slot _

/-- The mirror of a slot that is DONE already stays so, whether its DONE write enters or waits. -/
theorem State.requestDone_done {s : State} {slot : Nat} (hslot : slot < 256) (h : (s.slot slot).state = .done)
    (l : Line) : ((s.requestDone slot l).slot slot).state = .done := by
  cases hp : s.writerHasPlace with
  | true =>
    rw [State.requestDone_enters hp]
    exact s.enterDone_done hslot l
  | false =>
    rw [State.requestDone_waits hp]
    exact h

/-! ## The step (R173, step 1) -/

theorem State.beginRestartStep_after_slot (s : State) (slot : Nat) :
    s.beginRestartStep (RestartStep.slotScan slot).next =
      { s with phase := .restarting (RestartStep.slotScan slot).next,
               ownRead := some { reader := if slot + 1 < 256 then .scan (slot + 1) else .window 0,
                                 stage := .requested, readTime := s.time } } := by
  have next_eq : (RestartStep.slotScan slot).next =
      if slot + 1 < 256 then .slotScan (slot + 1) else .windowReread 0 := rfl
  rw [next_eq]
  split
  · rfl
  · rfl

theorem exec_restartSlotScanRead {s : State} {o : OwnRead} {slot : Nat} {line : Option Line} (h : s.handOff = none)
    (hp : s.phase = .restarting (.slotScan slot)) (ho : s.ownRead = some o) (hl : o.stage = .ended line) :
    exec .restartSlotScanRead s = .next (State.finish
      ((s.scanSlot slot line).beginRestartStep (RestartStep.slotScan slot).next)) := by
  show execRestartSlotScanRead s = _
  rw [execRestartSlotScanRead, act_next h]
  simp only [State.restartRead_ended hp ho hl]

/-- Settles O6, by the state field of the line read. -/
theorem restartScanSetsMirror : Obligations.RestartScanSetsMirror := by
  intro s o slot line h hslot hp ho hl
  refine ⟨_, exec_restartSlotScanRead h hp ho hl, ?_⟩
  obtain ⟨frame, others⟩ := s.scanSlot_settles slot line
  have time : (s.scanSlot slot line).time = s.time := by rw [frame]
  rw [State.beginRestartStep_after_slot, time]
  refine ⟨?unusable, ?posted, ?taken, ?done, ?free, fun i _ => others i, fun hmore => ?more, ?last, ?frame⟩
  case unusable =>
    rintro rfl
    exact ⟨congrArg SlotMirror.state (s.slot_setSlot_same hslot _), rfl⟩
  case posted =>
    rintro l rfl h1
    have mirror := s.slot_setSlot_same hslot
      { s.slot slot with state := .posted, kind := slotKind l, mode := slotMode l }
    rw [s.scanSlot_posted slot h1]
    exact ⟨congrArg SlotMirror.state mirror, congrArg SlotMirror.kind mirror, congrArg SlotMirror.mode mirror, rfl⟩
  case taken =>
    rintro l rfl h2
    rw [s.scanSlot_taken slot h2]
    refine ⟨State.requestDone_done hslot (congrArg SlotMirror.state (s.slot_setSlot_same hslot _)) _, _, rfl,
      fun place => ?_, fun full => ?_⟩
    · rw [State.requestDone_enters (s := s.setSlot slot _) place, State.enterDone_eq]
      exact ⟨rfl, rfl⟩
    · rw [State.requestDone_waits (s := s.setSlot slot _) full]
      exact ⟨rfl, rfl⟩
  case done =>
    rintro l rfl h3
    rw [s.scanSlot_done slot h3]
    exact ⟨congrArg SlotMirror.state (s.slot_setSlot_same hslot _), rfl⟩
  case free =>
    rintro l rfl h0
    rw [s.scanSlot_free slot h0]
    exact ⟨congrArg SlotMirror.state (s.slot_setSlot_same hslot _), rfl⟩
  case more =>
    have more : slot + 1 < 256 := by omega
    simp only [RestartStep.next, if_pos more, and_self]
  case last =>
    rintro rfl
    exact ⟨rfl, rfl⟩
  case frame =>
    rw [frame]

end Sys2Proof.Machine
end

section
/-! PROOFS. O30: the part's own reads, at their grant and at their decode's end. -/

namespace Sys2Proof.Machine

/-! ## The grant (R161, R165) -/

section
variable {s : State} {o : OwnRead}

theorem State.ownReadWaits_requested (ho : s.ownRead = some o) (hr : o.stage = .requested)
    (ht : s.windowTraffic = true) : s.ownReadWaits s.windowRank = true := by
  simp only [State.ownReadWaits, ht, ho, hr, decide_true, Bool.and_self]

theorem State.writerWaits_empty (h : s.writer = []) (port : Nat) : s.writerWaits port = false := by
  rw [State.writerWaits, h, List.isEmpty_nil, Bool.not_true, Bool.and_false]

theorem exec_ownReadGrant (h : s.handOff = none) (ho : s.ownRead = some o) (hr : o.stage = .requested)
    (ht : s.windowTraffic = true) (hw : s.writer = []) (hg : s.mayGrant s.windowRank 2 = true)
    (errors : List SliceError) : exec (.ownReadGrant errors) s = .next (s.grantOwnRead o errors).finish := by
  show execOwnReadGrant errors s = _
  rw [execOwnReadGrant, act_next h]
  simp only [ho]
  rw [if_pos ⟨State.ownReadWaits_requested ho hr ht, State.writerWaits_empty hw _, hg⟩]

end

/-- The grant reads the line with the background budget, and holds the slot of a take TAKEN. -/
theorem State.grantOwnRead_eq (s : State) (o : OwnRead) (errors : List SliceError) :
    s.grantOwnRead o errors =
      { s with cells := (s.applyErrorsHost (s.base + o.reader.offset) errors).cells,
               ownRead := some { o with
                 stage := .decoding ((s.applyErrorsHost (s.base + o.reader.offset) errors).decodeHost
                   (s.base + o.reader.offset) s.policy.backgroundBudget) false,
                 readTime := s.time },
               slots := match o.reader with
                 | .take slot => put s.slots slot { s.slot slot with state := .taken }
                 | .scan _ | .window _ | .mark => s.slots } := by
  obtain ⟨cells, faulted⟩ := s.applyErrorsHost_frame (s.base + o.reader.offset) errors
  unfold State.grantOwnRead
  rw [faulted]
  unfold State.holdTaken
  cases o.reader with
  | take slot => rfl
  | scan slot => rfl
  | window record => rfl
  | mark => rfl

/-! ## The decode's end (R161) -/

theorem exec_ownReadDecodeEnd {s : State} {o : OwnRead} (h : s.handOff = none) (ho : s.ownRead = some o) {d : Decode}
    {stale : Bool} (hd : o.stage = .decoding d stale) :
    exec .ownReadDecodeEnd s = .next (s.endOwnRead o d stale).finish := by
  show execOwnReadDecodeEnd s = _
  rw [execOwnReadDecodeEnd, act_next h]
  simp only [ho, hd]

/-- Settles O30: the grant holds a take's slot, and the end gives the line to its reader before it is reported. -/
theorem ownReadServesItsReader : Obligations.OwnReadServesItsReader := by
  refine fun s o h ho => ⟨fun errors hr ht hw hg => ⟨_, rfl, ?_⟩, fun d stale hd => ⟨_, ?_, rfl⟩⟩
  · exact (exec_ownReadGrant h ho hr ht hw hg errors).trans (next_finish_congr (s.grantOwnRead_eq o errors))
  · exact exec_ownReadDecodeEnd h ho hd

end Sys2Proof.Machine
end

section
/-! PROOFS. O52: the fields of a journal line, the room of a kind, and what becomes of a record handed to the Journal. -/

namespace Sys2Proof.Machine

/-! ## The fields of a journal line (R175, section 10.6) -/

/-- The fields that every journal line has, by their places: the kind data stand after them. -/
def journalFields (r : JournalRecord) (sequence : Count32) : List FieldValue :=
  [⟨0, 4, sequence.toNat⟩, ⟨4, 6, r.time.toNat⟩, ⟨10, 1, r.kind.code⟩, ⟨11, 1, r.source.code⟩,
    ⟨12, 4, r.host.getD 4294967295⟩, ⟨16, 1, r.rank⟩, ⟨17, 1, if r.erasure then 1 else 0⟩,
    ⟨20, 1, (r.devices[0]?).getD 255⟩, ⟨21, 1, (r.devices[1]?).getD 255⟩, ⟨22, 1, r.tried⟩, ⟨24, 4, r.row⟩]

theorem journalLine_eq (r : JournalRecord) (sequence : Count32) :
    journalLine r sequence = lineOfFields (journalFields r sequence ++ r.kind.fields) := rfl

/-- The fields that every journal line has lie apart and end where the kind data may begin. -/
theorem journalFields_ascending (r : JournalRecord) (sequence : Count32) :
    (journalFields r sequence).Pairwise (fun f g => f.off + f.bytes ≤ g.off) ∧
      ∀ f ∈ journalFields r sequence, f.off + f.bytes ≤ 32 := by
  simp [journalFields]

theorem RecordKind.fields_ascending (k : RecordKind) : k.fields.Pairwise fun f g => f.off + f.bytes ≤ g.off := by
  cases k <;> simp [RecordKind.fields, byteField, timeField]

theorem RecordKind.fields_within (k : RecordKind) : ∀ f ∈ k.fields, 32 ≤ f.off ∧ f.off + f.bytes ≤ 64 := by
  cases k <;> simp [RecordKind.fields, byteField, timeField]

theorem journalLine_holds (r : JournalRecord) (sequence : Count32) :
    HoldsFields (journalLine r sequence) (journalFields r sequence ++ r.kind.fields) := by
  obtain ⟨ascending, before⟩ := journalFields_ascending r sequence
  refine HoldsFields.of_eq (journalLine_eq r sequence) rfl (fieldsApart_of_ascending _
    (List.pairwise_append.2 ⟨ascending, r.kind.fields_ascending, fun f hf g hg =>
      (before f hf).trans (r.kind.fields_within g hg).1⟩) fun f hf => ?_)
  rcases List.mem_append.1 hf with hf | hf
  · exact (before f hf).trans (by decide)
  · exact (r.kind.fields_within f hf).2

/-! ## The room of a kind (R175) -/

theorem RecordKind.isCorrectedKind_iff (k : RecordKind) :
    k.isCorrectedKind = true ↔ k = .corrected ∨ k = .deepCorrected := by
  cases k <;> simp [RecordKind.isCorrectedKind]

theorem State.roomFor_corrected (s : State) {k : RecordKind} (h : k.isCorrectedKind = true) :
    s.roomFor k = true ↔ 32 < s.journalFree := by
  rw [State.roomFor, if_pos h, decide_eq_true_eq]

theorem State.roomFor_priority (s : State) {k : RecordKind} (h : ¬ k.isCorrectedKind = true) :
    s.roomFor k = true ↔ 0 < s.journalFree := by
  rw [State.roomFor, if_neg h, decide_eq_true_eq]

theorem State.not_roomFor_of_full {s : State} (h : s.journalFree = 0) (k : RecordKind) : ¬ s.roomFor k = true :=
  fun room => (State.journalFree_pos_of_room room).ne' h

/-! ## The ways of a record (R175, R176) -/

section
variable {s : State} (r : JournalRecord)

theorem State.stage_full (h : 16 ≤ s.journal.staging.length) : s.stage r = s.countHeld :=
  if_neg (Nat.not_lt.2 h)

/-- A record keeps its place behind those that wait. -/
theorem State.handRecord_behind (h : s.journal.staging ≠ []) : s.handRecord r = s.stage r := if_pos h

variable {r} (empty : s.journal.staging = [])
include empty

theorem State.handRecord_published (place : s.writerHasPlace = true) (room : s.roomFor r.kind = true) :
    s.handRecord r = s.publish r := by
  rw [State.handRecord, if_neg (not_not.2 empty), if_pos (Bool.and_eq_true_iff.2 ⟨place, room⟩)]

theorem State.handRecord_withheld (corrected : r.kind.isCorrectedKind = true) (low : s.journalFree ≤ 32) :
    s.handRecord r = s.countHeld := by
  have noRoom : ¬ s.roomFor r.kind = true := fun room => Nat.not_lt.2 low ((s.roomFor_corrected corrected).1 room)
  rw [State.handRecord, if_neg (not_not.2 empty), if_neg fun both => noRoom (Bool.and_eq_true_iff.1 both).2,
    if_pos (Bool.and_eq_true_iff.2 ⟨corrected, decide_eq_true low⟩)]

/-- Without a place, or without any free place of the journal, a record that is not withheld is the first to be staged. -/
theorem State.handRecord_first (must : s.writerHasPlace = false ∨ s.journalFree = 0)
    (kept : r.kind.isCorrectedKind = false ∨ 32 < s.journalFree) : s.handRecord r = s.stage r := by
  have unpublished : ¬ (s.writerHasPlace && s.roomFor r.kind) = true := fun both => by
    obtain ⟨place, room⟩ := Bool.and_eq_true_iff.1 both
    rcases must with none | full
    · exact Bool.false_ne_true (none.symm.trans place)
    · exact State.not_roomFor_of_full full _ room
  have unwithheld : ¬ (r.kind.isCorrectedKind && decide (s.journalFree ≤ 32)) = true := fun both => by
    obtain ⟨corrected, low⟩ := Bool.and_eq_true_iff.1 both
    rcases kept with priority | free
    · exact Bool.false_ne_true (priority.symm.trans corrected)
    · exact Nat.not_lt.2 (of_decide_eq_true low) free
  rw [State.handRecord, if_neg (not_not.2 empty), if_neg unpublished, if_neg unwithheld]

end

/-- Settles O52: the line by the places of its fields, the record by the branch of `handRecord` that its conditions
select. -/
theorem recordIsPublishedStagedOrHeld : Obligations.RecordIsPublishedStagedOrHeld := by
  refine ⟨fun r sequence => ⟨r.kind.code, r.kind.fields, journalLine_holds r sequence, ?kindData⟩, rfl, rfl,
    fun s k => ⟨k.isCorrectedKind_iff, fun h => s.roomFor_corrected (k.isCorrectedKind_iff.2 h), fun h1 h2 =>
      s.roomFor_priority fun h => (k.isCorrectedKind_iff.1 h).elim h1 h2, rfl⟩,
    fun s r => ⟨fun empty place room => ?published, State.handRecord_withheld, fun empty must kept => ?first,
      fun waiting room => ?behind, fun full => ?held, ?frame⟩⟩
  case kindData => cases r.kind <;> exact ⟨rfl, rfl⟩
  case published =>
    obtain ⟨w, causes, coalesce, holdoff, armed, e, counted, raised, roomRaised⟩ := s.publish_eq r
    rw [State.handRecord_published empty place room, e]
    refine ⟨rfl, rfl, empty, rfl, fun below => ?_, raised, roomRaised⟩
    obtain ⟨hcoalesce, hholdoff⟩ := counted below
    exact ⟨hcoalesce, fun h0 => hholdoff.trans (if_pos h0), fun h0 => hholdoff.trans (if_neg h0)⟩
  case first =>
    obtain ⟨w, e⟩ := s.stage_eq r (by simp [empty, stagingCapacity])
    rw [State.handRecord_first empty must kept, e, empty]
    exact ⟨rfl, rfl, rfl⟩
  case behind =>
    obtain ⟨w, e⟩ := s.stage_eq r room
    rw [State.handRecord_behind r waiting, e]
    exact ⟨rfl, rfl, rfl⟩
  case held =>
    have waiting : s.journal.staging ≠ [] := List.ne_nil_of_length_pos (Nat.lt_of_lt_of_le (by decide) full)
    exact (State.handRecord_behind r waiting).trans (State.stage_full r full)
  case frame =>
    obtain ⟨q, w, j, c, e⟩ := s.handRecord_frame r
    rw [e]

end Sys2Proof.Machine
end

section
/-! PROOFS. The canonical form of the memories: the relation that every step keeps, and the operations
of the array, which alone store bytes. -/

namespace Sys2Proof.Machine

/-! ## The relation that every step keeps -/

/-- `t` has canonical memories when `s` has. -/
def State.KeepsMemories (s t : State) : Prop := s.MemoriesCanonical → t.MemoriesCanonical

theorem State.KeepsMemories.refl (s : State) : s.KeepsMemories s := id

/-- The last operation first, so that it tells the state it starts from. -/
theorem State.KeepsMemories.after {s t u : State} (h' : t.KeepsMemories u) (h : s.KeepsMemories t) :
    s.KeepsMemories u := h' ∘ h

/-- The three memories of the array. -/
def State.memories (s : State) : Memory × Memory × Memory := (s.cells, s.written, s.poisoned)

/-- What leaves the array as it is keeps its form. -/
theorem State.KeepsMemories.of_sameArray {s t : State} (h : s.SameArray t) : s.KeepsMemories t := by
  obtain ⟨hcells, hwritten, hpoisoned⟩ := h
  unfold State.KeepsMemories State.MemoriesCanonical
  rw [hcells, hwritten, hpoisoned]
  exact id

theorem State.sameArray_iff (s t : State) : s.SameArray t ↔ t.memories = s.memories := by
  simp only [State.SameArray, State.memories, Prod.mk.injEq]

theorem State.KeepsMemories.of_same {s t : State} (h : t.memories = s.memories) : s.KeepsMemories t :=
  .of_sameArray ((s.sameArray_iff t).2 h)

theorem State.KeepsMemories.then_same {s t u : State} (h : s.KeepsMemories t) (e : u.memories = t.memories) :
    s.KeepsMemories u := .after (.of_same e) h

/-- A frame that names none of the three memories. -/
theorem State.KeepsMemories.of_frame {s t u : State} (h : t = u) (e : u.memories = s.memories) : s.KeepsMemories t :=
  .of_same (h ▸ e)

/-- An effect under its condition. -/
theorem State.KeepsMemories.when {c : Prop} [Decidable c] {s t : State} (h : c → s.KeepsMemories t) :
    s.KeepsMemories (if c then t else s) := by
  split
  · next hc => exact h hc
  · exact .refl s

theorem State.foldl_keepsMemories {α : Type} {f : State → α → State}
    (hf : ∀ (u : State) (x : α), u.KeepsMemories (f u x)) (l : List α) (s : State) :
    s.KeepsMemories (l.foldl f s) := by
  induction l generalizing s with
  | nil => exact .refl s
  | cons x l ih => exact .after (ih _) (hf s x)

/-! ## The setters -/

theorem State.setRankDevices_keepsMemories (s : State) (rank : Nat) (r : RankDevices) :
    s.KeepsMemories (s.setRankDevices rank r) := .of_same rfl

theorem State.changeOrder_keepsMemories (s : State) (slot : Nat) (f : TargetedOrder → TargetedOrder) :
    s.KeepsMemories (s.changeOrder slot f) := .of_same rfl

theorem State.changeRemap_keepsMemories (s : State) (rank row : Nat) (f : RemapEntry → RemapEntry) :
    s.KeepsMemories (s.changeRemap rank row f) := .of_same rfl

theorem State.closeOthersOn_keepsMemories (s : State) (rank row column : Nat) :
    s.KeepsMemories (s.closeOthersOn rank row column) := .of_same rfl

theorem State.leaveOnAll_keepsMemories (s : State) (rank row column : Nat) (c : Content) :
    s.KeepsMemories (s.leaveOnAll rank row column c) := .of_same rfl

theorem State.dropWriteBack_keepsMemories (s : State) (host : Nat) : s.KeepsMemories (s.dropWriteBack host) :=
  .of_same rfl

theorem State.reply_keepsMemories (s : State) (r : Reply) : s.KeepsMemories (s.reply r) := .of_same rfl

/-! ## The operations that store bytes -/

theorem State.storeSlice_keepsMemories (s : State) (rank index device : Nat) (v : Slice) :
    s.KeepsMemories (s.storeSlice rank index device v) := fun ⟨hcells, hwritten, hpoisoned⟩ =>
  ⟨Memory.wf_writeBytes _ _ _ hcells, hwritten, hpoisoned⟩

theorem State.writeLine_keepsMemories (s : State) (rank row column : Nat) (c : Content) :
    s.KeepsMemories (s.writeLine rank row column c) := s.writeLine_canonical rank row column c

/-- The faults of the devices reach the slices one by one (log 4). -/
theorem State.applyErrors_keepsMemories (s : State) (rank row column : Nat) (errors : List SliceError) :
    s.KeepsMemories (s.applyErrors rank row column errors) :=
  State.foldl_keepsMemories (fun u _ => u.storeSlice_keepsMemories _ _ _ _) _ s

theorem State.applyErrorsHost_keepsMemories (s : State) (host : Nat) (errors : List SliceError) :
    s.KeepsMemories (s.applyErrorsHost host errors) := s.applyErrors_keepsMemories _ _ _ errors

/-- An initialisation write is a line write and the slice of device 19 (R20). -/
theorem State.initLine_keepsMemories (s : State) (rank : Nat) : s.KeepsMemories (s.initLine rank) := by
  have stored := State.KeepsMemories.after (State.storeSlice_keepsMemories _ rank (s.initWritten rank) 19 0)
    (s.writeLine_keepsMemories rank (s.initWritten rank / Config.columns) (s.initWritten rank % Config.columns)
      (validContent 0))
  simp only [State.initLine]
  generalize State.storeSlice _ rank (s.initWritten rank) 19 0 = u at stored ⊢
  exact .then_same stored rfl

/-- At the copy column of a migration the spare line is written too (R136). -/
theorem State.hostLineWrites_keepsMemories (s : State) (host : Nat) (c : Content) :
    s.KeepsMemories (s.hostLineWrites host c) := by
  have served := s.writeLine_keepsMemories (rankOf host) (s.servingRow (rankOf host) (rowOf host) (columnOf host))
    (columnOf host) c
  simp only [State.hostLineWrites]
  split
  · split
    · exact served
    · exact .after (State.closeOthersOn_keepsMemories _ _ _ _) (.after (State.writeLine_keepsMemories _ _ _ _ c) served)
  · exact served

theorem State.hostWrite_keepsMemories (s : State) (host : Nat) (c : Content) : s.KeepsMemories (s.hostWrite host c) :=
  .after (.of_sameArray (s.hostWrite_sameArray host c)) (s.hostLineWrites_keepsMemories host c)

/-- A write and its acknowledgement. -/
theorem State.hostWrite_reply_keepsMemories (s : State) (host : Nat) (c : Content) (r : Reply) :
    s.KeepsMemories ((s.hostWrite host c).reply r) :=
  .after (State.reply_keepsMemories _ r) (s.hostWrite_keepsMemories host c)

theorem State.writeBackNow_keepsMemories (s : State) (e : WriteBack) : s.KeepsMemories (s.writeBackNow e) :=
  .after (State.leaveOnAll_keepsMemories _ _ _ _ _)
    (.after (State.writeLine_keepsMemories _ _ _ _ _) (s.dropWriteBack_keepsMemories e.host))

theorem State.visitWrite_keepsMemories (s : State) (op : OpenLine) (c : Content) :
    s.KeepsMemories (s.visitWrite op c) := .when fun _ => .then_same (s.writeLine_keepsMemories _ _ _ _) rfl

theorem State.copyWrite_keepsMemories (s : State) (e : RemapEntry) (op : OpenLine) (c : Content) :
    s.KeepsMemories (s.copyWrite e op c) := by
  unfold State.copyWrite
  split
  · exact .after (State.closeOthersOn_keepsMemories _ _ _ _) (s.writeLine_keepsMemories _ _ _ _)
  · exact .of_same rfl

theorem State.rebuildWrite_keepsMemories (s : State) (op : OpenLine) (c : Content) :
    s.KeepsMemories (s.rebuildWrite op c) := by
  unfold State.rebuildWrite
  split
  · exact s.writeLine_keepsMemories _ _ _ _
  · exact s.setRankDevices_keepsMemories _ _

end Sys2Proof.Machine
end

section
/-! PROOFS. The canonical form of the memories, continued: the shared operations, whose frames name none of
the memories, and what the commands are made of. -/

namespace Sys2Proof.Machine

/-! ## The shared operations -/

theorem State.setCauses_keepsMemories (s : State) (c : CauseSet) : s.KeepsMemories (s.setCauses c) := by
  obtain ⟨j, w, h⟩ := s.setCauses_frame c
  exact .of_frame h rfl

theorem State.requestItem_keepsMemories (s : State) (i : WriterItem) : s.KeepsMemories (s.requestItem i) := by
  obtain ⟨q, w, h⟩ := s.requestItem_frame i
  exact .of_frame h rfl

theorem State.requestDone_keepsMemories (s : State) (slot : Nat) (l : Line) :
    s.KeepsMemories (s.requestDone slot l) := by
  obtain ⟨q, w, j, m, h⟩ := s.requestDone_frame slot l
  exact .of_frame h rfl

theorem State.handRecord_keepsMemories (s : State) (r : JournalRecord) : s.KeepsMemories (s.handRecord r) := by
  obtain ⟨q, w, j, c, h⟩ := s.handRecord_frame r
  exact .of_frame h rfl

theorem State.stagingDeparts_keepsMemories (s : State) : s.KeepsMemories s.stagingDeparts := by
  obtain ⟨q, w, j, c, h⟩ := s.stagingDeparts_frame
  exact .of_frame h rfl

theorem State.checkCoalesce_keepsMemories (s : State) : s.KeepsMemories s.checkCoalesce := by
  obtain ⟨j, w, h⟩ := s.checkCoalesce_frame
  exact .of_frame h rfl

theorem State.askStatus_keepsMemories (s : State) : s.KeepsMemories s.askStatus := by
  obtain ⟨w, h⟩ := s.askStatus_frame
  exact .of_frame h rfl

theorem State.review_keepsMemories (s : State) : s.KeepsMemories s.review := by
  obtain ⟨p, h⟩ := s.review_frame
  exact .of_frame h rfl

theorem State.askReview_keepsMemories (s : State) : s.KeepsMemories s.askReview := by
  obtain ⟨p, h⟩ := s.askReview_frame
  exact .of_frame h rfl

theorem State.checkQuiesce_keepsMemories (s : State) : s.KeepsMemories s.checkQuiesce := by
  obtain ⟨z, q, w, j, m, h⟩ := s.checkQuiesce_frame
  exact .of_frame h rfl

theorem State.startMigration_keepsMemories (s : State) : s.KeepsMemories s.startMigration := by
  obtain ⟨q, m, sp, r, h⟩ := s.startMigration_frame
  exact .of_frame h rfl

theorem State.settle_keepsMemories (s : State) : s.KeepsMemories s.settle := by
  obtain ⟨f, m, c, o, v, q, w, p, j, h⟩ := s.settle_frame
  exact .of_frame h rfl

theorem State.examineDevices_keepsMemories (s : State) (rank : Nat) (which : Nat → Bool) (again : Bool) :
    s.KeepsMemories (s.examineDevices rank which again) := by
  obtain ⟨d, t, f, q, w, j, c, h⟩ := s.examineDevices_frame rank which again
  exact .of_frame h rfl

theorem State.examineAll_keepsMemories (s : State) : s.KeepsMemories s.examineAll :=
  .after (State.foldl_keepsMemories (fun u r => u.examineDevices_keepsMemories r _ _) _ _)
    (.of_frame s.clearAllSuspects_only rfl)

/-! ## The demand path -/

theorem State.report_keepsMemories (s : State) (d : Decode) (src : Source) (t : PartTime) :
    s.KeepsMemories (s.report d src t) := .of_sameArray (s.report_sameArray d src t)

theorem State.reportLoss_keepsMemories (s : State) (loss : Option MergeLoss) : s.KeepsMemories (s.reportLoss loss) := by
  obtain ⟨d, b, f, a, m, sp, r, q, w, j, c, l, h⟩ := s.reportLoss_frame loss
  exact .of_frame h rfl

theorem State.requestUnlessStale_keepsMemories (s : State) (stale : Bool) (host : Nat) (r : DecodeResult) :
    s.KeepsMemories (s.requestUnlessStale stale host r) := by
  obtain ⟨b, c, h⟩ := s.requestUnlessStale_frame stale host r
  exact .of_frame h rfl

theorem State.handOver_keepsMemories (s : State) (host : Nat) (l : Line) : s.KeepsMemories (s.handOver host l) :=
  .when fun _ => .of_same rfl

theorem State.freePort_keepsMemories (s : State) (port : Nat) : s.KeepsMemories (s.freePort port) := by
  obtain ⟨p, a, r, y, q, w, j, c, h⟩ := s.freePort_frame port
  exact .of_frame h rfl

theorem State.serveAbove_keepsMemories (s : State) (kind : AccessKind) (address : Nat) :
    s.KeepsMemories (s.serveAbove kind address) := by
  cases kind with
  | read => exact .of_same rfl
  | fullLineWrite => exact .refl s
  | maskedWrite => exact .refl s

theorem State.arrive_keepsMemories (s : State) (kind : AccessKind) (address : Nat) (a : ServerAccess) :
    s.KeepsMemories (s.arrive kind address a) := by
  unfold State.arrive
  split
  · exact .refl s
  · split
    · exact s.serveAbove_keepsMemories kind address
    · obtain ⟨p, b, r, y, q, w, j, c, h⟩ := s.accept_frame a
      exact .of_frame h rfl

theorem State.endServerRead_keepsMemories (s : State) (x : ServerRead) : s.KeepsMemories (s.endServerRead x) :=
  .after (State.report_keepsMemories _ _ _ _) (.after (State.requestUnlessStale_keepsMemories _ _ _ _) (.of_same rfl))

theorem State.endMerge_keepsMemories (s : State) (port host : Nat) (data : Line) (mask : ByteMask) (d : Decode)
    (orphan : Bool) : s.KeepsMemories (s.endMerge port host data mask d orphan) := by
  unfold State.endMerge
  split
  · exact .then_same (s.report_keepsMemories d .merge s.time) rfl
  · exact .of_same rfl

/-- A write that a server is acknowledged for, handed over to the Order Unit, with its port freed (R44, R47, R51). -/
theorem State.servedWrite_keepsMemories (s : State) (port host : Nat) (c : Content) (l : Line) :
    s.KeepsMemories ((((s.hostWrite host c).reply (.ack host)).handOver host l).freePort port) :=
  .after (State.freePort_keepsMemories _ _)
    (.after (State.handOver_keepsMemories _ _ _) (s.hostWrite_reply_keepsMemories _ _ _))

theorem State.writeHalf_keepsMemories (s : State) (port host : Nat) (c : Content) (loss : Option MergeLoss) :
    s.KeepsMemories (s.writeHalf port host c loss) := by
  have reported := State.KeepsMemories.after (State.reportLoss_keepsMemories _ loss)
    (s.hostWrite_reply_keepsMemories host c (.ack host))
  unfold State.writeHalf
  refine .after (State.freePort_keepsMemories _ port) ?_
  split
  · exact reported
  · exact .after (State.handOver_keepsMemories _ _ _) reported

theorem State.writeOrphanHalf_keepsMemories (s : State) (port host : Nat) (c : Content) (loss : Option MergeLoss) :
    s.KeepsMemories (s.writeOrphanHalf port host c loss) :=
  .after (State.freePort_keepsMemories _ _)
    (.after (State.reportLoss_keepsMemories _ _) (s.hostWrite_keepsMemories host c))

theorem State.writeFromEntry_keepsMemories (s : State) (port host : Nat) (data : Line) (mask : ByteMask) :
    s.KeepsMemories (s.writeFromEntry port host data mask) := by
  unfold State.writeFromEntry
  split
  · exact .of_same rfl
  · split
    · exact s.servedWrite_keepsMemories _ _ _ _
    · have absorbed := State.KeepsMemories.after (State.handRecord_keepsMemories _ (s.absorbRecord host))
        (s.hostWrite_keepsMemories host poisonContent)
      exact .after (State.freePort_keepsMemories _ _) (.after (State.reply_keepsMemories _ _) absorbed)

/-! ## Resets, restart and the control window -/

/-- The part at power-on has three empty memories. -/
theorem State.powerOn_keepsMemories (s : State) (ranks base : Nat) (time : PartTime) (pending : List Instr) :
    s.KeepsMemories { State.powerOn ranks base with time := time, pending := pending } := fun _ => ⟨rfl, rfl, rfl⟩

theorem State.enterStatus_keepsMemories (s : State) : s.KeepsMemories s.enterStatus := by
  rw [s.enterStatus_eq]
  exact .of_same rfl

theorem State.openPort_keepsMemories (s : State) : s.KeepsMemories s.openPort := by
  have identified : s.KeepsMemories (State.enterIdentity
      { s with writer := [], phase := .running, nextInterval := some (nextPaceBoundary s.time) }) := .of_same rfl
  exact .after (State.review_keepsMemories _) (.then_same (.after (State.enterStatus_keepsMemories _) identified) rfl)

theorem State.beginRestartStep_keepsMemories (s : State) (step : RestartStep) :
    s.KeepsMemories (s.beginRestartStep step) := by
  cases step <;> exact .of_same rfl

theorem State.scanSlot_keepsMemories (s : State) (slot : Nat) (line : Option Line) :
    s.KeepsMemories (s.scanSlot slot line) := by
  unfold State.scanSlot
  split
  · exact .of_same rfl
  · split
    · exact .of_same rfl
    · split
      · exact .after (State.requestDone_keepsMemories _ _ _) (.of_same rfl)
      · split <;> exact .of_same rfl

theorem State.rereadWindow_keepsMemories (s : State) (record : Nat) (line : Option Line) (now : PartTime) :
    s.KeepsMemories (s.rereadWindow record line now) := by
  obtain ⟨w, q, u, h⟩ := s.rereadWindow_frame record now line
  exact .of_frame h rfl

theorem State.rereadMark_keepsMemories (s : State) (line : Option Line) : s.KeepsMemories (s.rereadMark line) := by
  obtain ⟨w, h⟩ := s.rereadMark_frame line
  exact .of_frame h rfl

theorem State.markLate_keepsMemories (s : State) : s.KeepsMemories s.markLate :=
  .after (State.handRecord_keepsMemories _ _) (.of_same rfl)

theorem State.admitIdentity_keepsMemories (s : State) : s.KeepsMemories s.admitIdentity := by
  have entered : s.KeepsMemories (State.settleCursor
      { (s.stopAwaiting .identity).enterIdentity with phase := .running, retained := [], writeBacks := [] }) :=
    .of_same rfl
  refine .when fun _ => .after (State.askStatus_keepsMemories _) (.after (State.review_keepsMemories _) ?_)
  split
  · exact .after (State.markLate_keepsMemories _) entered
  · exact entered

theorem State.admitStatus_keepsMemories (s : State) : s.KeepsMemories s.admitStatus :=
  .when fun _ => .after (State.enterStatus_keepsMemories _) (.of_same rfl)

theorem State.stopAwaiting_keepsMemories (s : State) (w : Waiter) : s.KeepsMemories (s.stopAwaiting w) := .of_same rfl

theorem State.enterWriter_keepsMemories (s : State) (i : WriterItem) : s.KeepsMemories (s.enterWriter i) := .of_same rfl

theorem State.await_keepsMemories (s : State) (w : Waiter) : s.KeepsMemories (s.await w) := .of_same rfl

/-- What is left of the snapshot changes as its lines enter (R171). -/
theorem State.withExportJob_keepsMemories (s : State) (j : Option ExportJob) :
    s.KeepsMemories { s with exportJob := j } := .of_same rfl

theorem State.admitExportLine_keepsMemories (s : State) : s.KeepsMemories s.admitExportLine := by
  have freed := s.stopAwaiting_keepsMemories .exportLine
  have entered := fun i => State.KeepsMemories.after (State.enterWriter_keepsMemories _ i) freed
  refine .when fun _ => ?_
  split
  · exact freed
  · split
    · exact .after (State.requestDone_keepsMemories _ _ _) (.after (State.withExportJob_keepsMemories _ _) freed)
    · simp only
      split
      · exact .after (State.requestDone_keepsMemories _ _ _)
          (.after (State.withExportJob_keepsMemories _ _) (entered _))
      · exact .after (State.await_keepsMemories _ _) (.after (State.withExportJob_keepsMemories _ _) (entered _))

theorem State.admitOldest_keepsMemories (s : State) : s.KeepsMemories s.admitOldest := by
  unfold State.admitOldest
  split
  · exact .refl s
  · exact .when fun _ => .of_same rfl
  · next slot l rest _ =>
    obtain ⟨q, w, j, m, h⟩ := State.enterDone_frame { s with waiters := rest } slot l
    exact .when fun _ => .of_frame h rfl
  · exact s.stagingDeparts_keepsMemories
  · exact s.admitExportLine_keepsMemories
  · exact s.admitStatus_keepsMemories
  · exact s.admitIdentity_keepsMemories

theorem State.grantOwnRead_keepsMemories (s : State) (o : OwnRead) (errors : List SliceError) :
    s.KeepsMemories (s.grantOwnRead o errors) := by
  refine .after ?_ (s.applyErrorsHost_keepsMemories (s.base + o.reader.offset) errors)
  unfold State.grantOwnRead State.holdTaken
  cases o.reader <;> exact .of_same rfl

theorem State.endOwnRead_keepsMemories (s : State) (o : OwnRead) (d : Decode) (stale : Bool) :
    s.KeepsMemories (s.endOwnRead o d stale) :=
  .after (State.report_keepsMemories _ _ _ _) (.after (State.requestUnlessStale_keepsMemories _ _ _ _) (.of_same rfl))

/-! ## The windows, the hand-offs and the Pacer -/

theorem State.actOnSlot_keepsMemories (s : State) (h : HandOff) : s.KeepsMemories (s.actOnSlot h) := by
  unfold State.actOnSlot
  split
  · next slot _ =>
    obtain ⟨m, c, o, e⟩ := State.slotHandOff_frame { s with handOff := none } slot h.line
    exact .of_frame e rfl
  · exact .refl s

theorem State.actOnRecord_keepsMemories (s : State) (h : HandOff) : s.KeepsMemories (s.actOnRecord h) := by
  unfold State.actOnRecord
  split
  · next record _ =>
    obtain ⟨v, q, w, p, e⟩ := State.windowHandOff_frame { s with handOff := none } record h.line
    exact .of_frame e rfl
  · exact .refl s

theorem State.accrueIfAccruing_keepsMemories (s : State) : s.KeepsMemories s.accrueIfAccruing :=
  .when fun _ => .of_same rfl

theorem State.turnWindow_keepsMemories (s : State) (record : Nat) (x : WindowState) :
    s.KeepsMemories (s.turnWindow record x) := by
  obtain ⟨q, w, h⟩ := (s.setWindow record { s.window record with state := x }).requestRecord_frame record
  exact .after (State.askReview_keepsMemories _) (.of_frame h rfl)

/-! ## Orders -/

theorem State.takeScrub_keepsMemories (s : State) (slot : Nat) (l : Line) : s.KeepsMemories (s.takeScrub slot l) := by
  unfold State.takeScrub
  split
  · exact s.requestDone_keepsMemories _ _
  · exact .after (State.requestItem_keepsMemories _ _) (.of_same rfl)

theorem State.takeProbe_keepsMemories (s : State) (slot : Nat) (l : Line) : s.KeepsMemories (s.takeProbe slot l) := by
  unfold State.takeProbe
  split
  · exact s.requestDone_keepsMemories _ _
  · exact .after (State.requestItem_keepsMemories _ _) (.of_same rfl)

theorem State.takeMigrate_keepsMemories (s : State) (slot : Nat) (l : Line) :
    s.KeepsMemories (s.takeMigrate slot l) := by
  unfold State.takeMigrate
  split
  · exact s.requestDone_keepsMemories _ _
  · exact .after (State.requestItem_keepsMemories _ _) (.after (State.startMigration_keepsMemories _) (.of_same rfl))

theorem State.takeRestoreRow_keepsMemories (s : State) (slot : Nat) (l : Line) :
    s.KeepsMemories (s.takeRestoreRow slot l) := by
  unfold State.takeRestoreRow
  split
  · exact s.requestDone_keepsMemories _ _
  · split
    · exact s.requestDone_keepsMemories _ _
    · exact .after (State.requestDone_keepsMemories _ _ _) (.after (State.handRecord_keepsMemories _ _) (.of_same rfl))

theorem State.markByOrder_keepsMemories (s : State) (slot : Nat) (l : Line) (mode : MarkMode) :
    s.KeepsMemories (s.markByOrder slot l mode) := by
  obtain ⟨d, t, f, q, w, j, c, h⟩ := s.markDevice_frame (orderRank l) (orderDevice l) mode .order
  exact .after (State.requestDone_keepsMemories _ _ _) (.of_frame h rfl)

theorem State.takeMarkRebuild_keepsMemories (s : State) (slot : Nat) (l : Line) :
    s.KeepsMemories (s.takeMarkRebuild slot l) := by
  unfold State.takeMarkRebuild
  split
  · exact s.requestDone_keepsMemories _ _
  · exact s.markByOrder_keepsMemories slot l _

theorem State.takeMarkEraseOnly_keepsMemories (s : State) (slot : Nat) (l : Line) :
    s.KeepsMemories (s.takeMarkEraseOnly slot l) := by
  unfold State.takeMarkEraseOnly
  split
  · exact s.requestDone_keepsMemories _ _
  · exact s.markByOrder_keepsMemories slot l _

theorem State.takeMarkRestore_keepsMemories (s : State) (slot : Nat) (l : Line) :
    s.KeepsMemories (s.takeMarkRestore slot l) := by
  unfold State.takeMarkRestore
  split
  · exact s.requestDone_keepsMemories _ _
  · exact .after (State.requestDone_keepsMemories _ _ _) (.after (State.handRecord_keepsMemories _ _) (.of_same rfl))

theorem State.takePolicy_keepsMemories (s : State) (slot : Nat) (l : Line) : s.KeepsMemories (s.takePolicy slot l) := by
  have cut : s.KeepsMemories (State.cutCredit { s with policy := clampPolicy (policyOfLine l) }) := .of_same rfl
  exact .after (State.requestDone_keepsMemories _ _ _) (.after (State.checkCoalesce_keepsMemories _)
    (.after (State.examineAll_keepsMemories _) (.after (State.review_keepsMemories _) cut)))

theorem State.takeQuiesce_keepsMemories (s : State) (slot : Nat) (l : Line) :
    s.KeepsMemories (s.takeQuiesce slot l) := by
  unfold State.takeQuiesce
  split
  · exact s.requestDone_keepsMemories _ _
  · split
    · exact .after (State.requestDone_keepsMemories _ _ _) (.of_same rfl)
    · exact .after (State.requestItem_keepsMemories _ _) (.of_same rfl)

theorem State.takeResume_keepsMemories (s : State) (slot : Nat) (l : Line) : s.KeepsMemories (s.takeResume slot l) := by
  refine .after (State.requestDone_keepsMemories _ _ _) ?_
  unfold State.abandonQuiesce
  split
  · exact .of_same rfl
  · exact .after (State.requestDone_keepsMemories _ _ _) (.of_same rfl)

theorem State.takeExport_keepsMemories (s : State) (slot : Nat) (l : Line) : s.KeepsMemories (s.takeExport slot l) :=
  have written : s.KeepsMemories (State.writeTaken
      { s with exportNumber := s.exportNumber + 1,
               exportJob := some { slot := slot, lines := s.exportLines (s.exportNumber + 1),
                                   faultEntries := s.table.length, remapEntries := s.remaps.length } } slot l) :=
    .after (State.requestItem_keepsMemories _ _) (.of_same rfl)
  .then_same written rfl

/-! ## Patrol and targeted work -/

theorem State.releasePatrol_keepsMemories (s : State) : s.KeepsMemories s.releasePatrol := by
  obtain ⟨p, q, w, j, c, h⟩ := (State.checkQuiesce { s with patrolOp := none }).endVisit_frame
  exact .after (.of_frame h rfl) (.after (State.checkQuiesce_keepsMemories _) (.of_same rfl))

theorem State.grantPatrolRead_keepsMemories (s : State) (errors : List SliceError) :
    s.KeepsMemories (s.grantPatrolRead errors) :=
  .then_same (s.applyErrorsHost_keepsMemories s.patrol.cursor errors) rfl

theorem State.endPatrolDecode_keepsMemories (s : State) (d : Decode) : s.KeepsMemories (s.endPatrolDecode d) := by
  have reported : s.KeepsMemories (s.reportVisit d) := .then_same (s.report_keepsMemories d .patrol s.time) rfl
  unfold State.endPatrolDecode
  split
  · exact .then_same reported rfl
  · exact .after (State.releasePatrol_keepsMemories _) reported

theorem State.completeTargeted_keepsMemories (s : State) (o : TargetedOrder) (fs : List FieldValue) :
    s.KeepsMemories (s.completeTargeted o fs) := .after (State.requestDone_keepsMemories _ _ _) (.of_same rfl)

theorem State.releaseScrub_keepsMemories (s : State) (slot : Nat) : s.KeepsMemories (s.releaseScrub slot) := by
  have advanced : s.KeepsMemories (State.changeOrder (State.checkQuiesce { s with targetedOp := none }) slot
      fun o => { o with cursor := o.cursor + 1 }) :=
    .after (State.changeOrder_keepsMemories _ _ _) (.after (State.checkQuiesce_keepsMemories _) (.of_same rfl))
  simp only [State.releaseScrub]
  split
  · split
    · exact .after (State.completeTargeted_keepsMemories _ _ _) advanced
    · exact advanced
  · exact advanced

theorem State.endScrubDecode_keepsMemories (s : State) (o : TargetedOrder) (d : Decode) :
    s.KeepsMemories (s.endScrubDecode o d) := by
  have reported : s.KeepsMemories (s.reportScrub o d) := .then_same (s.report_keepsMemories d _ _) rfl
  unfold State.endScrubDecode
  split
  · exact .then_same reported rfl
  · exact .after (State.releaseScrub_keepsMemories _ _) reported

theorem State.grantTargetedRead_keepsMemories (s : State) (o : TargetedOrder) (errors : List SliceError) :
    s.KeepsMemories (s.grantTargetedRead o errors) := .then_same (s.applyErrorsHost_keepsMemories _ errors) rfl

theorem State.countTargeted_keepsMemories (s : State) (o : TargetedOrder) : s.KeepsMemories (s.countTargeted o) := by
  rw [s.countTargeted_eq]
  exact .of_same rfl

theorem State.countDropped_keepsMemories (s : State) (op : OpenLine) (slot : Nat) :
    s.KeepsMemories (s.countDropped op slot) := by
  unfold State.countDropped
  split
  · exact .refl s
  · exact .of_same rfl

theorem State.endProbe_keepsMemories (s : State) (o : TargetedOrder) (d : Decode) : s.KeepsMemories (s.endProbe o d) :=
  .after (State.completeTargeted_keepsMemories _ _ _)
    (.after (State.checkQuiesce_keepsMemories _) (.then_same (s.report_keepsMemories d .probe s.time) rfl))

/-! ## Migration and rebuild -/

theorem State.endCopyDecode_keepsMemories (s : State) (d : Decode) : s.KeepsMemories (s.endCopyDecode d) :=
  .then_same (s.report_keepsMemories d .migration s.time) rfl

theorem State.completeMigration_keepsMemories (s : State) (m : Migration) (e : RemapEntry) :
    s.KeepsMemories (s.completeMigration m e) := by
  have discarded : s.KeepsMemories (State.discardEarlier
      (s.changeRemap e.rank e.row fun x => { x with state := .active, cursor := 128, earlier := none }) e) := by
    unfold State.discardEarlier
    split <;> exact .of_same rfl
  have removed : s.KeepsMemories (State.removeEntry (State.discardEarlier
      (s.changeRemap e.rank e.row fun x => { x with state := .active, cursor := 128, earlier := none }) e)
      e.rank e.row) := .then_same discarded rfl
  have finished : ∀ u : State, u.KeepsMemories (u.finishMigrationSlot m e) := fun u => by
    unfold State.finishMigrationSlot
    split
    · exact u.requestDone_keepsMemories _ _
    · exact .refl u
  have recorded := fun r => State.KeepsMemories.after (finished _) (.after (State.handRecord_keepsMemories _ r) removed)
  exact .after (State.startMigration_keepsMemories _) (.then_same (recorded _) rfl)

theorem State.endCopy_keepsMemories (s : State) (e : RemapEntry) : s.KeepsMemories (s.endCopy e) := by
  have advanced : s.KeepsMemories ((State.checkQuiesce { s with migrationOp := none }).changeRemap e.rank e.row
      fun x => { x with cursor := x.cursor + 1 }) :=
    .after (State.changeRemap_keepsMemories _ _ _ _) (.after (State.checkQuiesce_keepsMemories _) (.of_same rfl))
  simp only [State.endCopy]
  split
  · exact advanced
  · split
    · exact .after (State.completeMigration_keepsMemories _ _ _) advanced
    · exact advanced

theorem State.endRebuildDecode_keepsMemories (s : State) (d : Decode) : s.KeepsMemories (s.endRebuildDecode d) :=
  .after (t := (s.report d .rebuild s.time).setRankDevices d.rank
      (((s.report d .rebuild s.time).rankDevices d.rank).counted d.classify.cls)) (.of_same rfl)
    (.after (State.setRankDevices_keepsMemories _ _ _) (s.report_keepsMemories d .rebuild s.time))

theorem State.completeRebuild_keepsMemories (s : State) (rank : Nat) : s.KeepsMemories (s.completeRebuild rank) := by
  unfold State.completeRebuild
  simp only
  split
  · exact .of_same rfl
  · exact .after (State.examineDevices_keepsMemories _ _ _ _)
      (.after (State.handRecord_keepsMemories _ _) (.of_same rfl))

theorem State.endRebuildLine_keepsMemories (s : State) (op : OpenLine) : s.KeepsMemories (s.endRebuildLine op) := by
  have released : s.KeepsMemories (State.checkQuiesce { s with rebuildOp := none }) :=
    .after (State.checkQuiesce_keepsMemories _) (.of_same rfl)
  simp only [State.endRebuildLine]
  split
  · exact .after (State.setRankDevices_keepsMemories _ _ _) released
  · exact .after (State.completeRebuild_keepsMemories _ _) (.after (State.setRankDevices_keepsMemories _ _ _) released)

end Sys2Proof.Machine
end

section
/-! PROOFS. O54: every command keeps the three memories in canonical form, and so does every step. -/

namespace Sys2Proof.Machine

/-! ## The frame of a command -/

/-- Every next state that a command's effect gives has canonical memories when the state before had. -/
def EffectKeepsMemories (e : State → Host.Outcome State Fault Refusal) : Prop :=
  ∀ s t : State, e s = .next t → s.KeepsMemories t

/-- A command whose own effect keeps the form, from whatever state the pending hand-off leaves. -/
theorem act_keepsMemories {f : State → State} (hf : ∀ u : State, u.KeepsMemories (f u)) : EffectKeepsMemories (act f) :=
  fun s t h => by
    cases h
    exact .then_same (.after (hf _) s.settle_keepsMemories) rfl

theorem onHandOff_keepsMemories {p : HandOff → Bool} {f : State → HandOff → State}
    (hf : ∀ (u : State) (h : HandOff), u.KeepsMemories (f u h)) : EffectKeepsMemories (onHandOff p f) := fun s t h => by
  unfold onHandOff at h
  split at h
  · split at h
    · cases h
      exact .then_same (hf _ _) rfl
    · cases h
      exact .refl s
  · cases h
    exact .refl s

theorem onOrder_keepsMemories {p : Line → Bool} {f : State → Nat → Line → State}
    (hf : ∀ (u : State) (slot : Nat) (l : Line), u.KeepsMemories (f u slot l)) :
    EffectKeepsMemories (onOrder p f) := by
  refine act_keepsMemories fun u => ?_
  split
  · exact .after (hf _ _ _) (.of_same rfl)
  · exact .refl u

/-! ### Resets and restart -/

theorem execPowerOnReset_keepsMemories (ranks : BitVec 2) (base : BitVec 13) :
    EffectKeepsMemories (execPowerOnReset ranks base) := fun s t h => by
  cases h
  exact State.powerOn_keepsMemories s _ _ _ _

theorem execArrayInitLineWrite_keepsMemories (rank : Nat) : EffectKeepsMemories (execArrayInitLineWrite rank) :=
  act_keepsMemories fun u => .when fun _ => u.initLine_keepsMemories rank

theorem execArrayInitDone_keepsMemories : EffectKeepsMemories execArrayInitDone :=
  act_keepsMemories fun u => .when fun _ => by
    split
    · exact .of_same rfl
    · exact u.openPort_keepsMemories

theorem execWarmReset_keepsMemories : EffectKeepsMemories execWarmReset := act_keepsMemories fun u => by
  split
  · exact u.powerOn_keepsMemories _ _ _ _
  · exact .refl u
  · exact .after (State.beginRestartStep_keepsMemories _ _) (.of_same rfl)
  · exact .after (State.beginRestartStep_keepsMemories _ _) (.of_same rfl)

theorem execRestartSlotScanRead_keepsMemories : EffectKeepsMemories execRestartSlotScanRead :=
  act_keepsMemories fun u => by
    split
    · exact .after (State.beginRestartStep_keepsMemories _ _) (u.scanSlot_keepsMemories _ _)
    · exact .refl u

theorem execRestartWindowReread_keepsMemories : EffectKeepsMemories execRestartWindowReread :=
  act_keepsMemories fun u => by
    split
    · exact .after (State.beginRestartStep_keepsMemories _ _) (u.rereadWindow_keepsMemories _ _ _)
    · exact .refl u

theorem execRestartMarkRead_keepsMemories : EffectKeepsMemories execRestartMarkRead := act_keepsMemories fun u => by
  split
  · exact .after (State.beginRestartStep_keepsMemories _ _) (u.rereadMark_keepsMemories _)
  · exact .refl u

/-! ### The demand path -/

theorem execAccessAboveLTotal_keepsMemories (kind : AccessKind) (address : Nat) :
    EffectKeepsMemories (execAccessAboveLTotal kind address) :=
  act_keepsMemories fun u => .when fun _ => u.serveAbove_keepsMemories _ _

theorem execServerReadGrant_keepsMemories (port : Nat) (errors : List SliceError) :
    EffectKeepsMemories (execServerReadGrant port errors) := act_keepsMemories fun u => by
  split
  · exact .when fun _ =>
      .after (State.freePort_keepsMemories _ _) (.then_same (u.applyErrorsHost_keepsMemories _ errors) rfl)
  · exact .refl u

theorem execServerReadDecodeEnd_keepsMemories (port : Nat) : EffectKeepsMemories (execServerReadDecodeEnd port) :=
  act_keepsMemories fun u => by
    split
    · exact .after (State.endServerRead_keepsMemories _ _) (.of_same rfl)
    · exact .refl u

theorem execWriteBackGrant_keepsMemories (port : Nat) : EffectKeepsMemories (execWriteBackGrant port) :=
  act_keepsMemories fun u => by
    split
    · exact .when fun _ => u.writeBackNow_keepsMemories _
    · exact .refl u

theorem execFullLineWriteGrant_keepsMemories (port : Nat) : EffectKeepsMemories (execFullLineWriteGrant port) :=
  act_keepsMemories fun u => by
    split
    · exact .when fun _ => .after (State.freePort_keepsMemories _ _)
        (.after (State.handOver_keepsMemories _ _ _) (u.hostWrite_reply_keepsMemories _ _ _))
    · exact .refl u

theorem execMergeReadGrant_keepsMemories (port : Nat) (errors : List SliceError) :
    EffectKeepsMemories (execMergeReadGrant port errors) := act_keepsMemories fun u => by
  split
  · exact .when fun _ => .then_same (u.applyErrorsHost_keepsMemories _ errors) rfl
  · exact .refl u

theorem execMergeDecodeEnd_keepsMemories (port : Nat) : EffectKeepsMemories (execMergeDecodeEnd port) :=
  act_keepsMemories fun u => by
    split
    · exact u.endMerge_keepsMemories _ _ _ _ _ _
    · exact .refl u

theorem execMaskedWriteHalfGrant_keepsMemories (port : Nat) : EffectKeepsMemories (execMaskedWriteHalfGrant port) :=
  act_keepsMemories fun u => by
    split
    · refine .when fun _ => ?_
      split
      · exact u.writeOrphanHalf_keepsMemories _ _ _ _
      · exact u.writeHalf_keepsMemories _ _ _ _
    · exact .refl u

theorem execMaskedWriteEntryGrant_keepsMemories (port : Nat) : EffectKeepsMemories (execMaskedWriteEntryGrant port) :=
  act_keepsMemories fun u => by
    split
    · exact .when fun _ => u.writeFromEntry_keepsMemories _ _ _ _
    · exact .refl u

/-! ### Hand-offs, the writer, the own reads and the takes -/

theorem execReadMarkWrite_keepsMemories : EffectKeepsMemories execReadMarkWrite :=
  onHandOff_keepsMemories fun u h => by
    obtain ⟨j, w, moved⟩ := State.moveMark_frame
      { u with handOff := HandOff.remaining { h with markDone := true } } (markField h.line)
    exact .of_frame moved rfl

theorem execCauseAcknowledge_keepsMemories : EffectKeepsMemories execCauseAcknowledge :=
  onHandOff_keepsMemories fun _ _ => .after (State.setCauses_keepsMemories _ _) (.of_same rfl)

theorem execWindowStart_keepsMemories (record : Nat) : EffectKeepsMemories (execWindowStart record) :=
  act_keepsMemories fun u => .when fun _ => u.turnWindow_keepsMemories _ _

theorem execWindowEnd_keepsMemories (record : Nat) : EffectKeepsMemories (execWindowEnd record) :=
  act_keepsMemories fun u => .when fun _ => u.turnWindow_keepsMemories _ _

theorem execCwWriterGrant_keepsMemories : EffectKeepsMemories execCwWriterGrant := act_keepsMemories fun u => by
  split
  · exact .refl u
  · exact .when fun _ => .after (State.hostWrite_keepsMemories _ _ _) (.of_same rfl)

theorem execOwnReadGrant_keepsMemories (errors : List SliceError) : EffectKeepsMemories (execOwnReadGrant errors) :=
  act_keepsMemories fun u => by
    split
    · exact .when fun _ => u.grantOwnRead_keepsMemories _ errors
    · exact .refl u

theorem execOwnReadDecodeEnd_keepsMemories : EffectKeepsMemories execOwnReadDecodeEnd := act_keepsMemories fun u => by
  split
  · split
    · exact u.endOwnRead_keepsMemories _ _ _
    · exact .refl u
    · exact .refl u
  · exact .refl u

theorem execTakeStart_keepsMemories : EffectKeepsMemories execTakeStart := act_keepsMemories fun u => by
  refine .after (t := u.settleCursor) ?_ (.of_same rfl)
  exact .when fun _ => .of_same rfl

theorem execTakeUnusableLine_keepsMemories : EffectKeepsMemories execTakeUnusableLine := act_keepsMemories fun u => by
  split
  · exact .of_same rfl
  · exact .refl u

theorem execTakeNotPosted_keepsMemories : EffectKeepsMemories execTakeNotPosted := act_keepsMemories fun u => by
  split
  · exact .when fun _ => .of_same rfl
  · exact .refl u

theorem execTakeUnknownKind_keepsMemories : EffectKeepsMemories execTakeUnknownKind := act_keepsMemories fun u => by
  split
  · exact .when fun _ => .after (State.requestDone_keepsMemories _ _ _) (.of_same rfl)
  · exact .refl u

theorem execTakeLackOfRoom_keepsMemories : EffectKeepsMemories execTakeLackOfRoom := act_keepsMemories fun u => by
  split
  · exact .when fun _ => .of_same rfl
  · exact .refl u

/-! ### Decay, pacing and the background engines -/

theorem execDecayTick_keepsMemories : EffectKeepsMemories execDecayTick := act_keepsMemories fun _ => .when fun _ =>
  .after (.of_frame (State.clearAllSuspects_only _) rfl) (.of_same rfl)

theorem execPaceIntervalStart_keepsMemories : EffectKeepsMemories execPaceIntervalStart := act_keepsMemories fun u => by
  split
  · next t _ =>
    obtain ⟨p, reviewed⟩ := u.periodicReview_frame t
    have counted : u.KeepsMemories (u.periodicReview t).startCounts := .then_same (.of_frame reviewed rfl) rfl
    exact .then_same (.after (State.accrueIfAccruing_keepsMemories _) counted) rfl
  · exact .refl u

theorem execPeriodicPaceReview_keepsMemories : EffectKeepsMemories execPeriodicPaceReview :=
  act_keepsMemories fun u => by
    split
    · exact .when fun _ => .then_same u.askReview_keepsMemories rfl
    · exact .refl u

theorem execPassLate_keepsMemories : EffectKeepsMemories execPassLate :=
  act_keepsMemories fun u => .when fun _ => .after (State.review_keepsMemories _) u.markLate_keepsMemories

theorem execPatrolReadGrant_keepsMemories (errors : List SliceError) :
    EffectKeepsMemories (execPatrolReadGrant errors) :=
  act_keepsMemories fun u => .when fun _ => u.grantPatrolRead_keepsMemories errors

theorem execPatrolDecodeEnd_keepsMemories : EffectKeepsMemories execPatrolDecodeEnd := act_keepsMemories fun u => by
  split
  · exact u.endPatrolDecode_keepsMemories _
  · exact .refl u

theorem execPatrolWriteGrant_keepsMemories : EffectKeepsMemories execPatrolWriteGrant := act_keepsMemories fun u => by
  split
  · exact .when fun _ => .after (State.releasePatrol_keepsMemories _) (u.visitWrite_keepsMemories _ _)
  · exact .refl u

theorem execScrubVisitReadGrant_keepsMemories (errors : List SliceError) :
    EffectKeepsMemories (execScrubVisitReadGrant errors) := act_keepsMemories fun u => by
  split
  · exact .after (State.countTargeted_keepsMemories _ _) (u.grantTargetedRead_keepsMemories _ _)
  · exact .refl u

theorem execScrubVisitDecodeEnd_keepsMemories : EffectKeepsMemories execScrubVisitDecodeEnd :=
  act_keepsMemories fun u => by
    split
    · exact u.endScrubDecode_keepsMemories _ _
    · exact .refl u

theorem execScrubVisitWriteGrant_keepsMemories : EffectKeepsMemories execScrubVisitWriteGrant :=
  act_keepsMemories fun u => by
    split
    · exact .when fun _ => .after (State.releaseScrub_keepsMemories _ _)
        (.after (State.countDropped_keepsMemories _ _ _) (u.visitWrite_keepsMemories _ _))
    · exact .refl u

theorem execProbeReadGrant_keepsMemories (errors : List SliceError) : EffectKeepsMemories (execProbeReadGrant errors) :=
  act_keepsMemories fun u => by
    split
    · exact u.grantTargetedRead_keepsMemories _ _
    · exact .refl u

theorem execProbeDecodeEnd_keepsMemories : EffectKeepsMemories execProbeDecodeEnd := act_keepsMemories fun u => by
  split
  · exact u.endProbe_keepsMemories _ _
  · exact .refl u

theorem execCopyReadGrant_keepsMemories (errors : List SliceError) : EffectKeepsMemories (execCopyReadGrant errors) :=
  act_keepsMemories fun u => by
    split
    · exact .when fun _ => .then_same (u.applyErrors_keepsMemories _ _ _ errors) rfl
    · exact .refl u

theorem execCopyDecodeEnd_keepsMemories : EffectKeepsMemories execCopyDecodeEnd := act_keepsMemories fun u => by
  split
  · exact u.endCopyDecode_keepsMemories _
  · exact .refl u

theorem execCopyWriteGrant_keepsMemories : EffectKeepsMemories execCopyWriteGrant := act_keepsMemories fun u => by
  split
  · exact .when fun _ => .after (State.endCopy_keepsMemories _ _) (u.copyWrite_keepsMemories _ _ _)
  · exact .refl u

theorem execRebuildReadGrant_keepsMemories (errors : List SliceError) :
    EffectKeepsMemories (execRebuildReadGrant errors) :=
  act_keepsMemories fun u => by
    split
    · exact .when fun _ => .then_same (u.applyErrors_keepsMemories _ _ _ errors) rfl
    · exact .refl u

theorem execRebuildDecodeEnd_keepsMemories : EffectKeepsMemories execRebuildDecodeEnd := act_keepsMemories fun u => by
  split
  · exact u.endRebuildDecode_keepsMemories _
  · exact .refl u

theorem execRebuildWriteGrant_keepsMemories : EffectKeepsMemories execRebuildWriteGrant := act_keepsMemories fun u => by
  split
  · exact .when fun _ => .after (State.endRebuildLine_keepsMemories _ _) (u.rebuildWrite_keepsMemories _ _)
  · exact .refl u

theorem execHoldoffExpiry_keepsMemories : EffectKeepsMemories execHoldoffExpiry :=
  act_keepsMemories fun _ => .when fun _ => .after (State.setCauses_keepsMemories _ _) (.of_same rfl)

theorem execStatusTimerExpiry_keepsMemories : EffectKeepsMemories execStatusTimerExpiry :=
  act_keepsMemories fun _ => .when fun _ => .after (State.askStatus_keepsMemories _) (.of_same rfl)

/-! ### Every command and every step -/

theorem exec_keepsMemories (c : Instr) : EffectKeepsMemories (exec c) := by
  cases c with
  | powerOnReset ranks base => exact execPowerOnReset_keepsMemories ranks base
  | arrayInitLineWrite rank => exact execArrayInitLineWrite_keepsMemories rank
  | arrayInitDone => exact execArrayInitDone_keepsMemories
  | warmReset => exact execWarmReset_keepsMemories
  | restartSlotScanRead => exact execRestartSlotScanRead_keepsMemories
  | restartWindowReread => exact execRestartWindowReread_keepsMemories
  | restartMarkRead => exact execRestartMarkRead_keepsMemories
  | restartEnd => exact act_keepsMemories State.admitIdentity_keepsMemories
  | accessAboveLTotal kind address => exact execAccessAboveLTotal_keepsMemories kind address
  | accessNotReady => exact act_keepsMemories .refl
  | serverReadPresent address => exact act_keepsMemories fun u => u.arrive_keepsMemories .read address (.read address)
  | serverReadGrant port errors => exact execServerReadGrant_keepsMemories port errors
  | serverReadDecodeEnd port => exact execServerReadDecodeEnd_keepsMemories port
  | writeBackGrant port => exact execWriteBackGrant_keepsMemories port
  | fullLineWritePresent address data =>
    exact act_keepsMemories fun u => u.arrive_keepsMemories .fullLineWrite address (.fullLineWrite address data)
  | fullLineWriteGrant port => exact execFullLineWriteGrant_keepsMemories port
  | maskedWritePresent address data mask =>
    exact act_keepsMemories fun u => u.arrive_keepsMemories .maskedWrite address (.maskedWrite address data mask)
  | mergeReadGrant port errors => exact execMergeReadGrant_keepsMemories port errors
  | mergeDecodeEnd port => exact execMergeDecodeEnd_keepsMemories port
  | maskedWriteHalfGrant port => exact execMaskedWriteHalfGrant_keepsMemories port
  | maskedWriteEntryGrant port => exact execMaskedWriteEntryGrant_keepsMemories port
  | slotPost => exact onHandOff_keepsMemories State.actOnSlot_keepsMemories
  | slotFree => exact onHandOff_keepsMemories State.actOnSlot_keepsMemories
  | windowArm => exact onHandOff_keepsMemories State.actOnRecord_keepsMemories
  | windowCancel => exact onHandOff_keepsMemories State.actOnRecord_keepsMemories
  | windowEmpty => exact onHandOff_keepsMemories State.actOnRecord_keepsMemories
  | windowStateNotActedOn => exact onHandOff_keepsMemories State.actOnRecord_keepsMemories
  | readMarkWrite => exact execReadMarkWrite_keepsMemories
  | causeAcknowledge => exact execCauseAcknowledge_keepsMemories
  | otherWindowWrite => exact onHandOff_keepsMemories fun _ _ => .of_same rfl
  | windowStart record => exact execWindowStart_keepsMemories record
  | windowEnd record => exact execWindowEnd_keepsMemories record
  | cwWriterGrant => exact execCwWriterGrant_keepsMemories
  | cwWriterAdmission => exact act_keepsMemories State.admitOldest_keepsMemories
  | ownReadGrant errors => exact execOwnReadGrant_keepsMemories errors
  | ownReadDecodeEnd => exact execOwnReadDecodeEnd_keepsMemories
  | takeStart => exact execTakeStart_keepsMemories
  | takeUnusableLine => exact execTakeUnusableLine_keepsMemories
  | takeNotPosted => exact execTakeNotPosted_keepsMemories
  | takeUnknownKind => exact execTakeUnknownKind_keepsMemories
  | takeLackOfRoom => exact execTakeLackOfRoom_keepsMemories
  | scrubRange => exact onOrder_keepsMemories State.takeScrub_keepsMemories
  | probeLine => exact onOrder_keepsMemories State.takeProbe_keepsMemories
  | retireRowMigrate => exact onOrder_keepsMemories State.takeMigrate_keepsMemories
  | retireRowRestore => exact onOrder_keepsMemories State.takeRestoreRow_keepsMemories
  | markDeviceRebuild => exact onOrder_keepsMemories State.takeMarkRebuild_keepsMemories
  | markDeviceEraseOnly => exact onOrder_keepsMemories State.takeMarkEraseOnly_keepsMemories
  | markDeviceRestore => exact onOrder_keepsMemories State.takeMarkRestore_keepsMemories
  | setPolicy => exact onOrder_keepsMemories State.takePolicy_keepsMemories
  | quiesce => exact onOrder_keepsMemories State.takeQuiesce_keepsMemories
  | resume => exact onOrder_keepsMemories State.takeResume_keepsMemories
  | exportTables => exact onOrder_keepsMemories State.takeExport_keepsMemories
  | exportLineEntry => exact act_keepsMemories State.admitExportLine_keepsMemories
  | decayTick => exact execDecayTick_keepsMemories
  | paceIntervalStart => exact execPaceIntervalStart_keepsMemories
  | periodicPaceReview => exact execPeriodicPaceReview_keepsMemories
  | passLate => exact execPassLate_keepsMemories
  | patrolReadGrant errors => exact execPatrolReadGrant_keepsMemories errors
  | patrolDecodeEnd => exact execPatrolDecodeEnd_keepsMemories
  | patrolWriteGrant => exact execPatrolWriteGrant_keepsMemories
  | scrubVisitReadGrant errors => exact execScrubVisitReadGrant_keepsMemories errors
  | scrubVisitDecodeEnd => exact execScrubVisitDecodeEnd_keepsMemories
  | scrubVisitWriteGrant => exact execScrubVisitWriteGrant_keepsMemories
  | probeReadGrant errors => exact execProbeReadGrant_keepsMemories errors
  | probeDecodeEnd => exact execProbeDecodeEnd_keepsMemories
  | copyReadGrant errors => exact execCopyReadGrant_keepsMemories errors
  | copyDecodeEnd => exact execCopyDecodeEnd_keepsMemories
  | copyWriteGrant => exact execCopyWriteGrant_keepsMemories
  | rebuildReadGrant errors => exact execRebuildReadGrant_keepsMemories errors
  | rebuildDecodeEnd => exact execRebuildDecodeEnd_keepsMemories
  | rebuildWriteGrant => exact execRebuildWriteGrant_keepsMemories
  | stagingDeparture => exact act_keepsMemories State.stagingDeparts_keepsMemories
  | holdoffExpiry => exact execHoldoffExpiry_keepsMemories
  | statusTimerExpiry => exact execStatusTimerExpiry_keepsMemories
  | statusWrite => exact act_keepsMemories State.admitStatus_keepsMemories

theorem State.idle_keepsMemories {s t : State} (h : s.idle = .next t) : s.KeepsMemories t := by
  unfold State.idle at h
  split at h
  · exact act_keepsMemories .refl s t h
  · split at h
    · exact exec_keepsMemories _ s t h
    · cases h
      exact .of_same rfl

theorem step_keepsMemories {s t : State} (h : step s = .next t) : s.KeepsMemories t := by
  unfold step at h
  split at h
  · exact .after (exec_keepsMemories _ _ t h) (.of_same rfl)
  · exact State.idle_keepsMemories h

/-- Settles O54: the bytes are stored by line writes, array initialisation and the devices' faults alone, and each of
these keeps the canonical form. -/
theorem stepsKeepMemoryCanonical : Obligations.StepsKeepMemoryCanonical := fun _ _ h hstep => step_keepsMemories hstep h

end Sys2Proof.Machine
end

section
/-! PROOFS. O1: the command at the front of the queue. -/

namespace Sys2Proof.Machine

/-- Settles O1: `step` looks at the queue alone, and its front command finds the queue's rest in the state. -/
theorem stepRunsFrontCommand : Obligations.StepRunsFrontCommand := fun _ _ _ => rfl

end Sys2Proof.Machine
end
